-- ==== Sys2Proof/Word.lean ====
section
/-! DEFINITION. The machine's plainest data: the 32-bit word of a lane and of a station (R8, R18). -/

namespace Sys2Proof

/-- A 32-bit word: a lane of a payload (R18) or a station word (R76). -/
abbrev Word := BitVec 32

/-- The byte, the smallest addressable unit of every memory space (R188, R282). -/
abbrev Byte := BitVec 8

end Sys2Proof
end

