-- ==== Sys2Proof/Syntax.lean ====
section
/-! DEFINITION. The syntax: operand forms, modifiers and the one inductive of the part's steps, one constructor per row of
spec/opcode_table.json (03 R81 to R94 for the 117 node opcodes, 95 for the events of the units). -/

namespace Sys2Proof

/-- A node's input ports (R21). -/
inductive Port | L | R | Q
  deriving DecidableEq, Repr

/-- The field W of an opcode that is no memory access (R82). -/
inductive Shape | word | vec | packed
  deriving DecidableEq, Repr

/-- The field W of ld, st, ldx, stx, amo and red (R82). -/
inductive Access | word | vec | half | byte
  deriving DecidableEq, Repr

/-- Integer element types, M[3:2] of rows 0x0 and 0x1 (R83). -/
inductive IntTy | i32 | n32 | i16 | i8
  deriving DecidableEq, Repr

/-- Float element types, M[3:2] of row 0x2 (R83). -/
inductive FloatTy | f32 | bf16 | f16
  deriving DecidableEq, Repr

/-- Rounding modes (R62). -/
inductive Round | rne | rtz | rdn | rup
  deriving DecidableEq, Repr

/-- Lane types of row 0x4 (R143). -/
inductive LaneTy | i32 | n32 | f32
  deriving DecidableEq, Repr

/-- Type and rounding or saturation of rsum and scan (R143). -/
inductive SumMode
  | int (unsigned sat : Bool)
  | flt (rm : Round)
  deriving DecidableEq, Repr

/-- Conditions of cmp (R122). -/
inductive IntCond | eq | ne | lt | ge | ltu | geu | gt | le | gtu | leu | tst | ntst
  deriving DecidableEq, Repr

/-- Conditions of fcmp (R129). -/
inductive FloatCond | oeq | one | olt | oge | ogt | ole | ord | ueq | une | ult | uge | ugt | ule | uno
  deriving DecidableEq, Repr

/-- Scale of lea (R123): no shift, 2, 6 or 10 places. -/
inductive LeaScale | x1 | x4 | x64 | x1024
  deriving DecidableEq, Repr

/-- Immediate form of const (R123). -/
inductive ConstMode | sx | zx | hi
  deriving DecidableEq, Repr

/-- Destination range of sat (R123). -/
inductive SatTo | n32 | i16 | i8 | n16 | n8
  deriving DecidableEq, Repr

/-- Field read by tagget (R123). -/
inductive TagGet | iter | colour | path | tag
  deriving DecidableEq, Repr

/-- Field written by tagset (R124). -/
inductive TagSet | iter | colour | path
  deriving DecidableEq, Repr

/-- Part of the time base that rdtime returns (R125). -/
inductive TimeSel | lo | hi | sub
  deriving DecidableEq, Repr

/-- Operation of fsgn (R130). -/
inductive SignOp | copy | ncopy | xsgn | abs
  deriving DecidableEq, Repr

/-- Address space of a memory node (R83). -/
inductive Space | scr | glb | ring
  deriving DecidableEq, Repr

/-- Memory order of a memory node (R83). -/
inductive Order | plain | acq | rel | acqrel
  deriving DecidableEq, Repr

/-- Scope of an access (R90, R194). -/
inductive Scope | tile | billet | side | device | system
  deriving DecidableEq, Repr

/-- Operation of amo and red, held in T1 (R198). -/
inductive AtomOp | swap | add | and | or | xor | smin | smax | umin | umax | cas | fadd | fmin | fmax
  deriving DecidableEq, Repr

/-- Condition of wtaddr (R205). -/
inductive WatchCond | eq | ne | ges | tst
  deriving DecidableEq, Repr

/-- Accumulator type (R228). -/
inductive AccTy | f32 | i32 | q16
  deriving DecidableEq, Repr

/-- Operation of ringst (R227). -/
inductive RingOp | query | pop | reset
  deriving DecidableEq, Repr

/-- Flag committed by chk (R244). -/
inductive ChkFlag | done | partially | none
  deriving DecidableEq, Repr

/-- Operation of csr (R245). -/
inductive CsrOp | rd | wr | set | clr
  deriving DecidableEq, Repr

/-- A target field T0 or T1 (R84). -/
inductive Target
  | none
  | port (slot : BitVec 6) (p : Port)
  | chan (n : BitVec 5)
  deriving DecidableEq, Repr

/-- Port replaced by the XG immediate (R87). -/
inductive ISel | none | l | r | q
  deriving DecidableEq, Repr

/-- The XG extension word (R87). -/
structure XG where
  sl : BitVec 4
  sr : BitVec 4
  isel : ISel
  xmod : BitVec 6
  imm : BitVec 16
  deriving DecidableEq, Repr

/-- The XM extension word (R90). -/
structure XM where
  sl : BitVec 4
  sr : BitVec 4
  pred : BitVec 6
  succ : BitVec 6
  scope : Scope
  win : BitVec 3
  disp : BitVec 6
  deriving DecidableEq, Repr

/-- The XX extension word (R92). -/
structure XX where
  wa : BitVec 3
  wb : BitVec 3
  ra : BitVec 4
  rb : BitVec 4
  accmask : BitVec 8
  npair : BitVec 10
  deriving DecidableEq, Repr

/-- A node whose extension, if any, is XG (R81, R86). -/
structure GNode where
  w : Shape
  t0 : Target
  t1 : Target
  xg : Option XG
  deriving DecidableEq, Repr

/-- A node whose extension is XM (R81, R86). On amo and red T1 is the operation, and t1 is none. -/
structure MNode where
  w : Access
  t0 : Target
  t1 : Target
  xm : XM
  deriving DecidableEq, Repr

/-- A C-tile: device billet address (R3) and tile number c0 to c7. -/
structure TileAddr where
  b : Nat
  t : Nat
  deriving DecidableEq, Repr

/-- A station position: tile, block and slot (R76). -/
structure NodeAddr where
  b : Nat
  t : Nat
  blk : Nat
  slot : Nat
  deriving DecidableEq, Repr

/-- A record of a virtual queue: device queue number and slot (R327). It also names a launch. -/
structure RecId where
  queue : Nat
  slot : Nat
  deriving DecidableEq, Repr

/-- A mailbox command as its GO write finds it: issuing function, software's tag, MBARG0 onward (R440). -/
structure MbReq where
  fn : Nat
  tag : BitVec 16
  args : List Word
  deriving DecidableEq, Repr

/-- A debug command's session and context (R421). -/
structure DbgReq where
  session : Nat
  cid : Nat
  deriving DecidableEq, Repr

/-- Kinds of link (R418). -/
inductive LinkKind | mesh | vertical | ucieA | ucieB
  deriving DecidableEq, Repr

/-- A link as the LINK record names it (R418). -/
structure LinkId where
  kind : LinkKind
  side : Nat
  layer : Nat
  port : Nat
  deriving DecidableEq, Repr

/-- Where an uncorrectable error is found (R419). -/
inductive UeSite
  /-- State of a billet, with the structure code of R417: at a C-tile (0 to 7), an M-tile (8 to 15) or none (31), and a station position
  or none (511), as R410 numbers them. -/
  | billet (b tile slot code : Nat)
  /-- A global line that the first access in flight of a tile reads, at a physical address. -/
  | line (t : TileAddr) (pa : Nat)
  /-- A line found by write-back, drain or scrub. -/
  | scrub (pa : Nat)
  /-- A context record of a launch's page on restore. -/
  | record (r : RecId) (page : Nat)
  | steward (b : Nat)
  | frontDesk (side : Nat)
  | innkeeper (side : Nat)
  deriving DecidableEq, Repr

/-- A monitor that read below its threshold (R434): a site of a side's layer, or a link. -/
inductive AgingSite
  | site (layer x y : Nat)
  | link (l : LinkId)
  deriving DecidableEq, Repr

/-- The part's steps: the 117 node opcodes of R94, with the fields of their words, and the 135 events of the other units,
with the parameters that say where each takes place. -/
inductive Instr
  /-- ADD (R121): Adds the elements of L and R, wrapping or saturating, and sends the sum to its targets. -/
  | add (n : GNode) (ty : IntTy) (sat : Bool)
  /-- SUB (R121): Subtracts the elements of R from those of L, wrapping or saturating. -/
  | sub (n : GNode) (ty : IntTy) (sat : Bool)
  /-- MUL (R121): Multiplies the elements of L and R, wrapping or saturating. -/
  | mul (n : GNode) (ty : IntTy) (sat : Bool)
  /-- MULH (R121): Returns the high half of the products of the elements of L and R. -/
  | mulh (n : GNode) (ty : IntTy)
  /-- MAD (R121): Computes L times R plus Q per element, wrapping or saturating. -/
  | mad (n : GNode) (ty : IntTy) (sat : Bool)
  /-- MIN (R121): Returns the element-wise minimum of L and R. -/
  | min (n : GNode) (ty : IntTy)
  /-- MAX (R121): Returns the element-wise maximum of L and R. -/
  | max (n : GNode) (ty : IntTy)
  /-- ABSN (R121): Returns the absolute value or the negation of each element of L. -/
  | absn (n : GNode) (ty : IntTy) (sat : Bool) (neg : Bool)
  /-- AND (R121): Returns the bitwise AND of L and R. -/
  | and (n : GNode)
  /-- OR (R121): Returns the bitwise OR of L and R. -/
  | or (n : GNode)
  /-- XOR (R121): Returns the bitwise XOR of L and R. -/
  | xor (n : GNode)
  /-- ANDN (R121): Returns L AND NOT R, bitwise. -/
  | andn (n : GNode)
  /-- SHL (R121): Shifts each element of L left by the count in R, wrapping or saturating. -/
  | shl (n : GNode) (ty : IntTy) (sat : Bool)
  /-- SHR (R121): Shifts each element of L right, logically or arithmetically. -/
  | shr (n : GNode) (ty : IntTy) (ar : Bool)
  /-- ROT (R121): Rotates each element of L left or right by the count in R. -/
  | rot (n : GNode) (ty : IntTy) (right : Bool)
  /-- CMP (R122): Compares 32-bit lanes of L and R under a condition code and returns 1 or 0. -/
  | cmp (n : GNode) (c : IntCond)
  /-- SEL (R123): Selects L where Q is nonzero and R otherwise, per lane or element. -/
  | sel (n : GNode)
  /-- CLZ (R123): Counts the leading zero bits of each element of L. -/
  | clz (n : GNode) (ty : IntTy)
  /-- POPC (R123): Counts the one bits of each element of L. -/
  | popc (n : GNode) (ty : IntTy)
  /-- BEXT (R123): Extracts a bit field of L described by R, zero- or sign-extended. -/
  | bext (n : GNode) (sx : Bool)
  /-- BINS (R123): Inserts the low bits of Q into the bit field of L described by R. -/
  | bins (n : GNode)
  /-- LEA (R123): Computes L plus R scaled by a fixed power of two, modulo 2^32. -/
  | lea (n : GNode) (s : LeaScale)
  /-- CONST (R123): On a trigger at L, sends the immediate, extended or shifted, in every lane. -/
  | const (n : GNode) (m : ConstMode)
  /-- MOV (R123): Sends L unchanged, or re-encodes decoded packed elements exactly. -/
  | mov (n : GNode)
  /-- SAT (R123): Saturates L, read as i32, to a narrower signed or unsigned range. -/
  | sat (n : GNode) (dst : SatTo)
  /-- ICVT (R132): Converts one integer element of L to another integer type at a chosen position. -/
  | icvt (n : GNode) (dst : IntTy) (sat : Bool)
  /-- IOTA (R123): Builds a vector whose lane j is L plus j times R. -/
  | iota (n : GNode)
  /-- TAGGET (R123): On a trigger, returns ITER, COLOUR, PATH and PDEP, or the low tag bits. -/
  | tagget (n : GNode) (f : TagGet)
  /-- TAGSET (R124): Sends L with one tag field rewritten from R. -/
  | tagset (n : GNode) (f : TagSet)
  /-- RDTIME (R125): Samples the device time base at S4 and returns it. -/
  | rdtime (n : GNode) (f : TimeSel)
  /-- RDSLACK (R126): Returns checkout time minus now for the owning graph, saturated to i32. -/
  | rdslack (n : GNode)
  /-- FADD (R127): Adds float elements of L and R with one rounding. -/
  | fadd (n : GNode) (ty : FloatTy) (rm : Round)
  /-- FSUB (R127): Subtracts float elements of R from L with one rounding. -/
  | fsub (n : GNode) (ty : FloatTy) (rm : Round)
  /-- FMUL (R127): Multiplies float elements of L and R with one rounding. -/
  | fmul (n : GNode) (ty : FloatTy) (rm : Round)
  /-- FFMA (R127): Computes L times R plus Q in float with one rounding. -/
  | ffma (n : GNode) (ty : FloatTy) (rm : Round)
  /-- FMIN (R128): Returns the float minimum of L and R under the total order of R128. -/
  | fmin (n : GNode) (ty : FloatTy)
  /-- FMAX (R128): Returns the float maximum of L and R under the total order of R128. -/
  | fmax (n : GNode) (ty : FloatTy)
  /-- FCMP (R129): Compares float elements under an ordered or unordered condition. -/
  | fcmp (n : GNode) (c : FloatCond)
  /-- FSGN (R130): Combines the magnitude of L with a sign derived from R or cleared. -/
  | fsgn (n : GNode) (ty : FloatTy) (op : SignOp)
  /-- FRCPE (R131): Returns a reciprocal estimate truncated to 9 significant bits. -/
  | frcpe (n : GNode) (ty : FloatTy)
  /-- FRSQE (R131): Returns a reciprocal square root estimate truncated to 9 significant bits. -/
  | frsqe (n : GNode) (ty : FloatTy)
  /-- FEXP2E (R131): Returns an estimate of 2 to the power L truncated to 9 significant bits. -/
  | fexp2e (n : GNode) (ty : FloatTy)
  /-- FLOG2E (R131): Returns an estimate of log2 of L truncated to 9 significant bits. -/
  | flog2e (n : GNode) (ty : FloatTy)
  /-- FRND (R127): Rounds float elements of L to integral values in the chosen mode. -/
  | frnd (n : GNode) (ty : FloatTy) (rm : Round)
  /-- FCVT (R132): Converts one float element of L to another float type. -/
  | fcvt (n : GNode) (dst : FloatTy) (rm : Round)
  /-- FTOI (R132): Converts one float element of L to a saturated integer. -/
  | ftoi (n : GNode) (dst : IntTy) (rm : Round)
  /-- ITOF (R132): Converts one integer element of L to a float type. -/
  | itof (n : GNode) (dst : FloatTy) (rm : Round)
  /-- CVTCH (R134): Converts raw elements of L from one narrow format to another. -/
  | cvtch (n : GNode) (rm : Round)
  /-- PACK (R135): Encodes 32-bit lanes of L and R into a narrow destination format. -/
  | pack (n : GNode)
  /-- UNPACK (R136): Widens narrow elements of L exactly and sends two results to T0 and T1. -/
  | unpack (n : GNode)
  /-- SROUND (R137): Rounds float elements of L stochastically with random words from R. -/
  | sround (n : GNode)
  /-- LMUL (R138): Multiplies LNS6 elements of L and R. -/
  | lmul (n : GNode)
  /-- LACC (R138): Adds LNS6 products of L and R to the Q16.16 lanes of Q. -/
  | lacc (n : GNode)
  /-- LCVT (R139): Converts between LNS6 and f32. -/
  | lcvt (n : GNode) (tolns : Bool)
  /-- SCL (R140): Scales float elements of L by 2 to the integer in R with one rounding. -/
  | scl (n : GNode) (ty : FloatTy) (rm : Round)
  /-- QNT (R141): Quantises f32 lanes of L into an integer format with a scale register. -/
  | qnt (n : GNode)
  /-- DQNT (R141): Dequantises integer elements of L to f32 with a scale register. -/
  | dqnt (n : GNode) (rm : Round)
  /-- DOT (R142): Forms the dot product of raw elements of L and R, optionally adding Q. -/
  | dot (n : GNode) (q : Bool) (sat : Bool) (rm : Round)
  /-- RSUM (R143): Sums the 16 lanes of L by the fixed tree of R68. -/
  | rsum (n : GNode) (m : SumMode)
  /-- RMAX (R143): Returns the maximum of the 16 lanes of L. -/
  | rmax (n : GNode) (ty : LaneTy)
  /-- RMIN (R143): Returns the minimum of the 16 lanes of L. -/
  | rmin (n : GNode) (ty : LaneTy)
  /-- PERM (R143): Permutes lanes of L by the lane indices in R. -/
  | perm (n : GNode)
  /-- BCAST (R143): Broadcasts lane R of L to every lane. -/
  | bcast (n : GNode)
  /-- LSH (R143): Shifts or rotates the lanes of L by R positions. -/
  | lsh (n : GNode) (rot : Bool)
  /-- SCAN (R143): Computes the inclusive prefix sum, maximum or minimum over the lanes of L. -/
  | scan (n : GNode) (m : SumMode)
  /-- CMPX (R144): Compare-exchanges lane pairs of L at a distance chosen by XMOD. -/
  | cmpx (n : GNode) (ty : LaneTy)
  /-- SPLAT (R143): Copies the word L into every lane of a vector. -/
  | splat (n : GNode)
  /-- LGET (R143): Returns lane R of vector L as a word. -/
  | lget (n : GNode)
  /-- LSET (R143): Returns L with lane R replaced by Q. -/
  | lset (n : GNode)
  /-- WCV (R145): Sends one lane of a resident vector per firing as a word with ITER scaled by 16 plus the lane. -/
  | wcv (n : GNode)
  /-- STEER (R153): Sends L to the true or false arm by the word at R, appending a PATH bit. -/
  | steer (n : GNode) (inv : Bool)
  /-- MERGE (R155): Forwards one eligible token from L or R with its last PATH bit stripped. -/
  | merge (n : GNode)
  /-- CARRY (R158): Admits an entry token under LIMIT or forwards a feedback token, maintaining the cycle count. -/
  | carry (n : GNode) (inc : Bool)
  /-- GATE (R162): Filters L by R in pass mode, or meters L by a free-slot count in count mode. -/
  | gate (n : GNode) (count : Bool)
  /-- SINK (R163): Consumes every token at L and sends nothing. -/
  | sink (n : GNode)
  /-- EOS (R166): Replaces DATA with END, or forwards DATA and adds an END after every N tokens. -/
  | eos (n : GNode) (count : Bool)
  /-- ISEND (R167): Turns each token into a word reporting 0 for DATA or the LEVEL of an END. -/
  | isend (n : GNode)
  /-- JOIN (R164): Counts DATA tokens and sends one group word every N tokens. -/
  | join (n : GNode) (flush : Bool)
  /-- SPAWN (R170): Draws a colour under the depth floors and sends its arguments into a new instance. -/
  | spawn (n : GNode) (two : Bool)
  /-- RET (R171): Returns L to the caller tile's return queue and frees the colour. -/
  | ret (n : GNode)
  /-- CNT (R165): Counts DATA tokens and sends the count at each END. -/
  | cnt (n : GNode)
  /-- ISECT (R174): Intersects two sorted CV32 streams by coordinate. -/
  | isect (n : GNode)
  /-- UNIO (R174): Unites two sorted CV32 streams by coordinate, filling gaps with zero. -/
  | unio (n : GNode)
  /-- PORTER (R176): Grants one request arc round-robin or routes one reply to the arc at the head of its grant FIFO. -/
  | porter (n : GNode)
  /-- RNG (R178): Sends a RAND token of seeded random words with the trigger's tag. -/
  | rng (n : GNode)
  /-- REORDER (R180): Emits windowed tokens of one context in ITER order. -/
  | reorder (n : GNode)
  /-- LD (R191): Issues a load of a word, half, byte or vector into the memory port. -/
  | ld (n : MNode) (sp : Space) (o : Order)
  /-- ST (R191): Issues a store of R to the effective offset into the memory port. -/
  | st (n : MNode) (sp : Space) (o : Order)
  /-- LDX (R191): Issues a gather of enabled lanes from per-lane offsets. -/
  | ldx (n : MNode) (sp : Space) (o : Order)
  /-- STX (R191): Issues a scatter of enabled lanes to per-lane offsets. -/
  | stx (n : MNode) (sp : Space) (o : Order)
  /-- AMO (R199): Issues an atomic read-modify-write that returns the old value. -/
  | amo (n : MNode) (sp : Space) (o : Order) (op : AtomOp)
  /-- RED (R200): Issues a reduction to a sparse-update unit, returning only a completion word. -/
  | red (n : MNode) (sp : Space) (o : Order) (op : AtomOp)
  /-- FENCE (R197): Waits for release and acquire conditions at its scope and then sends its trigger. -/
  | fence (n : MNode) (o : Order)
  /-- WTADDR (R205): Reads a word and delivers it when a condition holds, arming a watch unit otherwise. -/
  | wtaddr (n : GNode) (glb : Bool) (c : WatchCond)
  /-- WAITQ (R204): Occupies a wait slot until the tile's outstanding counts fall to their limits. -/
  | waitq (n : GNode)
  /-- TLINC (R207): Increments a user timeline as a release at its scope. -/
  | tlinc (n : GNode)
  /-- TLWAIT (R208): Occupies a wait slot until a timeline reaches the value at L. -/
  | tlwait (n : GNode)
  /-- PRF (R201): Requests a line into the L1 or the L2 or RDC as an unordered hint. -/
  | prf (n : MNode)
  /-- CPY (R211): Checks a copy descriptor, assigns a copy number and queues the copy on its context. -/
  | cpy (n : GNode)
  /-- CPYR (R213): Queues a copy into the tail tiles of a ring. -/
  | cpyr (n : GNode)
  /-- QPUT (R216): Writes its token into the tail slot of a caravan, taking a credit. -/
  | qput (n : GNode)
  /-- QGET (R216): Sends the token of a filled caravan head slot and frees the slot. -/
  | qget (n : GNode)
  /-- MMA (R231): Starts one matrix pair on the ring head tiles into the current accumulator tile. -/
  | mma (x : XX) (first : Bool) (last : Bool) (acc : AccTy)
  /-- MZERO (R229): Sets the masked accumulator tiles to EMPTY, at once or when their claims end. -/
  | mzero (n : GNode)
  /-- MDRAIN (R234): Starts draining a FULL accumulator tile as 16 rows through a steering set. -/
  | mdrain (n : GNode)
  /-- RPUSH (R226): Writes its vector as the next row of a ring's tail tile. -/
  | rpush (n : GNode)
  /-- RINGST (R227): Queries, pops or resets a ring and returns its state word. -/
  | ringst (n : GNode) (op : RingOp)
  /-- SPACC (R236): Sends a scaled coordinate-value product to a SPACC M-tile. -/
  | spacc (n : GNode)
  /-- SPFLUSH (R237): Starts a flush of a SPACC M-tile's occupied entries in coordinate order. -/
  | spflush (n : GNode) (rm : Round)
  /-- RAISE (R238): Sends a CTRL token to a handler entry of this or another billet. -/
  | raise (n : GNode)
  /-- HSET (R239): Sets the enable or pending bit of a handler entry. -/
  | hset (n : GNode) (en : Bool) (pend : Bool)
  /-- HCLR (R239): Clears the enable bit or discards the pending token of a handler entry. -/
  | hclr (n : GNode) (en : Bool) (pend : Bool)
  /-- TRAP (R240): Raises the trap TRAP with its immediate code without firing. -/
  | trap (n : GNode)
  /-- CHK (R244): Commits the launch's result word and flag as a system-scope release. -/
  | chk (n : GNode) (f : ChkFlag)
  /-- CSR (R245): Reads, writes, sets or clears a tile or billet register and returns the old value. -/
  | csr (n : GNode) (op : CsrOp)
  /-- BRK (R241): Forwards its token and either counts in CT_BRKCNT or raises a debug stop. -/
  | brk (n : GNode)
  /-- HALT (R243): Ends the owning graph's launch as a system-scope release. -/
  | halt (n : GNode)
  /-- PIPELINE_RESULT_OFFER (R120): A firing's result leaves S6 after its latency and is offered to its targets, with flags set. -/
  | pipelineResultOffer (t : TileAddr)
  /-- CHANNEL_DELIVERY (R36): An input channel delivers its head token to its destination port when the port can accept it. -/
  | channelDelivery (t : TileAddr) (ch : Nat)
  /-- OUTPUT_INJECT (R267): An output channel injects one token from the egress pool under its view and PACE. -/
  | outputInject (t : TileAddr) (ch : Nat)
  /-- OFF_SIGNAL_VIEW_UPDATE (R267): A change of a receiver's off signal reaches the sender one one-way time later. -/
  | offSignalViewUpdate (k : Nat)
  /-- FLIT_INGRESS (R352): A flit reaches a billet's ingress, is checked against BL_GEN and enters its queue or handler table. -/
  | flitIngress (k : Nat)
  /-- BOUNDARY_GUARD (R357): A router egress checks a flit's CID against the neighbour or destination page. -/
  | boundaryGuard (k : Nat) (neighbour : Nat)
  /-- FRONT_DESK_REDELIVER (R352): The Front Desk delivers a late flit through its edge's current entry in its SEQ position. -/
  | frontDeskRedeliver (side : Nat)
  /-- MEMORY_PORT_ACCESS (R189): An access at the head of the memory port buffer is translated and permission-checked. -/
  | memoryPortAccess (t : TileAddr)
  /-- ACCESS_RETRY (R190): A wake token releases one retry of a held access. -/
  | accessRetry (t : TileAddr)
  /-- ACCESS_COMPLETE (R191): A memory access completes or performs at its scope and its node sends its result. -/
  | accessComplete (t : TileAddr) (k : Nat)
  /-- SPARSE_UPDATE_APPLY (R200): A sparse-update unit applies a reduction, atomic or spacc at the home. -/
  | sparseUpdateApply (group : List Nat)
  /-- RELEASE_COMPLETE (R196): A release performs once every earlier access of the billet has performed at its scope. -/
  | releaseComplete (b k : Nat)
  /-- WATCH_REREAD (R205): A watch unit re-reads its word after a write to its granule or every 1,024 fc and delivers on success. -/
  | watchReread (b u : Nat)
  /-- WAIT_SLOT_DELIVER (R204): A waitq or tlwait in a wait slot delivers its trigger when its condition holds. -/
  | waitSlotDeliver (t : TileAddr) (k : Nat)
  /-- COPY_GRANULE_MOVE (R211): A copy context moves one destination granule, subject to the two-granule engine limit. -/
  | copyGranuleMove (b ctx : Nat)
  /-- COPY_COMPLETE (R211): After the last payload write performs, the signal is written and TLC of the context becomes the copy number. -/
  | copyComplete (b ctx : Nat)
  /-- RING_TILE_FILLED (R225): A filler's last row performs, the tile is marked FULL, CLAIM clears and TAIL advances. -/
  | ringTileFilled (b ring : Nat)
  /-- MMA_READS_COMPLETE (R233): A pair's reads of its head tiles complete and tiles at REUSE+1 reads are popped. -/
  | mmaReadsComplete (t : TileAddr)
  /-- MMA_STEP_APPLY (R233): A pair's step is applied to the accumulator; after NPAIR pairs the accumulation retires and TLM increments. -/
  | mmaStepApply (t : TileAddr)
  /-- MZERO_COMPLETE (R229): A claimed or draining tile of an mzero mask becomes EMPTY and the trigger is sent. -/
  | mzeroComplete (t : TileAddr) (k : Nat)
  /-- MDRAIN_ROW (R234): One accumulator row leaves S6 to its steering destination, the last making the tile EMPTY. -/
  | mdrainRow (n : NodeAddr)
  /-- SPFLUSH_ENTRY (R237): A flush sends one occupied SPACC entry per fc, then its END. -/
  | spflushEntry (n : NodeAddr)
  /-- RETURN_QUEUE_DELIVER (R171): A tile's return queue delivers its head token to the return target. -/
  | returnQueueDeliver (t : TileAddr)
  /-- CTRL_TOKEN_ARRIVE (R272): A CTRL token takes its entry's pending slot or joins the control FIFO. -/
  | ctrlTokenArrive (b : Nat)
  /-- CONTROL_FIFO_ADVANCE (R272): The earliest FIFO token whose entry's pending slot is free moves into it. -/
  | controlFifoAdvance (b : Nat)
  /-- HANDLER_FIRE (R273): The billet fires its highest-priority armed, enabled, pending entry into its argument channel. -/
  | handlerFire (b : Nat)
  /-- STAGE_BALANCER_RUN (R278): Every 4,096 fc each float tile chooses the most occupied stage above 12 tokens. -/
  | stageBalancerRun (b : Nat)
  /-- FLOAT_TILE_REASSIGN (R278): A DRAINING float tile takes its new stage once no token of the old stage remains. -/
  | floatTileReassign (b f : Nat)
  /-- C1_ENTER (R448): A billet idle for 64 fc gates its C-tile pipelines. -/
  | c1Enter (b : Nat)
  /-- C1_EXIT (R448): An arriving token ungates a billet in C1. -/
  | c1Exit (b : Nat)
  /-- NOTIFY_WRITE (R323): A write to a queue's notify word sets TAIL, or knocks a queue that is not resident. -/
  | notifyWrite (fn qn : Nat) (v : Word)
  /-- KNOCK_SERVICE (R326): The Front Desk takes a free or victim residency entry, saves the victim and loads the knocked queue. -/
  | knockService (side : Nat)
  /-- SLOT_READ (R328): The Front Desk reads and checks one submitted slot and sets its count from pending decrements. -/
  | slotRead (q : Nat)
  /-- LAUNCH (R338): A ready LAUNCH record is validated, its result descriptor zeroed and its ENTRY pages requested. -/
  | launch (r : RecId)
  /-- COPY_RECORD (R329): A ready COPY record copies or fills bytes at system scope. -/
  | copyRecord (r : RecId)
  /-- SIGNAL_RECORD (R329): A ready SIGNAL record writes or adds a value at system scope. -/
  | signalRecord (r : RecId)
  /-- WAITMEM (R329): A ready WAITMEM record waits until a masked memory condition holds. -/
  | waitmem (r : RecId)
  /-- WAITTL (R329): A ready WAITTL record waits until a queue's completion count reaches a value. -/
  | waittl (r : RecId)
  /-- JOIN_RECORD (R329): A ready JOIN record completes at once. -/
  | joinRecord (r : RecId)
  /-- PAGEIN (R329): A ready PAGEIN record loads a page with closed gates for the next launch of its graph. -/
  | pagein (r : RecId)
  /-- EVICT (R329): A ready EVICT record makes a page the pager's first victim in its context. -/
  | evict (r : RecId)
  /-- TIMEGATE (R329): A ready TIMEGATE record waits until the DTB reaches T. -/
  | timegate (r : RecId)
  /-- RECORD_COMPLETE (R332): A record completes: decrements, completion entry, CTL, HEAD and interrupt. -/
  | recordComplete (r : RecId)
  /-- DECREMENT_DELIVER (R331): A decrement that waited for a free pending entry is recorded. -/
  | decrementDeliver (q : Nat)
  /-- LAUNCH_GATES_OPEN (R338): When every ENTRY page has finished loading, all input gates open and the launch is RUNNING. -/
  | launchGatesOpen (r : RecId)
  /-- ARGUMENT_TOKEN_INJECT (R338): The Front Desk injects one argument token under the channel's off signal. -/
  | argumentTokenInject (r : RecId)
  /-- CHECKOUT_TIME_REACHED (R379): The DTB reaches a launch's checkout time and the checkout sequence or launch end follows. -/
  | checkoutTimeReached (r : RecId)
  /-- DEADLINE_REACHED (R383): D takes effect in CHECKOUT, freezing the launch and ending it with LATE. -/
  | deadlineReached (r : RecId)
  /-- PAGE_FAULT (R343): A configuration page fault is raised for a page by a waystation threshold, launch, PAGEIN or relocation. -/
  | pageFault (r : RecId) (page : Nat)
  /-- PAGE_FAULT_SERVE (R344): The pager reserves the record, takes a billet or victim and loads the page. -/
  | pageFaultServe (side : Nat)
  /-- PAGE_LOAD (R270): The pager checks the staged image and streams it over the configuration bus. -/
  | pageLoad (b : Nat)
  /-- TILE_CRC_ACK (R270): A C-tile acknowledges its segment CRC, and a mismatch restreams once or writes a UE. -/
  | tileCrcAck (t : TileAddr) (good : Bool)
  /-- STEWARD_ROUTES_DONE (R270): The steward finishes routes and thresholds, arming handlers, priming tokens and firing init blocks. -/
  | stewardRoutesDone (b : Nat)
  /-- PAGE_EVICT (R345): The pager starts evicting a page: edges to WAYSTATION, gates closed, entry 31 raised. -/
  | pageEvict (b : Nat)
  /-- DRAIN_GATE_TIMEOUT (R345): After 64 idle fc or 8,192 fc the page's drain and handler blocks are gated. -/
  | drainGateTimeout (b : Nat)
  /-- TILE_TASK_BOUNDARY (R345): Every issued firing has written its results; the context record is written and the billet freed. -/
  | tileTaskBoundary (b : Nat)
  /-- EVICTION_BUDGET_EXPIRE (R393): An eviction past 50 µs freezes the domain and scans the billet out. -/
  | evictionBudgetExpire (b : Nat)
  /-- SCAN_OUT_COMPLETE (R393): The scan image is written as a record, the generation increments and the domain resumes. -/
  | scanOutComplete (b : Nat)
  /-- GENERATION_FLUSH_COMPLETE (R352): Every flush marker has reached the billet and the generation increment completes. -/
  | generationFlushComplete (b : Nat)
  /-- WAYSTATION_DRAIN (R351): A waystation or edge caravan sends its next token into the consumer channel under its off signal. -/
  | waystationDrain (r : RecId) (edge : Nat)
  /-- ECC_CORRECTION (R417): A correctable error is corrected in place and counted in the side's history. -/
  | eccCorrection (side struct place : Nat)
  /-- UE (R419): The Innkeeper handles an uncorrectable error by freezing, recording or reconfiguring. -/
  | ue (u : UeSite)
  /-- FLIT_CRC_FAIL (R418): A flit failing CRC is replayed, and 8 consecutive failures start a retrain. -/
  | flitCrcFail (l : LinkId)
  /-- LINK_RETRAIN (R435): A retrain request runs on a link, holding flits in retry buffers. -/
  | linkRetrain (l : LinkId)
  /-- LANE_REPAIR (R435): A lane or bond repair request remaps a lane or bond during retraining. -/
  | laneRepair (l : LinkId) (md : Nat)
  /-- WIDTH_CHANGE (R435): A width change request narrows a UCIe module, ahead of a pending frequency change. -/
  | widthChange (l : LinkId) (module : Nat)
  /-- FREQUENCY_CHANGE (R435): A frequency change request retrains a link at a new rate. -/
  | frequencyChange (l : LinkId) (rate : Nat)
  /-- LINK_RETRAIN_DONE (R435): A retrain completes, or fails and writes LINK records. -/
  | linkRetrainDone (l : LinkId) (good : Bool)
  /-- THERMAL_STEP_DOWN (R428): A layer at 105 °C steps its side's clock down with a side-wide freeze. -/
  | thermalStepDown (side : Nat)
  /-- THERMAL_STEP_UP (R428): After 100 ms below 95 °C the side's clock steps up one value. -/
  | thermalStepUp (side : Nat)
  /-- CLOCK_STEP_RESUME (R428): After a clock change the side's billets resume exactly and a FABRIC record is written. -/
  | clockStepResume (side : Nat)
  /-- POWER_CAP_EXCEEDED (R451): Board power above the cap over 10 ms steps the hotter side's clock down. -/
  | powerCapExceeded (side : Nat)
  /-- THERMAL_SHUTDOWN (R451): A junction at 115 °C trips hardware shutdown. -/
  | thermalShutdown
  /-- AGING_MONITOR_READ (R434): Every 10 s the Innkeeper reads aging monitors and schedules proactive sparing. -/
  | agingMonitorRead (side : Nat) (low : List AgingSite)
  /-- SITE_SPARE (R432): The Innkeeper evicts a billet, remaps a site to the spare row or retires the billet. -/
  | siteSpare (side layer x y : Nat)
  /-- SRAM_REMAP (R434): An SRAM row or column with repeated corrected errors is remapped. -/
  | sramRemap (side bank : Nat) (column : Bool)
  /-- L2_WAY_DISABLE (R434): An L2 way with too many errors is written back and disabled. -/
  | l2WayDisable (side way : Nat)
  /-- GDDR_PAGE_RETIRE (R434): A GDDR 7 page with a UE or repeated errors is logged and withdrawn from waystation use. -/
  | gddrPageRetire (page : Nat)
  /-- PPS_EDGE (R444): A 1PPS edge sets the source time and the DTB is measured against it. -/
  | ppsEdge
  /-- ZTOD_LINE (R444): A time-of-day line gives the TAI seconds of the last edge. -/
  | ztodLine (line : List Byte)
  /-- PTM_DIALOGUE (R444): A PTM dialogue measures the DTB offset against the host's time. -/
  | ptmDialogue (source : Int)
  /-- HOLDOVER (R376): Loss of the source, such as no edge for 2 s, sets HOLDOVER. -/
  | holdover
  /-- CTXWRITE (R342): PF0 writes a context entry, or tears the context down by clearing VALID. -/
  | ctxwrite (m : MbReq)
  /-- CTXREAD (R442): PF0 reads a context entry. -/
  | ctxread (m : MbReq)
  /-- QRANGE (R438): PF0 gives a function its queue base and count. -/
  | qrange (m : MbReq)
  /-- QINSTALL (R321): The owner installs a virtual queue descriptor. -/
  | qinstall (m : MbReq)
  /-- QDESTROY (R441): The owner destroys a queue with no record in execution. -/
  | qdestroy (m : MbReq)
  /-- FQINSTALL (R412): The owner installs a context's fault queue and writes its header. -/
  | fqinstall (m : MbReq)
  /-- INVAL (R369): The owner requests invalidation of a CID's translations, broadcast to all dies. -/
  | inval (m : MbReq)
  /-- INVALIDATION_COMPLETE (R369): Eight acknowledgements arrive and prior accesses have performed, completing the invalidation. -/
  | invalidationComplete (fn : Nat)
  /-- FAULTRESUME (R370): The driver releases one retry of each access held on a granule. -/
  | faultresume (m : MbReq)
  /-- FAULTABORT (R370): Held accesses on a granule raise PERMISSION at their nodes. -/
  | faultabort (m : MbReq)
  /-- REBALANCE (R401): PF0 relocates a resident page to a named side. -/
  | rebalance (m : MbReq)
  /-- SETROLE (R430): PF0 changes one side's role pattern through drain, flush, power, re-enumeration and notify. -/
  | setrole (m : MbReq)
  /-- DEBUG_PERMIT (R421): The owner grants a debug session an unlock for a CID. -/
  | debugPermit (m : MbReq)
  /-- DTBREAD (R374): PF0 reads the DTB and time-sync registers at one instant. -/
  | dtbread (m : MbReq)
  /-- TSYNCWRITE (R375): PF0 selects the DTB source or clears STEPPED. -/
  | tsyncwrite (m : MbReq)
  /-- FAULTLOG (R420): PF0 reads records of the device fault log. -/
  | faultlog (m : MbReq)
  /-- REGREAD (R442): PF0 reads a device, side, billet or M-tile register by code. -/
  | regread (m : MbReq)
  /-- REGWRITE (R443): PF0 writes DV_PWRCAP within 200 to 450 W. -/
  | regwrite (m : MbReq)
  /-- PWRCAP_I3C_WRITE (R451): A management controller writes DV_PWRCAP over I3C. -/
  | pwrcapI3cWrite (watts : Nat)
  /-- SETPWR_C0 (R450): PF0 returns the device to C0. -/
  | setpwrC0 (m : MbReq)
  /-- SETPWR_C2 (R449): PF0 enters C2, freezing no-deadline launches and retaining C-tile logic. -/
  | setpwrC2 (m : MbReq)
  /-- SETPWR_C3 (R449): PF0 enters C3, evicting every page and saving the residency table. -/
  | setpwrC3 (m : MbReq)
  /-- POWER_WAKE (R450): A notify, due TIMEGATE or function-level reset wakes the device to C0. -/
  | powerWake
  /-- D3HOT_ENTRY (R450): PF0 set to D3hot ends unended launches with FAULT and saves resident queues. -/
  | d3hotEntry
  /-- FWWRITE (R446): PF0 writes a 1 KiB piece of a firmware image into staging. -/
  | fwwrite (m : MbReq)
  /-- FWCOMMIT (R446): PF0 verifies the staged image and writes it over the slot. -/
  | fwcommit (m : MbReq)
  /-- POWER_ON_BOOT (R446): The boot ROM reapplies repairs, configures Front Desks, verifies and loads firmware and enables PCIe. -/
  | powerOnBoot
  /-- FUNCTION_LEVEL_RESET (R340): A reset of a function drops its queues and launches without completion and starts zeroing. -/
  | functionLevelReset (fn : Nat)
  /-- ZEROING_COMPLETE (R371): Zeroing of a context ends, its entry returns to reset values and the function reports ready. -/
  | zeroingComplete (cid : Nat)
  /-- STALL_COUNTER_UPDATE (R38): At the end of every fc each C-tile increments the stall counters of the reasons its nodes hold. -/
  | stallCounterUpdate (side : Nat)
  /-- SLEW_COMPLETE (R376): A slewed DTB correction reaches offset 0, the DTB returns to its nominal rate and SLEWING clears. -/
  | slewComplete
  /-- INNKEEPER_RESTART (R419): After a UE in its SRAM the Innkeeper finishes restarting from the firmware image and frozen billets resume. -/
  | innkeeperRestart (side : Nat)
  /-- STEWARD_ROUTE_RECOMPUTE (R266): The steward finishes rewriting OFF, ON and PACE of a resident page after an edge of the page changes state. -/
  | stewardRouteRecompute (b : Nat)
  /-- ATTACH (R422): A debug session uses its unlock for a CID. -/
  | attach (d : DbgReq)
  /-- DETACH (R422): A debug session releases its unlock for a CID. -/
  | detach (d : DbgReq)
  /-- STOP (R422): A debug stop freezes the whole freeze domain of a running launch. -/
  | stop (d : DbgReq) (r : RecId)
  /-- RESUME (R422): A stopped launch resumes exactly and returns to RUNNING. -/
  | resume (d : DbgReq) (r : RecId)
  /-- STEP (R424): Exactly one firing of a named node runs while the domain stays frozen. -/
  | step (d : DbgReq) (r : RecId) (n : NodeAddr)
  /-- DISCARD (R422): A node's oldest complete key is freed without firing. -/
  | discard (d : DbgReq) (r : RecId) (n : NodeAddr)
  /-- SCANRD (R422): Reads a frozen billet's scan chain. -/
  | scanrd (d : DbgReq) (b off len : Nat)
  /-- SCANWR (R422): Writes a frozen billet's scan chain, except station words. -/
  | scanwr (d : DbgReq) (b off : Nat) (bits : List Bool)
  /-- MEMRD (R422): Reads up to 4 KiB through the context's page table at system scope. -/
  | memrd (d : DbgReq) (va len : Nat)
  /-- MEMWR (R422): Writes up to 4 KiB through the context's page table, setting A and D. -/
  | memwr (d : DbgReq) (va : Nat) (bytes : List Byte)
  /-- BPSET (R423): Installs a breakpoint comparator for a page. -/
  | bpset (d : DbgReq) (page idx : Nat) (v : BitVec 192)
  /-- BPCLR (R423): Removes a breakpoint comparator of a page. -/
  | bpclr (d : DbgReq) (page idx : Nat)
  /-- ROUTE (R405): Overrides a route entry of a stopped launch's billet. -/
  | route (d : DbgReq) (r : RecId) (b route dest tile ch : Nat)
  /-- SPDM_GET_VERSION (R447): The SPDM responder reports versions 1.2, 1.3 and 1.4. -/
  | spdmGetVersion (fn : Nat)
  /-- SPDM_NEGOTIATE_ALGORITHMS (R447): The responder offers ML-DSA-44 or ECDSA P-384 with SHA3-256. -/
  | spdmNegotiateAlgorithms (fn version : Nat) (pqc : Bool)
  /-- SPDM_GET_MEASUREMENTS (R447): The responder signs and returns the current measurements. -/
  | spdmGetMeasurements (fn : Nat)
  /-- MAIN_POWER_REMOVED (R448): Main power is removed and the device enters D3cold, keeping only the DTB and the device fault log on auxiliary power. -/
  | mainPowerRemoved
  /-- D3HOT_EXIT (R448): PF0's PMCSR PowerState is written back to D0 and the device wakes from D3hot within 30 ms. -/
  | d3hotExit
  /-- SPDM_SESSION_ESTABLISH (R421): An SPDM secure session is established over PF1's or PF0's DOE mailbox, giving the session ID that DEBUG_PERMIT names. -/
  | spdmSessionEstablish (fn id : Nat)
  /-- SPDM_SESSION_END (R421): An SPDM secure session ends, and every unlock it held ends with it. -/
  | spdmSessionEnd (id : Nat)
  deriving DecidableEq, Repr

end Sys2Proof
end

