-- ==== Sys2Proof/Decode.lean ====
section
/-! DEFINITION. Decoding station words into the syntax, total and rejecting by name, and the encoder written from the same tables of the
spec (03 R80 to R94, and the W and M cells of R121 to R143, R147, R183, R198, R221). The loader's further checks of a node's fields are in
Machine/NodeChecks.lean. Choices and readings: log entry 9. -/

namespace Sys2Proof

/-- Why a word is no node. -/
inductive DecodeError
  /-- The words ran out. -/
  | truncated
  /-- The empty-slot marker 0x0000_0000 (R80). -/
  | marker
  /-- OP 0x00 with another bit set (R80), or an opcode marked reserved (R94). -/
  | reservedOpcode
  /-- A value of W the opcode does not accept (R82). -/
  | reservedShape
  /-- A value of M the opcode does not define (R83). -/
  | reservedModifier
  /-- A reserved target (R84), or a target on an opcode that has none. -/
  | reservedTarget
  /-- E = 0 on an opcode whose extension is required (R86). -/
  | missingExtension
  /-- SCOPE 5 to 7 in an XM word (R91). -/
  | reservedScope
  deriving DecidableEq, Repr

/-- Bits [lo + len - 1 : lo] of a word, as a natural number. -/
def bits (w : Word) (lo len : Nat) : Nat := (w.extractLsb' lo len).toNat

/-! ### Codes of the fields -/

def Port.code : Port → BitVec 2
  | .L => 1 | .R => 2 | .Q => 3

def IntTy.code : IntTy → BitVec 2
  | .i32 => 0 | .n32 => 1 | .i16 => 2 | .i8 => 3

def IntTy.ofCode (c : BitVec 2) : IntTy :=
  if c = 0 then .i32 else if c = 1 then .n32 else if c = 2 then .i16 else .i8

def FloatTy.code : FloatTy → BitVec 2
  | .f32 => 0 | .bf16 => 1 | .f16 => 2

def FloatTy.ofCode (c : BitVec 2) : Option FloatTy :=
  if c = 0 then some .f32 else if c = 1 then some .bf16 else if c = 2 then some .f16 else none

def Round.code : Round → BitVec 2
  | .rne => 0 | .rtz => 1 | .rdn => 2 | .rup => 3

def Round.ofCode (c : BitVec 2) : Round :=
  if c = 0 then .rne else if c = 1 then .rtz else if c = 2 then .rdn else .rup

def Scope.code : Scope → BitVec 3
  | .tile => 0 | .billet => 1 | .side => 2 | .device => 3 | .system => 4

def Scope.ofCode (c : BitVec 3) : Option Scope :=
  if c = 0 then some .tile else if c = 1 then some .billet else if c = 2 then some .side
  else if c = 3 then some .device else if c = 4 then some .system else none

def Space.code : Space → BitVec 2
  | .scr => 0 | .glb => 1 | .ring => 2

def Space.ofCode (c : BitVec 2) : Option Space :=
  if c = 0 then some .scr else if c = 1 then some .glb else if c = 2 then some .ring else none

def Order.code : Order → BitVec 2
  | .plain => 0 | .acq => 1 | .rel => 2 | .acqrel => 3

def Order.ofCode (c : BitVec 2) : Order :=
  if c = 0 then .plain else if c = 1 then .acq else if c = 2 then .rel else .acqrel

def AtomOp.code : AtomOp → BitVec 9
  | .swap => 0 | .add => 1 | .and => 2 | .or => 3 | .xor => 4 | .smin => 5 | .smax => 6 | .umin => 7 | .umax => 8
  | .cas => 9 | .fadd => 10 | .fmin => 11 | .fmax => 12

/-- T1 of amo and red (R198): [8:4] zero, [3:0] the operation. -/
def AtomOp.ofCode (c : BitVec 9) : Option AtomOp :=
  match c.toNat with
  | 0 => some .swap | 1 => some .add | 2 => some .and | 3 => some .or | 4 => some .xor | 5 => some .smin | 6 => some .smax
  | 7 => some .umin | 8 => some .umax | 9 => some .cas | 10 => some .fadd | 11 => some .fmin | 12 => some .fmax
  | _ => none

def Shape.code : Shape → BitVec 2
  | .word => 0 | .vec => 1 | .packed => 2

def Access.code : Access → BitVec 2
  | .word => 0 | .vec => 1 | .half => 2 | .byte => 3

def Access.ofCode (c : BitVec 2) : Access :=
  if c = 0 then .word else if c = 1 then .vec else if c = 2 then .half else .byte

def ISel.code : ISel → BitVec 2
  | .none => 0 | .l => 1 | .r => 2 | .q => 3

def ISel.ofCode (c : BitVec 2) : ISel :=
  if c = 0 then .none else if c = 1 then .l else if c = 2 then .r else .q

/-- A target field (R84). -/
def Target.code : Target → BitVec 9
  | .none => 0
  | .port s p => (0 : BitVec 1) ++ p.code ++ s
  | .chan n => (1 : BitVec 1) ++ (0 : BitVec 3) ++ n

/-- Reads a target field; the reserved forms of R84 give none. -/
def Target.ofCode (c : BitVec 9) : Option Target :=
  let slot := c.extractLsb' 0 6
  let pc := c.extractLsb' 6 2
  if c.extractLsb' 8 1 = 1 then
    if c.extractLsb' 5 3 = 0 then some (.chan (c.extractLsb' 0 5)) else Option.none
  else if pc = 0 then (if slot = 0 then some .none else Option.none)
  else if pc = 1 then some (.port slot .L)
  else if pc = 2 then some (.port slot .R)
  else some (.port slot .Q)

/-! ### Modifiers: each reads M[3:0] of one group of opcodes, and its twin writes it -/

/-- M[3:2], M[1] and M[0] of a modifier field. -/
def Mod.hi (m : BitVec 4) : BitVec 2 := m.extractLsb' 2 2
def Mod.lo (m : BitVec 4) : BitVec 2 := m.extractLsb' 0 2
def Mod.b3 (m : BitVec 4) : Bool := m.getLsbD 3
def Mod.b2 (m : BitVec 4) : Bool := m.getLsbD 2
def Mod.b1 (m : BitVec 4) : Bool := m.getLsbD 1
def Mod.b0 (m : BitVec 4) : Bool := m.getLsbD 0
def Mod.mk (h l : BitVec 2) : BitVec 4 := h ++ l
def Mod.pair (b1 b0 : Bool) : BitVec 2 := BitVec.ofBool b1 ++ BitVec.ofBool b0

def Mod.none (m : BitVec 4) : Option Unit := if m = 0 then some () else Option.none

def Mod.tySat (m : BitVec 4) : Option (IntTy × Bool) :=
  if b0 m then Option.none else some (IntTy.ofCode (hi m), b1 m)
def Mod.tySatBits (t : IntTy) (s : Bool) : BitVec 4 := mk t.code (pair s false)

def Mod.ty (m : BitVec 4) : Option IntTy := if lo m = 0 then some (IntTy.ofCode (hi m)) else Option.none
def Mod.tyBits (t : IntTy) : BitVec 4 := mk t.code 0

def Mod.tySatBit (m : BitVec 4) : Option (IntTy × Bool × Bool) := some (IntTy.ofCode (hi m), b1 m, b0 m)
def Mod.tySatBitBits (t : IntTy) (s b : Bool) : BitVec 4 := mk t.code (pair s b)

def Mod.tyBit (m : BitVec 4) : Option (IntTy × Bool) :=
  if b1 m then Option.none else some (IntTy.ofCode (hi m), b0 m)
def Mod.tyBitBits (t : IntTy) (b : Bool) : BitVec 4 := mk t.code (pair false b)

def Mod.intCond (m : BitVec 4) : Option IntCond :=
  match m.toNat with
  | 0 => some .eq | 1 => some .ne | 2 => some .lt | 3 => some .ge | 4 => some .ltu | 5 => some .geu | 6 => some .gt
  | 7 => some .le | 8 => some .gtu | 9 => some .leu | 10 => some .tst | 11 => some .ntst | _ => Option.none
def Mod.intCondBits : IntCond → BitVec 4
  | .eq => 0 | .ne => 1 | .lt => 2 | .ge => 3 | .ltu => 4 | .geu => 5 | .gt => 6 | .le => 7 | .gtu => 8 | .leu => 9
  | .tst => 10 | .ntst => 11

def Mod.fltCond (m : BitVec 4) : Option FloatCond :=
  match m.toNat with
  | 0 => some .oeq | 1 => some .one | 2 => some .olt | 3 => some .oge | 4 => some .ogt | 5 => some .ole | 6 => some .ord
  | 8 => some .ueq | 9 => some .une | 10 => some .ult | 11 => some .uge | 12 => some .ugt | 13 => some .ule
  | 14 => some .uno | _ => Option.none
def Mod.fltCondBits : FloatCond → BitVec 4
  | .oeq => 0 | .one => 1 | .olt => 2 | .oge => 3 | .ogt => 4 | .ole => 5 | .ord => 6 | .ueq => 8 | .une => 9
  | .ult => 10 | .uge => 11 | .ugt => 12 | .ule => 13 | .uno => 14

def Mod.lea (m : BitVec 4) : Option LeaScale :=
  match m.toNat with
  | 0 => some .x1 | 1 => some .x4 | 2 => some .x64 | 3 => some .x1024 | _ => Option.none
def Mod.leaBits : LeaScale → BitVec 4
  | .x1 => 0 | .x4 => 1 | .x64 => 2 | .x1024 => 3

def Mod.constMode (m : BitVec 4) : Option ConstMode :=
  match m.toNat with
  | 0 => some .sx | 1 => some .zx | 2 => some .hi | _ => Option.none
def Mod.constModeBits : ConstMode → BitVec 4
  | .sx => 0 | .zx => 1 | .hi => 2

def Mod.satTo (m : BitVec 4) : Option SatTo :=
  match m.toNat with
  | 4 => some .n32 | 8 => some .i16 | 9 => some .n16 | 12 => some .i8 | 13 => some .n8 | _ => Option.none
def Mod.satToBits : SatTo → BitVec 4
  | .n32 => 4 | .i16 => 8 | .n16 => 9 | .i8 => 12 | .n8 => 13

def Mod.tagGet (m : BitVec 4) : Option TagGet :=
  match m.toNat with
  | 0 => some .iter | 1 => some .colour | 2 => some .path | 3 => some .tag | _ => Option.none
def Mod.tagGetBits : TagGet → BitVec 4
  | .iter => 0 | .colour => 1 | .path => 2 | .tag => 3

def Mod.tagSet (m : BitVec 4) : Option TagSet :=
  match m.toNat with
  | 0 => some .iter | 1 => some .colour | 2 => some .path | _ => Option.none
def Mod.tagSetBits : TagSet → BitVec 4
  | .iter => 0 | .colour => 1 | .path => 2

def Mod.timeSel (m : BitVec 4) : Option TimeSel :=
  match m.toNat with
  | 0 => some .lo | 1 => some .hi | 2 => some .sub | _ => Option.none
def Mod.timeSelBits : TimeSel → BitVec 4
  | .lo => 0 | .hi => 1 | .sub => 2

def Mod.fltRound (m : BitVec 4) : Option (FloatTy × Round) :=
  (FloatTy.ofCode (hi m)).map fun t => (t, Round.ofCode (lo m))
def Mod.fltRoundBits (t : FloatTy) (r : Round) : BitVec 4 := mk t.code r.code

def Mod.flt (m : BitVec 4) : Option FloatTy := if lo m = 0 then FloatTy.ofCode (hi m) else Option.none
def Mod.fltBits (t : FloatTy) : BitVec 4 := mk t.code 0

def Mod.signOp (c : BitVec 2) : SignOp :=
  if c = 0 then .copy else if c = 1 then .ncopy else if c = 2 then .xsgn else .abs
def Mod.signOpCode : SignOp → BitVec 2
  | .copy => 0 | .ncopy => 1 | .xsgn => 2 | .abs => 3
def Mod.fltSign (m : BitVec 4) : Option (FloatTy × SignOp) :=
  (FloatTy.ofCode (hi m)).map fun t => (t, signOp (lo m))
def Mod.fltSignBits (t : FloatTy) (o : SignOp) : BitVec 4 := mk t.code (signOpCode o)

def Mod.tyRound (m : BitVec 4) : Option (IntTy × Round) := some (IntTy.ofCode (hi m), Round.ofCode (lo m))
def Mod.tyRoundBits (t : IntTy) (r : Round) : BitVec 4 := mk t.code r.code

def Mod.round (m : BitVec 4) : Option Round := if hi m = 0 then some (Round.ofCode (lo m)) else Option.none
def Mod.roundBits (r : Round) : BitVec 4 := mk 0 r.code

def Mod.bit (m : BitVec 4) : Option Bool :=
  if hi m = 0 then (if b1 m then Option.none else some (b0 m)) else Option.none
def Mod.bitBits (b : Bool) : BitVec 4 := mk 0 (pair false b)

def Mod.dot (m : BitVec 4) : Option (Bool × Bool × Round) := some (b3 m, b2 m, Round.ofCode (lo m))
def Mod.dotBits (q s : Bool) (r : Round) : BitVec 4 := mk (pair q s) r.code

def Mod.sum (m : BitVec 4) : Option SumMode :=
  if hi m = 0 then (if b0 m then Option.none else some (.int false (b1 m)))
  else if hi m = 1 then (if b0 m then Option.none else some (.int true (b1 m)))
  else if hi m = 2 then some (.flt (Round.ofCode (lo m)))
  else Option.none
def Mod.sumBits : SumMode → BitVec 4
  | .int u s => mk (pair false u) (pair s false)
  | .flt r => mk 2 r.code

def Mod.laneTy (m : BitVec 4) : Option LaneTy :=
  match m.toNat with
  | 0 => some .i32 | 4 => some .n32 | 8 => some .f32 | _ => Option.none
def Mod.laneTyBits : LaneTy → BitVec 4
  | .i32 => 0 | .n32 => 4 | .f32 => 8

def Mod.watchCond (c : BitVec 2) : WatchCond :=
  if c = 0 then .eq else if c = 1 then .ne else if c = 2 then .ges else .tst
def Mod.watchCondCode : WatchCond → BitVec 2
  | .eq => 0 | .ne => 1 | .ges => 2 | .tst => 3
def Mod.watch (m : BitVec 4) : Option (Bool × WatchCond) :=
  if hi m = 0 then some (false, watchCond (lo m)) else if hi m = 1 then some (true, watchCond (lo m)) else Option.none
def Mod.watchBits (g : Bool) (c : WatchCond) : BitVec 4 := mk (pair false g) (watchCondCode c)

def Mod.ringOp (m : BitVec 4) : Option RingOp :=
  match m.toNat with
  | 0 => some .query | 1 => some .pop | 2 => some .reset | _ => Option.none
def Mod.ringOpBits : RingOp → BitVec 4
  | .query => 0 | .pop => 1 | .reset => 2

/-- hset and hclr (R239): M[0] the enable bit, M[1] the pending bit; 00 is reserved. -/
def Mod.enPend (m : BitVec 4) : Option (Bool × Bool) :=
  if hi m = 0 then (if lo m = 0 then Option.none else some (b0 m, b1 m)) else Option.none
def Mod.enPendBits (en pend : Bool) : BitVec 4 := mk 0 (pair pend en)

def Mod.chk (m : BitVec 4) : Option ChkFlag :=
  match m.toNat with
  | 0 => some .done | 1 => some .partially | 2 => some .none | _ => Option.none
def Mod.chkBits : ChkFlag → BitVec 4
  | .done => 0 | .partially => 1 | .none => 2

def Mod.csr (m : BitVec 4) : Option CsrOp :=
  match m.toNat with
  | 0 => some .rd | 1 => some .wr | 2 => some .set | 3 => some .clr | _ => Option.none
def Mod.csrBits : CsrOp → BitVec 4
  | .rd => 0 | .wr => 1 | .set => 2 | .clr => 3

/-- mma (R221): M[3] FIRST, M[2] LAST, M[1:0] the accumulator. -/
def Mod.mma (m : BitVec 4) : Option (Bool × Bool × AccTy) :=
  if lo m = 0 then some (b3 m, b2 m, .f32) else if lo m = 1 then some (b3 m, b2 m, .i32)
  else if lo m = 2 then some (b3 m, b2 m, .q16) else Option.none
def Mod.accCode : AccTy → BitVec 2
  | .f32 => 0 | .i32 => 1 | .q16 => 2
def Mod.mmaBits (f l : Bool) (a : AccTy) : BitVec 4 := mk (pair f l) (accCode a)

/-! ### Targets that an opcode may carry -/

def anyTargets (_ _ : BitVec 9) : Bool := true
def noT1 (_ t1 : BitVec 9) : Bool := t1 == 0
def noTargets (t0 t1 : BitVec 9) : Bool := t0 == 0 && t1 == 0

/-- What an opcode of format G with an XG extension accepts: values of W, targets, and M with the constructor it gives. -/
structure GForm where
  shapes : List Shape
  targets : BitVec 9 → BitVec 9 → Bool
  build : BitVec 4 → Option (GNode → Instr)

/-- The opcode map (R94) of the opcodes whose extension is XG. -/
def gForm (op : Nat) : Option GForm :=
  match op with
  | 0x01 => some ⟨[.word, .vec, .packed], anyTargets, fun m => (Mod.tySat m).map fun ⟨x, y⟩ n => .add n x y⟩
  | 0x02 => some ⟨[.word, .vec, .packed], anyTargets, fun m => (Mod.tySat m).map fun ⟨x, y⟩ n => .sub n x y⟩
  | 0x03 => some ⟨[.word, .vec, .packed], anyTargets, fun m => (Mod.tySat m).map fun ⟨x, y⟩ n => .mul n x y⟩
  | 0x04 => some ⟨[.word, .vec, .packed], anyTargets, fun m => (Mod.ty m).map fun x n => .mulh n x⟩
  | 0x05 => some ⟨[.word, .vec, .packed], anyTargets, fun m => (Mod.tySat m).map fun ⟨x, y⟩ n => .mad n x y⟩
  | 0x06 => some ⟨[.word, .vec, .packed], anyTargets, fun m => (Mod.ty m).map fun x n => .min n x⟩
  | 0x07 => some ⟨[.word, .vec, .packed], anyTargets, fun m => (Mod.ty m).map fun x n => .max n x⟩
  | 0x08 => some ⟨[.word, .vec, .packed], anyTargets, fun m => (Mod.tySatBit m).map fun ⟨x, y, z⟩ n => .absn n x y z⟩
  | 0x09 => some ⟨[.word, .vec], anyTargets, fun m => (Mod.none m).map fun _ n => .and n⟩
  | 0x0A => some ⟨[.word, .vec], anyTargets, fun m => (Mod.none m).map fun _ n => .or n⟩
  | 0x0B => some ⟨[.word, .vec], anyTargets, fun m => (Mod.none m).map fun _ n => .xor n⟩
  | 0x0C => some ⟨[.word, .vec], anyTargets, fun m => (Mod.none m).map fun _ n => .andn n⟩
  | 0x0D => some ⟨[.word, .vec], anyTargets, fun m => (Mod.tySat m).map fun ⟨x, y⟩ n => .shl n x y⟩
  | 0x0E => some ⟨[.word, .vec], anyTargets, fun m => (Mod.tyBit m).map fun ⟨x, y⟩ n => .shr n x y⟩
  | 0x0F => some ⟨[.word, .vec], anyTargets, fun m => (Mod.tyBit m).map fun ⟨x, y⟩ n => .rot n x y⟩
  | 0x10 => some ⟨[.word, .vec], anyTargets, fun m => (Mod.intCond m).map fun x n => .cmp n x⟩
  | 0x11 => some ⟨[.word, .vec, .packed], anyTargets, fun m => (Mod.none m).map fun _ n => .sel n⟩
  | 0x12 => some ⟨[.word, .vec], anyTargets, fun m => (Mod.ty m).map fun x n => .clz n x⟩
  | 0x13 => some ⟨[.word, .vec], anyTargets, fun m => (Mod.ty m).map fun x n => .popc n x⟩
  | 0x14 => some ⟨[.word, .vec], anyTargets, fun m => (Mod.bit m).map fun x n => .bext n x⟩
  | 0x15 => some ⟨[.word, .vec], anyTargets, fun m => (Mod.none m).map fun _ n => .bins n⟩
  | 0x16 => some ⟨[.word, .vec], anyTargets, fun m => (Mod.lea m).map fun x n => .lea n x⟩
  | 0x17 => some ⟨[.word, .vec], anyTargets, fun m => (Mod.constMode m).map fun x n => .const n x⟩
  | 0x18 => some ⟨[.word, .vec, .packed], anyTargets, fun m => (Mod.none m).map fun _ n => .mov n⟩
  | 0x19 => some ⟨[.word, .vec], anyTargets, fun m => (Mod.satTo m).map fun x n => .sat n x⟩
  | 0x1A => some ⟨[.word, .vec], anyTargets, fun m => (Mod.tySat m).map fun ⟨x, y⟩ n => .icvt n x y⟩
  | 0x1B => some ⟨[.vec], anyTargets, fun m => (Mod.none m).map fun _ n => .iota n⟩
  | 0x1C => some ⟨[.word, .vec], anyTargets, fun m => (Mod.tagGet m).map fun x n => .tagget n x⟩
  | 0x1D => some ⟨[.word, .vec], anyTargets, fun m => (Mod.tagSet m).map fun x n => .tagset n x⟩
  | 0x1E => some ⟨[.word, .vec], anyTargets, fun m => (Mod.timeSel m).map fun x n => .rdtime n x⟩
  | 0x1F => some ⟨[.word], anyTargets, fun m => (Mod.none m).map fun _ n => .rdslack n⟩
  | 0x20 => some ⟨[.word, .vec, .packed], anyTargets, fun m => (Mod.fltRound m).map fun ⟨x, y⟩ n => .fadd n x y⟩
  | 0x21 => some ⟨[.word, .vec, .packed], anyTargets, fun m => (Mod.fltRound m).map fun ⟨x, y⟩ n => .fsub n x y⟩
  | 0x22 => some ⟨[.word, .vec, .packed], anyTargets, fun m => (Mod.fltRound m).map fun ⟨x, y⟩ n => .fmul n x y⟩
  | 0x23 => some ⟨[.word, .vec, .packed], anyTargets, fun m => (Mod.fltRound m).map fun ⟨x, y⟩ n => .ffma n x y⟩
  | 0x24 => some ⟨[.word, .vec, .packed], anyTargets, fun m => (Mod.flt m).map fun x n => .fmin n x⟩
  | 0x25 => some ⟨[.word, .vec, .packed], anyTargets, fun m => (Mod.flt m).map fun x n => .fmax n x⟩
  | 0x26 => some ⟨[.word, .vec, .packed], anyTargets, fun m => (Mod.fltCond m).map fun x n => .fcmp n x⟩
  | 0x27 => some ⟨[.word, .vec, .packed], anyTargets, fun m => (Mod.fltSign m).map fun ⟨x, y⟩ n => .fsgn n x y⟩
  | 0x28 => some ⟨[.word, .vec, .packed], anyTargets, fun m => (Mod.flt m).map fun x n => .frcpe n x⟩
  | 0x29 => some ⟨[.word, .vec, .packed], anyTargets, fun m => (Mod.flt m).map fun x n => .frsqe n x⟩
  | 0x2A => some ⟨[.word, .vec, .packed], anyTargets, fun m => (Mod.flt m).map fun x n => .fexp2e n x⟩
  | 0x2B => some ⟨[.word, .vec, .packed], anyTargets, fun m => (Mod.flt m).map fun x n => .flog2e n x⟩
  | 0x2C => some ⟨[.word, .vec, .packed], anyTargets, fun m => (Mod.fltRound m).map fun ⟨x, y⟩ n => .frnd n x y⟩
  | 0x2D => some ⟨[.word, .vec], anyTargets, fun m => (Mod.fltRound m).map fun ⟨x, y⟩ n => .fcvt n x y⟩
  | 0x2E => some ⟨[.word, .vec], anyTargets, fun m => (Mod.tyRound m).map fun ⟨x, y⟩ n => .ftoi n x y⟩
  | 0x2F => some ⟨[.word, .vec], anyTargets, fun m => (Mod.fltRound m).map fun ⟨x, y⟩ n => .itof n x y⟩
  | 0x30 => some ⟨[.word, .vec], anyTargets, fun m => (Mod.round m).map fun x n => .cvtch n x⟩
  | 0x31 => some ⟨[.word, .vec], anyTargets, fun m => (Mod.none m).map fun _ n => .pack n⟩
  | 0x32 => some ⟨[.word, .vec], anyTargets, fun m => (Mod.none m).map fun _ n => .unpack n⟩
  | 0x33 => some ⟨[.word, .vec], anyTargets, fun m => (Mod.none m).map fun _ n => .sround n⟩
  | 0x34 => some ⟨[.word, .vec], anyTargets, fun m => (Mod.none m).map fun _ n => .lmul n⟩
  | 0x35 => some ⟨[.word, .vec], anyTargets, fun m => (Mod.none m).map fun _ n => .lacc n⟩
  | 0x36 => some ⟨[.word, .vec], anyTargets, fun m => (Mod.bit m).map fun x n => .lcvt n x⟩
  | 0x37 => some ⟨[.word, .vec, .packed], anyTargets, fun m => (Mod.fltRound m).map fun ⟨x, y⟩ n => .scl n x y⟩
  | 0x38 => some ⟨[.word, .vec], anyTargets, fun m => (Mod.none m).map fun _ n => .qnt n⟩
  | 0x39 => some ⟨[.word, .vec], anyTargets, fun m => (Mod.round m).map fun x n => .dqnt n x⟩
  | 0x3A => some ⟨[.word, .vec], anyTargets, fun m => (Mod.dot m).map fun ⟨x, y, z⟩ n => .dot n x y z⟩
  | 0x40 => some ⟨[.vec], anyTargets, fun m => (Mod.sum m).map fun x n => .rsum n x⟩
  | 0x41 => some ⟨[.vec], anyTargets, fun m => (Mod.laneTy m).map fun x n => .rmax n x⟩
  | 0x42 => some ⟨[.vec], anyTargets, fun m => (Mod.laneTy m).map fun x n => .rmin n x⟩
  | 0x43 => some ⟨[.vec], anyTargets, fun m => (Mod.none m).map fun _ n => .perm n⟩
  | 0x44 => some ⟨[.vec], anyTargets, fun m => (Mod.none m).map fun _ n => .bcast n⟩
  | 0x45 => some ⟨[.vec], anyTargets, fun m => (Mod.bit m).map fun x n => .lsh n x⟩
  | 0x46 => some ⟨[.vec], anyTargets, fun m => (Mod.sum m).map fun x n => .scan n x⟩
  | 0x47 => some ⟨[.vec], anyTargets, fun m => (Mod.laneTy m).map fun x n => .cmpx n x⟩
  | 0x48 => some ⟨[.vec], anyTargets, fun m => (Mod.none m).map fun _ n => .splat n⟩
  | 0x49 => some ⟨[.word], anyTargets, fun m => (Mod.none m).map fun _ n => .lget n⟩
  | 0x4A => some ⟨[.vec], anyTargets, fun m => (Mod.none m).map fun _ n => .lset n⟩
  | 0x4B => some ⟨[.word], anyTargets, fun m => (Mod.none m).map fun _ n => .wcv n⟩
  | 0x50 => some ⟨[.word, .vec], anyTargets, fun m => (Mod.bit m).map fun x n => .steer n x⟩
  | 0x51 => some ⟨[.word, .vec], anyTargets, fun m => (Mod.none m).map fun _ n => .merge n⟩
  | 0x52 => some ⟨[.word, .vec], anyTargets, fun m => (Mod.bit m).map fun x n => .carry n x⟩
  | 0x53 => some ⟨[.word, .vec], anyTargets, fun m => (Mod.bit m).map fun x n => .gate n x⟩
  | 0x54 => some ⟨[.word, .vec], noTargets, fun m => (Mod.none m).map fun _ n => .sink n⟩
  | 0x55 => some ⟨[.word, .vec], anyTargets, fun m => (Mod.bit m).map fun x n => .eos n x⟩
  | 0x56 => some ⟨[.word, .vec], anyTargets, fun m => (Mod.none m).map fun _ n => .isend n⟩
  | 0x57 => some ⟨[.word, .vec], anyTargets, fun m => (Mod.bit m).map fun x n => .join n x⟩
  | 0x58 => some ⟨[.word, .vec], anyTargets, fun m => (Mod.bit m).map fun x n => .spawn n x⟩
  | 0x59 => some ⟨[.word, .vec], noTargets, fun m => (Mod.none m).map fun _ n => .ret n⟩
  | 0x5A => some ⟨[.word, .vec], anyTargets, fun m => (Mod.none m).map fun _ n => .cnt n⟩
  | 0x5B => some ⟨[.word], anyTargets, fun m => (Mod.none m).map fun _ n => .isect n⟩
  | 0x5C => some ⟨[.word], anyTargets, fun m => (Mod.none m).map fun _ n => .unio n⟩
  | 0x5D => some ⟨[.word, .vec], anyTargets, fun m => (Mod.none m).map fun _ n => .porter n⟩
  | 0x5E => some ⟨[.word, .vec], anyTargets, fun m => (Mod.none m).map fun _ n => .rng n⟩
  | 0x5F => some ⟨[.word, .vec], anyTargets, fun m => (Mod.none m).map fun _ n => .reorder n⟩
  | 0x67 => some ⟨[.word], anyTargets, fun m => (Mod.watch m).map fun ⟨x, y⟩ n => .wtaddr n x y⟩
  | 0x68 => some ⟨[.word, .vec], anyTargets, fun m => (Mod.none m).map fun _ n => .waitq n⟩
  | 0x69 => some ⟨[.word], anyTargets, fun m => (Mod.none m).map fun _ n => .tlinc n⟩
  | 0x6A => some ⟨[.word], anyTargets, fun m => (Mod.none m).map fun _ n => .tlwait n⟩
  | 0x6C => some ⟨[.vec], anyTargets, fun m => (Mod.none m).map fun _ n => .cpy n⟩
  | 0x6D => some ⟨[.vec], anyTargets, fun m => (Mod.none m).map fun _ n => .cpyr n⟩
  | 0x6E => some ⟨[.word, .vec], noTargets, fun m => (Mod.none m).map fun _ n => .qput n⟩
  | 0x6F => some ⟨[.word, .vec], anyTargets, fun m => (Mod.none m).map fun _ n => .qget n⟩
  | 0x71 => some ⟨[.word], anyTargets, fun m => (Mod.none m).map fun _ n => .mzero n⟩
  | 0x72 => some ⟨[.word], noT1, fun m => (Mod.none m).map fun _ n => .mdrain n⟩
  | 0x73 => some ⟨[.vec], anyTargets, fun m => (Mod.none m).map fun _ n => .rpush n⟩
  | 0x74 => some ⟨[.word], anyTargets, fun m => (Mod.ringOp m).map fun x n => .ringst n x⟩
  | 0x75 => some ⟨[.word], anyTargets, fun m => (Mod.none m).map fun _ n => .spacc n⟩
  | 0x76 => some ⟨[.word], anyTargets, fun m => (Mod.round m).map fun x n => .spflush n x⟩
  | 0x78 => some ⟨[.word], noT1, fun m => (Mod.none m).map fun _ n => .raise n⟩
  | 0x79 => some ⟨[.word], anyTargets, fun m => (Mod.enPend m).map fun ⟨x, y⟩ n => .hset n x y⟩
  | 0x7A => some ⟨[.word], anyTargets, fun m => (Mod.enPend m).map fun ⟨x, y⟩ n => .hclr n x y⟩
  | 0x7B => some ⟨[.word], noTargets, fun m => (Mod.none m).map fun _ n => .trap n⟩
  | 0x7C => some ⟨[.word], anyTargets, fun m => (Mod.chk m).map fun x n => .chk n x⟩
  | 0x7D => some ⟨[.word], anyTargets, fun m => (Mod.csr m).map fun x n => .csr n x⟩
  | 0x7E => some ⟨[.word, .vec], anyTargets, fun m => (Mod.none m).map fun _ n => .brk n⟩
  | 0x7F => some ⟨[.word], noTargets, fun m => (Mod.none m).map fun _ n => .halt n⟩
  | _ => none

/-! ### Extension words -/

/-- XG (R87): every bit pattern is one. -/
def XG.ofWord (w : Word) : XG :=
  { sl := w.extractLsb' 28 4, sr := w.extractLsb' 24 4, isel := ISel.ofCode (w.extractLsb' 22 2),
    xmod := w.extractLsb' 16 6, imm := w.extractLsb' 0 16 }
def XG.toWord (x : XG) : Word := x.sl ++ x.sr ++ x.isel.code ++ x.xmod ++ x.imm

/-- XM (R90); SCOPE 5 to 7 is refused (R91). -/
def XM.ofWord (w : Word) : Option XM :=
  (Scope.ofCode (w.extractLsb' 9 3)).map fun sc =>
    { sl := w.extractLsb' 28 4, sr := w.extractLsb' 24 4, pred := w.extractLsb' 18 6, succ := w.extractLsb' 12 6,
      scope := sc, win := w.extractLsb' 6 3, disp := w.extractLsb' 0 6 }
def XM.toWord (x : XM) : Word := x.sl ++ x.sr ++ x.pred ++ x.succ ++ x.scope.code ++ x.win ++ x.disp

/-- XX (R92). -/
def XX.ofWord (w : Word) : XX :=
  { wa := w.extractLsb' 29 3, wb := w.extractLsb' 26 3, ra := w.extractLsb' 22 4, rb := w.extractLsb' 18 4,
    accmask := w.extractLsb' 10 8, npair := w.extractLsb' 0 10 }
def XX.toWord (x : XX) : Word := x.wa ++ x.wb ++ x.ra ++ x.rb ++ x.accmask ++ x.npair

/-! ### Memory opcodes -/

/-- What an opcode with an XM extension accepts: values of W, M, T1 as operation or target, and the constructor. -/
structure MForm where
  shapes : List Access
  /-- T1 holds an operation (R198). -/
  t1Op : Bool
  build : BitVec 4 → BitVec 9 → Option (MNode → Instr)

/-- M of ld, ldx, st, stx: a space and an order among those given (R183). -/
def Mod.spaceOrder (os : List Order) (m : BitVec 4) : Option (Space × Order) :=
  match Space.ofCode (Mod.hi m) with
  | some sp => if os.contains (Order.ofCode (Mod.lo m)) then some (sp, Order.ofCode (Mod.lo m)) else Option.none
  | Option.none => Option.none
def Mod.spaceOrderBits (sp : Space) (o : Order) : BitVec 4 := Mod.mk sp.code o.code

/-- amo and red accept scratch and global space only (R183). -/
def Mod.atomSpace (os : List Order) (m : BitVec 4) : Option (Space × Order) :=
  match Mod.spaceOrder os m with
  | some (.ring, _) => Option.none
  | r => r

/-- fence (R183): M[3:2] zero, an order that is not plain. -/
def Mod.fenceOrder (m : BitVec 4) : Option Order :=
  if Mod.hi m = 0 then (if Mod.lo m = 0 then Option.none else some (Order.ofCode (Mod.lo m))) else Option.none
def Mod.fenceOrderBits (o : Order) : BitVec 4 := Mod.mk 0 o.code

/-- Operations reserved for red (R198). -/
def AtomOp.redOk : AtomOp → Bool
  | .swap => false | .cas => false | _ => true

/-- The opcode map (R94) of the opcodes whose extension is XM. -/
def mForm (op : Nat) : Option MForm :=
  match op with
  | 0x60 => some ⟨[.word, .vec, .half, .byte], false,
      fun m _ => (Mod.spaceOrder [.plain, .acq] m).map fun ⟨sp, o⟩ n => .ld n sp o⟩
  | 0x61 => some ⟨[.word, .vec, .half, .byte], false,
      fun m _ => (Mod.spaceOrder [.plain, .rel] m).map fun ⟨sp, o⟩ n => .st n sp o⟩
  | 0x62 => some ⟨[.word, .half, .byte], false,
      fun m _ => (Mod.spaceOrder [.plain, .acq] m).map fun ⟨sp, o⟩ n => .ldx n sp o⟩
  | 0x63 => some ⟨[.word, .half, .byte], false,
      fun m _ => (Mod.spaceOrder [.plain, .rel] m).map fun ⟨sp, o⟩ n => .stx n sp o⟩
  | 0x64 => some ⟨[.word, .vec], true, fun m t1 =>
      match Mod.atomSpace [.plain, .acq, .rel, .acqrel] m, AtomOp.ofCode t1 with
      | some (sp, o), some a => some fun n => .amo n sp o a
      | _, _ => none⟩
  | 0x65 => some ⟨[.word, .vec], true, fun m t1 =>
      match Mod.atomSpace [.plain, .rel] m, AtomOp.ofCode t1 with
      | some (sp, o), some a => if a.redOk then some fun n => .red n sp o a else none
      | _, _ => none⟩
  | 0x66 => some ⟨[.word, .vec], false, fun m _ => (Mod.fenceOrder m).map fun o n => .fence n o⟩
  | 0x6B => some ⟨[.vec], false, fun m _ => if m = Mod.spaceOrderBits .glb .plain then some fun n => .prf n else none⟩
  | _ => none

/-- Decodes one node from station words, first word first, and answers it with the words after it. -/
def decode : List Word → Except DecodeError (Instr × List Word)
  | [] => .error .truncated
  | w :: rest =>
    if w = 0 then .error .marker else
    let op := bits w 25 7
    let wf := w.extractLsb' 23 2
    let m := w.extractLsb' 18 4
    let t0c := w.extractLsb' 9 9
    let t1c := w.extractLsb' 0 9
    let ext := w.getLsbD 22
    match gForm op with
    | some f =>
      match f.shapes.find? (fun s => s.code == wf) with
      | none => .error .reservedShape
      | some sh =>
        match f.build m with
        | none => .error .reservedModifier
        | some mk =>
          if !f.targets t0c t1c then .error .reservedTarget else
          match Target.ofCode t0c, Target.ofCode t1c with
          | some t0, some t1 =>
            if ext then
              match rest with
              | [] => .error .truncated
              | x :: rest' => .ok (mk { w := sh, t0 := t0, t1 := t1, xg := some (XG.ofWord x) }, rest')
            else .ok (mk { w := sh, t0 := t0, t1 := t1, xg := none }, rest)
          | _, _ => .error .reservedTarget
    | none =>
      match mForm op with
      | some f =>
        if !f.shapes.contains (Access.ofCode wf) then .error .reservedShape else
        match f.build m t1c with
        | none => .error .reservedModifier
        | some mk =>
          match Target.ofCode t0c, (if f.t1Op then some Target.none else Target.ofCode t1c) with
          | some t0, some t1 =>
            if ext then
              match rest with
              | [] => .error .truncated
              | x :: rest' =>
                match XM.ofWord x with
                | some xm => .ok (mk { w := Access.ofCode wf, t0 := t0, t1 := t1, xm := xm }, rest')
                | none => .error .reservedScope
            else .error .missingExtension
          | _, _ => .error .reservedTarget
      | none =>
        if op = 0x70 then
          if wf ≠ 0 then .error .reservedShape else
          match Mod.mma m with
          | none => .error .reservedModifier
          | some (f, l, a) =>
            if t0c ≠ 0 ∨ t1c ≠ 0 then .error .reservedTarget else
            if ext then
              match rest with
              | [] => .error .truncated
              | x :: rest' => .ok (.mma (XX.ofWord x) f l a, rest')
            else .error .missingExtension
        else .error .reservedOpcode

/-! ### The encoder -/

/-- Assembles a format G word (R81). -/
def gWord (op : BitVec 7) (w : BitVec 2) (e : Bool) (m : BitVec 4) (t0 t1 : BitVec 9) : Word :=
  op ++ w ++ BitVec.ofBool e ++ m ++ t0 ++ t1

/-- OP, M and fields of the opcodes whose extension is XG (R94). -/
def Instr.gParts : Instr → Option (BitVec 7 × BitVec 4 × GNode)
  | .add n x y => some (0x01, Mod.tySatBits x y, n)
  | .sub n x y => some (0x02, Mod.tySatBits x y, n)
  | .mul n x y => some (0x03, Mod.tySatBits x y, n)
  | .mulh n x => some (0x04, Mod.tyBits x, n)
  | .mad n x y => some (0x05, Mod.tySatBits x y, n)
  | .min n x => some (0x06, Mod.tyBits x, n)
  | .max n x => some (0x07, Mod.tyBits x, n)
  | .absn n x y z => some (0x08, Mod.tySatBitBits x y z, n)
  | .and n => some (0x09, 0, n)
  | .or n => some (0x0A, 0, n)
  | .xor n => some (0x0B, 0, n)
  | .andn n => some (0x0C, 0, n)
  | .shl n x y => some (0x0D, Mod.tySatBits x y, n)
  | .shr n x y => some (0x0E, Mod.tyBitBits x y, n)
  | .rot n x y => some (0x0F, Mod.tyBitBits x y, n)
  | .cmp n x => some (0x10, Mod.intCondBits x, n)
  | .sel n => some (0x11, 0, n)
  | .clz n x => some (0x12, Mod.tyBits x, n)
  | .popc n x => some (0x13, Mod.tyBits x, n)
  | .bext n x => some (0x14, Mod.bitBits x, n)
  | .bins n => some (0x15, 0, n)
  | .lea n x => some (0x16, Mod.leaBits x, n)
  | .const n x => some (0x17, Mod.constModeBits x, n)
  | .mov n => some (0x18, 0, n)
  | .sat n x => some (0x19, Mod.satToBits x, n)
  | .icvt n x y => some (0x1A, Mod.tySatBits x y, n)
  | .iota n => some (0x1B, 0, n)
  | .tagget n x => some (0x1C, Mod.tagGetBits x, n)
  | .tagset n x => some (0x1D, Mod.tagSetBits x, n)
  | .rdtime n x => some (0x1E, Mod.timeSelBits x, n)
  | .rdslack n => some (0x1F, 0, n)
  | .fadd n x y => some (0x20, Mod.fltRoundBits x y, n)
  | .fsub n x y => some (0x21, Mod.fltRoundBits x y, n)
  | .fmul n x y => some (0x22, Mod.fltRoundBits x y, n)
  | .ffma n x y => some (0x23, Mod.fltRoundBits x y, n)
  | .fmin n x => some (0x24, Mod.fltBits x, n)
  | .fmax n x => some (0x25, Mod.fltBits x, n)
  | .fcmp n x => some (0x26, Mod.fltCondBits x, n)
  | .fsgn n x y => some (0x27, Mod.fltSignBits x y, n)
  | .frcpe n x => some (0x28, Mod.fltBits x, n)
  | .frsqe n x => some (0x29, Mod.fltBits x, n)
  | .fexp2e n x => some (0x2A, Mod.fltBits x, n)
  | .flog2e n x => some (0x2B, Mod.fltBits x, n)
  | .frnd n x y => some (0x2C, Mod.fltRoundBits x y, n)
  | .fcvt n x y => some (0x2D, Mod.fltRoundBits x y, n)
  | .ftoi n x y => some (0x2E, Mod.tyRoundBits x y, n)
  | .itof n x y => some (0x2F, Mod.fltRoundBits x y, n)
  | .cvtch n x => some (0x30, Mod.roundBits x, n)
  | .pack n => some (0x31, 0, n)
  | .unpack n => some (0x32, 0, n)
  | .sround n => some (0x33, 0, n)
  | .lmul n => some (0x34, 0, n)
  | .lacc n => some (0x35, 0, n)
  | .lcvt n x => some (0x36, Mod.bitBits x, n)
  | .scl n x y => some (0x37, Mod.fltRoundBits x y, n)
  | .qnt n => some (0x38, 0, n)
  | .dqnt n x => some (0x39, Mod.roundBits x, n)
  | .dot n x y z => some (0x3A, Mod.dotBits x y z, n)
  | .rsum n x => some (0x40, Mod.sumBits x, n)
  | .rmax n x => some (0x41, Mod.laneTyBits x, n)
  | .rmin n x => some (0x42, Mod.laneTyBits x, n)
  | .perm n => some (0x43, 0, n)
  | .bcast n => some (0x44, 0, n)
  | .lsh n x => some (0x45, Mod.bitBits x, n)
  | .scan n x => some (0x46, Mod.sumBits x, n)
  | .cmpx n x => some (0x47, Mod.laneTyBits x, n)
  | .splat n => some (0x48, 0, n)
  | .lget n => some (0x49, 0, n)
  | .lset n => some (0x4A, 0, n)
  | .wcv n => some (0x4B, 0, n)
  | .steer n x => some (0x50, Mod.bitBits x, n)
  | .merge n => some (0x51, 0, n)
  | .carry n x => some (0x52, Mod.bitBits x, n)
  | .gate n x => some (0x53, Mod.bitBits x, n)
  | .sink n => some (0x54, 0, n)
  | .eos n x => some (0x55, Mod.bitBits x, n)
  | .isend n => some (0x56, 0, n)
  | .join n x => some (0x57, Mod.bitBits x, n)
  | .spawn n x => some (0x58, Mod.bitBits x, n)
  | .ret n => some (0x59, 0, n)
  | .cnt n => some (0x5A, 0, n)
  | .isect n => some (0x5B, 0, n)
  | .unio n => some (0x5C, 0, n)
  | .porter n => some (0x5D, 0, n)
  | .rng n => some (0x5E, 0, n)
  | .reorder n => some (0x5F, 0, n)
  | .wtaddr n x y => some (0x67, Mod.watchBits x y, n)
  | .waitq n => some (0x68, 0, n)
  | .tlinc n => some (0x69, 0, n)
  | .tlwait n => some (0x6A, 0, n)
  | .cpy n => some (0x6C, 0, n)
  | .cpyr n => some (0x6D, 0, n)
  | .qput n => some (0x6E, 0, n)
  | .qget n => some (0x6F, 0, n)
  | .mzero n => some (0x71, 0, n)
  | .mdrain n => some (0x72, 0, n)
  | .rpush n => some (0x73, 0, n)
  | .ringst n x => some (0x74, Mod.ringOpBits x, n)
  | .spacc n => some (0x75, 0, n)
  | .spflush n x => some (0x76, Mod.roundBits x, n)
  | .raise n => some (0x78, 0, n)
  | .hset n x y => some (0x79, Mod.enPendBits x y, n)
  | .hclr n x y => some (0x7A, Mod.enPendBits x y, n)
  | .trap n => some (0x7B, 0, n)
  | .chk n x => some (0x7C, Mod.chkBits x, n)
  | .csr n x => some (0x7D, Mod.csrBits x, n)
  | .brk n => some (0x7E, 0, n)
  | .halt n => some (0x7F, 0, n)
  | _ => none

/-- OP, M, T1 and fields of the opcodes whose extension is XM (R94, R198). -/
def Instr.mParts (i : Instr) : Option (BitVec 7 × BitVec 4 × BitVec 9 × MNode) :=
  match i with
  | .ld n sp o => some (0x60, Mod.spaceOrderBits sp o, n.t1.code, n)
  | .st n sp o => some (0x61, Mod.spaceOrderBits sp o, n.t1.code, n)
  | .ldx n sp o => some (0x62, Mod.spaceOrderBits sp o, n.t1.code, n)
  | .stx n sp o => some (0x63, Mod.spaceOrderBits sp o, n.t1.code, n)
  | .amo n sp o a => some (0x64, Mod.spaceOrderBits sp o, a.code, n)
  | .red n sp o a => some (0x65, Mod.spaceOrderBits sp o, a.code, n)
  | .fence n o => some (0x66, Mod.fenceOrderBits o, n.t1.code, n)
  | .prf n => some (0x6B, Mod.spaceOrderBits .glb .plain, n.t1.code, n)
  | _ => none

/-- The station words of a node; an event of another unit has none. -/
def encode (i : Instr) : List Word :=
  match i.gParts with
  | some (op, m, n) =>
    match n.xg with
    | some x => [gWord op n.w.code true m n.t0.code n.t1.code, x.toWord]
    | none => [gWord op n.w.code false m n.t0.code n.t1.code]
  | none =>
    match i.mParts with
    | some (op, m, t1, n) => [gWord op n.w.code true m n.t0.code t1, n.xm.toWord]
    | none =>
      match i with
      | .mma x f l a => [gWord 0x70 0 true (Mod.mmaBits f l a) 0 0, x.toWord]
      | _ => []

/-- A step that stands in a station: one of the 117 opcodes of R94. -/
def Instr.isNode (i : Instr) : Bool := !(encode i).isEmpty

/-- The instruction whose bits are w, bit 0 the least significant bit of the first word; bits above nbits are zero. -/
def decodeTableWord (nbits w : Nat) : Option Instr :=
  let v := w % 2 ^ nbits
  match decode [BitVec.ofNat 32 v, BitVec.ofNat 32 (v >>> 32)] with
  | .ok (i, _) => some i
  | .error _ => none

end Sys2Proof
end

