-- ==== Sys2Proof/Config.lean ====
section
/-! DEFINITION. What an implementation fixes: the sizes the spec states, and the values it leaves open, as constants without a
body (free values; notes/assumptions/3.md). -/

namespace Sys2Proof.Config

/-- Token-store entries of a C-tile (R28). -/
def tokenStore : Nat := 384
/-- Tokens an input channel queue holds (R251). -/
def queueDepth : Nat := 16
/-- Egress pool entries of a C-tile (R251). -/
def egressPool : Nat := 32
/-- Tokens of one channel in the pool or on the way to it (R268). -/
def egressPerChannel : Nat := 8
/-- Memory port buffer entries (R187). -/
def portBuffer : Nat := 8
/-- Wait slots of a C-tile (R187). -/
def waitSlots : Nat := 8
/-- Return queue entries of a C-tile (R171). -/
def returnQueue : Nat := 8
/-- Watch units of a billet (R205). -/
def watchUnits : Nat := 16
/-- Control FIFO entries of a billet (R272). -/
def controlFifo : Nat := 16
/-- Operations a sparse-update unit holds (R200). -/
def sparseOps : Nat := 64
/-- Bytes of a cache line (R282). -/
def lineBytes : Nat := 128
/-- First physical address that reaches the host (R282). -/
def hostBase : Nat := 0x1800000000
/-- First physical address homed on side 1 (R282). -/
def side1Base : Nat := 0xC00000000

/-- A free number for each reading of the counter State.oracle: which cache line a replacement takes (R281, R287), which packet of
a set of choices the hardware leaves open comes first. Nothing is known of it. -/
opaque free : Nat → Nat

/-- The L1 bank and set of a physical line address (R287): a function the spec does not give. -/
opaque l1Set : Nat → Nat

/-- The L2 slice of a side that holds a physical line address (R282): fixed for a partition, not given. -/
opaque l2Slice : Nat → Nat

/-- The set of an L2 slice that holds a physical line address: a function the spec does not give. -/
opaque l2Set : Nat → Nat

/-- Ways of an L2 slice (R341, R363). -/
def l2Ways : Nat := 16
/-- Sets of an L2 slice: 1 MiB (R281) of 16 ways of 128-byte lines. -/
def l2Sets : Nat := 512

/-- Ways of each set that the waystation pool holds by default: 8 of 64 MiB (R281, R351); which they are is open. -/
def poolWays : Nat := 2

/-- Byte k of the 512-byte save area that holds a queue's HEAD, TAIL, read pointer and pending decrements (R326): its layout is
not given. -/
opaque saveArea : Nat → Nat → Nat → List (Nat × Nat × Bool) → Nat → Byte

/-- HEAD, TAIL, read pointer and pending decrements as the device reads them from a save area that does not hold what it saved there. -/
opaque loadArea : List Byte → Word × Word × Word × List (Nat × Nat × Bool)

/-- WPTR of an edge's entry in the edge table (R349): queue and slot of its launch, its ID. Which pool index it is is not given. -/
opaque wayHandle : Nat → Nat → Nat → BitVec 18

/-- Where the slots of a STRICT virtual channel begin in a frame, from the weight sums of all channels (R361): the spec leaves it to the
Innkeeper. -/
opaque frameStart : List Nat → Nat → Nat

/-- CLASS of the record that a hardware shutdown leaves in the device fault log (R451), which the spec does not give. -/
opaque shutdownClass : Nat

/-- CLASS of the record of a repair area whose CRC fails (R446), which the spec does not give. -/
opaque repairClass : Nat

/-- The boot ROM's digest (R447, measurement 1), fixed for a device. -/
opaque romDigest : List Byte

/-- The repair area's bytes (R446, R447): the spec gives no layout of what the Innkeeper writes there. -/
opaque repairArea : List (List (Nat × Nat × Nat)) → List (List Nat) → List Byte

/-- SHA3-256 (R446, R447), a standard the spec names and does not repeat: 32 bytes of a message. -/
opaque sha3 : List Byte → List Byte

/-- Verification of an ML-DSA-44 signature over a digest with a public key (R446). -/
opaque mldsaVerify : List Byte → List Byte → List Byte → Bool

/-- The device's fused secret (R447). -/
opaque deviceSecret : List Byte

/-- The identity key derived from the fused secret and an image digest, the post-quantum one or the other (R447). -/
opaque identityKey : Bool → List Byte → List Byte → List Byte

/-- The certificate chain of an identity key, up to the device certificate signed at manufacture (R447). -/
opaque certChain : List Byte → List Byte

/-- The signature an SPDM responder makes over measurements with an identity key, under ML-DSA-44 or not (R447). -/
opaque spdmSign : Bool → List Byte → List Byte → List Byte

/-! ### Sensors (R451) -/

/-- What the sensor of a side's layer reads, and the board sensor, in units of 0.25 degrees C at a free number. -/
opaque layerTemp : Nat → Nat → Nat → BitVec 16
opaque boardTemp : Nat → BitVec 16

end Sys2Proof.Config
end

