-- ==== Sys2Proof/Machine/Flags.lean ====
section
/-! DEFINITION. The flag register CT_FFLAGS (02 R55, R56): its bits, their union over the elements of a firing, and its W1C writes. -/

namespace Sys2Proof.Machine

/-- A set of the flags of CT_FFLAGS (R55), bit 0 NX to bit 6 IOVF. -/
abbrev Flags := BitVec 7

def fNX : Flags := 1
def fUF : Flags := 2
def fOF : Flags := 4
def fDZ : Flags := 8
def fNV : Flags := 16
def fQSAT : Flags := 32
def fIOVF : Flags := 64
/-- The flags of a saturation (R65): OF and NX. -/
def fSat : Flags := 5

def Flags.when (c : Bool) (f : Flags) : Flags := if c then f else 0

/-- The union of the flags of several elements or firings (R56, R118). -/
def flagsOr (fs : List Flags) : Flags := fs.foldl (· ||| ·) 0

/-- A write to a W1C field (R245): set changes nothing, wr and clr clear; a bit set in the same fc stays (R56). -/
def w1c (op : CsrOp) (old v now : Flags) : Flags :=
  match op with
  | .wr | .clr => old &&& ~~~(v &&& ~~~now)
  | _ => old

end Sys2Proof.Machine
end

