-- ==== Sys2Proof/Machine/Num.lean ====
section
/-! DEFINITION. Exact values, rounding and the element formats (02 R45 to R50, R62 to R65, R70 to R75). An exact value is a signed integer
times a power of two, an infinity or a NaN, so every operation is computed exactly and narrowed once. Choices and readings: log entry 20.
-/

namespace Sys2Proof.Machine

/-! ### Exact values -/

/-- An element value: NaN (signalling or quiet, R46), an infinity, or (-1)^neg * m * 2^e with signed zero at m = 0. -/
inductive Val
  | nan (sig : Bool)
  | inf (neg : Bool)
  | num (neg : Bool) (m : Nat) (e : Int)
  deriving DecidableEq, Repr

def Val.zero : Val := .num false 0 0
def Val.one : Val := .num false 1 0
def Val.ofInt (x : Int) : Val := .num (decide (x < 0)) x.natAbs 0
def Val.isNan : Val → Bool
  | .nan _ => true
  | _ => false
def Val.isSig : Val → Bool
  | .nan s => s
  | _ => false
def Val.isZero : Val → Bool
  | .num _ m _ => m == 0
  | _ => false
def Val.isNeg : Val → Bool
  | .nan _ => false
  | .inf n => n
  | .num n _ _ => n

/-- A value times 2^k, exactly; zeros, infinities and NaN are unchanged. -/
def Val.scale (v : Val) (k : Int) : Val :=
  match v with
  | .num n m e => if m = 0 then v else .num n m (e + k)
  | _ => v

def Val.neg : Val → Val
  | .nan s => .nan s
  | .inf n => .inf (!n)
  | .num n m e => .num (!n) m e

def Val.withSign (v : Val) (s : Bool) : Val :=
  match v with
  | .nan q => .nan q
  | .inf _ => .inf s
  | .num _ m e => .num s m e

/-- NV for a signalling NaN (R46). -/
def Val.sigFlag (v : Val) : Flags := Flags.when v.isSig fNV

/-! ### Rounding to integers -/

/-- Whether a truncated magnitude q moves up, from its lowest bit, the comparison of the discarded part with one half, and
whether anything was discarded (R62). -/
def roundUp (mode : Round) (neg odd aboveHalf isHalf inexact : Bool) : Bool :=
  match mode with
  | .rne => aboveHalf || (isHalf && odd)
  | .rtz => false
  | .rdn => neg && inexact
  | .rup => !neg && inexact

/-- RoundDir of m * 2^e to a magnitude, with whether it was inexact (R62). -/
def roundMag (mode : Round) (neg : Bool) (m : Nat) (e : Int) : Nat × Bool :=
  if e ≥ 0 then (m <<< e.toNat, false)
  else
    let k := (-e).toNat
    if m = 0 then (0, false)
    else if k > m.log2 + 2 then (if roundUp mode neg false false false true then 1 else 0, true)
    else
      let q := m >>> k
      let r := m - (q <<< k)
      let h := 1 <<< (k - 1)
      let inexact := decide (r ≠ 0)
      let up := roundUp mode neg (decide (q % 2 = 1)) (decide (r > h)) (decide (r = h)) inexact
      (if up then q + 1 else q, inexact)

/-- floor(log2 (m * 2^e)) for m > 0. -/
def lead (m : Nat) (e : Int) : Int := (m.log2 : Int) + e

/-- Sat(x, F) of an integer range (R65). -/
def satInt (lo hi x : Int) : Int × Flags :=
  if x < lo then (lo, fSat) else if x > hi then (hi, fSat) else (x, 0)

/-- A bound on a magnitude beyond which every integer range of the spec is saturated. -/
def hugeLead : Int := 130

/-- Sat(RoundDir(v, Z, mode) + off) to a range (R65, R66): NaN gives nanTo with NV, infinities saturate. -/
def toIntSat (mode : Round) (lo hi off nanTo : Int) (v : Val) : Int × Flags :=
  match v with
  | .nan _ => let (x, f) := satInt lo hi nanTo; (x, f ||| fNV)
  | .inf n => (if n then lo else hi, fSat)
  | .num n m e =>
    if m ≠ 0 ∧ lead m e > hugeLead then (if n then lo else hi, fSat)
    else
      let (q, inexact) := roundMag mode n m e
      let x := (if n then -(q : Int) else (q : Int)) + off
      let (y, f) := satInt lo hi x
      (y, if f ≠ 0 then f else Flags.when inexact fNX)

/-! ### Float formats (R45) -/

/-- The floating-point element formats of R45. -/
inductive FFmt | f32 | f16 | bf16 | e4m3 | e5m2 | e2m1
  deriving DecidableEq, Repr

def FFmt.ebits : FFmt → Nat
  | .f32 => 8 | .f16 => 5 | .bf16 => 8 | .e4m3 => 4 | .e5m2 => 5 | .e2m1 => 2
def FFmt.fbits : FFmt → Nat
  | .f32 => 23 | .f16 => 10 | .bf16 => 7 | .e4m3 => 3 | .e5m2 => 2 | .e2m1 => 1
def FFmt.bias : FFmt → Int
  | .f32 => 127 | .f16 => 15 | .bf16 => 127 | .e4m3 => 7 | .e5m2 => 15 | .e2m1 => 1
def FFmt.width (f : FFmt) : Nat := 1 + f.ebits + f.fbits
def FFmt.hasInf : FFmt → Bool
  | .e4m3 | .e2m1 => false
  | _ => true
/-- Significand width with the hidden bit (R47). -/
def FFmt.sig (f : FFmt) : Nat := f.fbits + 1
/-- Exponent of the minimum normal. -/
def FFmt.emin (f : FFmt) : Int := 1 - f.bias
/-- Exponent of the maximum finite value. -/
def FFmt.emax : FFmt → Int
  | .f32 => 127 | .f16 => 15 | .bf16 => 127 | .e4m3 => 8 | .e5m2 => 15 | .e2m1 => 2
/-- Integer significand of the maximum finite value: all ones, but 448 = 14 * 2^5 in e4m3. -/
def FFmt.maxSig : FFmt → Nat
  | .e4m3 => 14
  | f => 2 ^ (f.fbits + 1) - 1
def FFmt.maxVal (f : FFmt) (neg : Bool) : Val := .num neg f.maxSig (f.emax - f.fbits)
/-- Bits of the canonical NaN; e2m1 has none, and +6 stands for it (R65). -/
def FFmt.nanBits : FFmt → Nat
  | .f32 => 0x7FC00000 | .f16 => 0x7E00 | .bf16 => 0x7FC0 | .e4m3 => 0x7F | .e5m2 => 0x7E | .e2m1 => 0x7

/-- The exact value of an element's bits (R45, R46). -/
def FFmt.decode (f : FFmt) (b : Nat) : Val :=
  let fr := b % 2 ^ f.fbits
  let ex := b / 2 ^ f.fbits % 2 ^ f.ebits
  let s := decide (b / 2 ^ (f.fbits + f.ebits) % 2 = 1)
  let top := 2 ^ f.ebits - 1
  if f = .e4m3 ∧ ex = top ∧ fr = 7 then .nan false
  else if f.hasInf ∧ ex = top then
    if fr = 0 then .inf s else .nan (decide (fr / 2 ^ (f.fbits - 1) = 0))
  else if ex = 0 then .num s fr (if fr = 0 then 0 else f.emin - f.fbits)
  else .num s (2 ^ f.fbits + fr) (ex - f.bias - f.fbits)

/-- The bits of a value that the format holds: the inverse of decode on rounded values, NaN as the canonical one. -/
def FFmt.encode (f : FFmt) (v : Val) : Nat :=
  let sgn (s : Bool) : Nat := if s then 2 ^ (f.fbits + f.ebits) else 0
  match v with
  | .nan _ => f.nanBits
  | .inf s => sgn s + (2 ^ f.ebits - 1) * 2 ^ f.fbits
  | .num s m e =>
    if m = 0 then sgn s
    else
      let l := lead m e
      if l < f.emin then
        -- the significand in units of the subnormal spacing
        sgn s + (roundMag .rtz s m (e - (f.emin - f.fbits))).1
      else
        let q := (roundMag .rtz s m (e - (l - f.fbits))).1
        sgn s + (l + f.bias).toNat * 2 ^ f.fbits + (q - 2 ^ f.fbits)

/-- Compares magnitudes m1 * 2^e1 and m2 * 2^e2 exactly. -/
def magCmp (m1 : Nat) (e1 : Int) (m2 : Nat) (e2 : Int) : Ordering :=
  if m1 = 0 then (if m2 = 0 then .eq else .lt)
  else if m2 = 0 then .gt
  else
    let l1 := lead m1 e1
    let l2 := lead m2 e2
    if l1 < l2 then .lt else if l1 > l2 then .gt
    else
      let e := min e1 e2
      compare (m1 <<< (e1 - e).toNat) (m2 <<< (e2 - e).toNat)

def FFmt.above (f : FFmt) (m : Nat) (e : Int) : Bool := magCmp m e f.maxSig (f.emax - f.fbits) == .gt

/-- The overflow value of R63: an infinity or the maximum finite value. -/
def overflowVal (f : FFmt) (mode : Round) (neg : Bool) : Val :=
  if !f.hasInf then f.maxVal neg
  else
    match mode with
    | .rne => .inf neg
    | .rtz => f.maxVal neg
    | .rdn => if neg then .inf true else f.maxVal false
    | .rup => if neg then f.maxVal true else .inf false

/-- NaN converted to a format (R46, R65). -/
def nanTo (f : FFmt) (sig : Bool) : Val × Flags :=
  if f = .e2m1 then (f.maxVal false, fNV) else (.nan false, Flags.when sig fNV)

/-- RoundDir(x, F, mode) (R62 to R65), with its flags; p bounds the significand (F's own, or fewer for the estimates of
R131), and sat selects the saturating overflow of a channel encoding (R66). -/
def roundWith (f : FFmt) (p : Nat) (mode : Round) (sat : Bool) (v : Val) : Val × Flags :=
  match v with
  | .nan s => nanTo f s
  | .inf s => if f.hasInf then (.inf s, 0) else (f.maxVal s, fSat)
  | .num s m e =>
    if m = 0 then (.num s 0 0, 0)
    else
      let l := lead m e
      let top : Val × Flags := (if sat then f.maxVal s else overflowVal f mode s, fSat)
      if l > f.emax + 1 then top
      else
        let unit := max (l - p + 1) (f.emin - f.fbits)
        let (q, inexact) := roundMag mode s m (e - unit)
        if f.above q unit then top
        else
          (.num s q (if q = 0 then 0 else unit),
            Flags.when inexact fNX ||| Flags.when (inexact && decide (l < f.emin)) fUF)

/-- RoundDir(x, F, mode) (R65). -/
def roundDir (f : FFmt) (mode : Round) (v : Val) : Val × Flags := roundWith f f.sig mode false v

/-- RoundStoch(x, F, rand) (R74), on bits [31:16] of the random word. -/
def roundStoch (f : FFmt) (v : Val) (rnd16 : Nat) : Val × Flags :=
  match v with
  | .num s m e =>
    if m = 0 then (v, 0)
    else
      let l := lead m e
      let unit := max (l - f.fbits) (f.emin - f.fbits)
      if l > f.emax + 1 then (f.maxVal s, fSat)
      else
        let (q, t) :=
          if e ≥ unit then (m <<< (e - unit).toNat, 0)
          else
            let k := (unit - e).toNat
            if k > m.log2 + 32 then (0, 0)
            else
              let q := m >>> k
              (q, ((m - (q <<< k)) <<< 16) >>> k)
        let q' := if t + rnd16 ≥ 2 ^ 16 then q + 1 else q
        let fl := Flags.when (decide (t ≠ 0)) fNX ||| Flags.when (decide (t ≠ 0) && decide (l < f.emin)) fUF
        if f.above q' unit then (f.maxVal s, fl ||| fSat)
        else (.num s q' (if q' = 0 then 0 else unit), fl)
  | _ => roundDir f .rne v

/-! ### Exact operations -/

/-- The sign of an exact zero sum (R64). -/
def zeroSumSign (mode : Round) (allNeg : Bool) : Bool := allNeg || mode == .rdn

/-- Adds exact values (R64, R67): NaN when an operand is NaN or infinities oppose, NV for a signalling NaN or opposed
infinities. -/
def addExact (mode : Round) (a b : Val) : Val × Flags :=
  match a, b with
  | .nan s, .nan t => (.nan false, Flags.when (s || t) fNV)
  | .nan s, _ => (.nan false, Flags.when s fNV)
  | _, .nan t => (.nan false, Flags.when t fNV)
  | .inf s, .inf t => if s = t then (.inf s, 0) else (.nan false, fNV)
  | .inf s, _ => (.inf s, 0)
  | _, .inf t => (.inf t, 0)
  | .num s m e, .num t n g =>
    if m = 0 then (if n = 0 then (.num (zeroSumSign mode (s && t)) 0 0, 0) else (b, 0))
    else if n = 0 then (a, 0)
    else
      let lo := min e g
      let x := (m <<< (e - lo).toNat : Nat)
      let y := (n <<< (g - lo).toNat : Nat)
      let z : Int := (if s then -(x : Int) else x) + (if t then -(y : Int) else y)
      if z = 0 then (.num (zeroSumSign mode false) 0 0, 0)
      else (.num (decide (z < 0)) z.natAbs lo, 0)

/-- Multiplies exact values (R127): infinity times zero is NaN with NV. -/
def mulExact (a b : Val) : Val × Flags :=
  match a, b with
  | .nan s, .nan t => (.nan false, Flags.when (s || t) fNV)
  | .nan s, _ => (.nan false, Flags.when s fNV)
  | _, .nan t => (.nan false, Flags.when t fNV)
  | .inf s, .inf t => (.inf (s != t), 0)
  | .inf s, .num t n _ => if n = 0 then (.nan false, fNV) else (.inf (s != t), 0)
  | .num s m _, .inf t => if m = 0 then (.nan false, fNV) else (.inf (s != t), 0)
  | .num s m e, .num t n g => if m = 0 ∨ n = 0 then (.num (s != t) 0 0, 0) else (.num (s != t) (m * n) (e + g), 0)

/-- The exact sum of a list, first to last; used where R67 and R69 sum exactly and round once. -/
structure SumAcc where
  nan : Bool
  pinf : Bool
  ninf : Bool
  allNeg : Bool
  any : Bool
  m : Int
  e : Int
  fl : Flags
  deriving DecidableEq, Repr

def SumAcc.empty : SumAcc := ⟨false, false, false, true, false, 0, 0, 0⟩

def SumAcc.step (a : SumAcc) (v : Val) : SumAcc :=
  match v with
  | .nan s => { a with nan := true, allNeg := false, any := true, fl := a.fl ||| Flags.when s fNV }
  | .inf n => { a with pinf := a.pinf || !n, ninf := a.ninf || n, allNeg := false, any := true }
  | .num n m e =>
    if m = 0 then { a with allNeg := a.allNeg && n, any := true }
    else
      let lo := if a.m = 0 then e else min a.e e
      let x : Int := if a.m = 0 then 0 else a.m * (2 ^ (a.e - lo).toNat : Nat)
      let y : Int := (m <<< (e - lo).toNat : Nat)
      { a with allNeg := false, any := true, m := x + (if n then -y else y), e := lo }

def SumAcc.result (a : SumAcc) (mode : Round) : Val × Flags :=
  if a.nan then (.nan false, a.fl ||| Flags.when (a.pinf && a.ninf) fNV)
  else if a.pinf && a.ninf then (.nan false, a.fl ||| fNV)
  else if a.pinf then (.inf false, a.fl)
  else if a.ninf then (.inf true, a.fl)
  else if a.m = 0 then (.num (zeroSumSign mode (a.any && a.allNeg)) 0 0, a.fl)
  else (.num (decide (a.m < 0)) a.m.natAbs a.e, a.fl)

def sumExact (mode : Round) (vs : List Val) : Val × Flags := (vs.foldl SumAcc.step .empty).result mode

/-- Compares values as numbers, −0 equal to +0; none when either is NaN (R129). -/
def Val.cmp (a b : Val) : Option Ordering :=
  match a, b with
  | .nan _, _ => none
  | _, .nan _ => none
  | .inf s, .inf t => some (if s = t then .eq else if s then .lt else .gt)
  | .inf s, _ => some (if s then .lt else .gt)
  | _, .inf t => some (if t then .gt else .lt)
  | .num s m e, .num t n g =>
    if m = 0 ∧ n = 0 then some .eq
    else if m = 0 then some (if t then .gt else .lt)
    else if n = 0 then some (if s then .lt else .gt)
    else if s ≠ t then some (if s then .lt else .gt)
    else some (if s then magCmp n g m e else magCmp m e n g)

/-- The order of R128: as Val.cmp, with −0 below +0. -/
def Val.total (a b : Val) : Option Ordering :=
  match a.cmp b with
  | some .eq => if a.isZero && b.isZero then some (compare b.isNeg.toNat a.isNeg.toNat) else some .eq
  | o => o

/-! ### Element formats and channels (R48 to R53, R66) -/

/-- The element kinds of the format codes 0 to 13 (R52). -/
inductive Elem
  | flt (f : FFmt)
  | int (signed : Bool) (w : Nat)
  deriving DecidableEq, Repr

/-- Format codes 0 to 13 with the number k of elements a lane holds (R52). -/
def fmtElem (code : Nat) : Option (Elem × Nat) :=
  match code with
  | 0 => some (.flt .f32, 1) | 1 => some (.flt .bf16, 2) | 2 => some (.flt .f16, 2) | 3 => some (.flt .e4m3, 4)
  | 4 => some (.flt .e5m2, 4) | 5 => some (.flt .e2m1, 8) | 6 => some (.int true 32, 1) | 7 => some (.int false 32, 1)
  | 8 => some (.int true 16, 2) | 9 => some (.int false 16, 2) | 10 => some (.int true 8, 4) | 11 => some (.int false 8, 4)
  | 12 => some (.int true 4, 8) | 13 => some (.int true 2, 16) | _ => none

/-- Elements per lane of every format code (R52); 0 on a reserved code. -/
def fmtK (code : Nat) : Nat :=
  match fmtElem code with
  | some (_, k) => k
  | none => if code = 14 then 5 else if code = 15 ∨ code = 16 then 1 else 0

def Elem.width : Elem → Nat
  | .flt f => f.width
  | .int _ w => w
def Elem.isFloat : Elem → Bool
  | .flt _ => true
  | .int _ _ => false
def Elem.lo : Elem → Int
  | .int true w => -(2 ^ (w - 1) : Nat)
  | _ => 0
def Elem.hi : Elem → Int
  | .int true w => (2 ^ (w - 1) : Nat) - 1
  | .int false w => (2 ^ w : Nat) - 1
  | _ => 0

/-- Two's complement or unsigned value of w bits (R48). -/
def intOf (signed : Bool) (w b : Nat) : Int :=
  let x := b % 2 ^ w
  if signed && decide (x ≥ 2 ^ (w - 1)) then (x : Int) - (2 ^ w : Nat) else x

/-- The w low bits of an integer. -/
def intBits (w : Nat) (x : Int) : Nat := (x % (2 ^ w : Nat)).toNat

/-- IntValue or FloatValue of an element's bits. -/
def Elem.value (el : Elem) (b : Nat) : Val :=
  match el with
  | .flt f => f.decode (b % 2 ^ f.width)
  | .int s w => Val.ofInt (intOf s w b)

/-- A scale register (R54): signed zero point and signed exponent. -/
structure Scale where
  zp : BitVec 8
  se : BitVec 8
  deriving DecidableEq, Repr

def Scale.identity : Scale := ⟨0, 0⟩
def Scale.toWord (s : Scale) : Word := (0 : BitVec 16) ++ s.zp ++ s.se
def Scale.ofWord (w : Word) : Scale := ⟨w.extractLsb' 8 8, w.extractLsb' 0 8⟩

/-- DecodeChannel of one element (R66). -/
def chanDecode (el : Elem) (sc : Scale) (b : Nat) : Val × Flags :=
  match el with
  | .int s w => ((Val.ofInt (intOf s w b - sc.zp.toInt)).scale sc.se.toInt, 0)
  | .flt _ => let v := el.value b; (v.scale sc.se.toInt, v.sigFlag)

/-- EncodeChannel of one element value (R66). -/
def chanEncode (el : Elem) (sc : Scale) (v : Val) : Nat × Flags :=
  let y := v.scale (-sc.se.toInt)
  match el with
  | .int _ w => let (x, f) := toIntSat .rne el.lo el.hi sc.zp.toInt sc.zp.toInt y; (intBits w x, f)
  | .flt f => let (x, fl) := roundWith f f.sig .rne true y; (f.encode x, fl)

/-- Element i of a lane (R51). -/
def laneElem (w k : Nat) (lane : Word) (i : Nat) : Nat := if i < k then lane.toNat / 2 ^ (w * i) % 2 ^ w else 0

/-- The elements of a token's lanes, element 0 first (R51, R133). -/
def elemsOf (w k : Nat) (lanes : List Word) : List Nat :=
  lanes.flatMap fun l => (List.range k).map (laneElem w k l)

/-- A lane from its elements (R51); missing elements and unused high bits are zero. -/
def laneOf (w : Nat) : List Nat → Nat
  | [] => 0
  | x :: xs => x % 2 ^ w + 2 ^ w * laneOf w xs

/-- n lanes from an element list; positions beyond the list are zero bits, elements beyond the lanes are dropped. -/
def lanesOf (w k : Nat) : Nat → List Nat → List Word
  | 0, _ => []
  | n + 1, xs => BitVec.ofNat 32 (laneOf w (xs.take k)) :: lanesOf w k n (xs.drop k)

/-! ### Precision reduction (R70) -/

/-- The PCF width codes (R70); none is the native width. -/
def pcfWidth (c : Nat) : Option Nat :=
  match c with
  | 0 => some 2 | 1 => some 4 | 2 => some 6 | 3 => some 8 | 4 => some 12 | 5 => some 16 | 6 => some 24 | _ => none

/-- Reduce(x, fmt, w), rescaled so that products keep their place (R70); sets no flag. -/
def reduceElem (el : Elem) (code : Nat) (b : Nat) : Val :=
  let v := el.value b
  match pcfWidth code with
  | none => v
  | some w =>
    match el, v with
    | .flt f, .num s m e =>
      if w ≥ f.sig ∨ m = 0 then v
      else
        let l := lead m e
        let unit := l - w + 1
        if unit ≤ e then v else .num s (roundMag .rne s m (e - unit)).1 unit
    | .int sg fw, .num s m e =>
      if w ≥ fw then v
      else
        let sh := (fw : Int) - w
        let (q, _) := roundMag .rne s m (e - sh)
        let x : Int := if s then -(q : Int) else q
        let lo : Int := if sg then -(2 ^ (w - 1) : Nat) else 0
        let hi : Int := if sg then (2 ^ (w - 1) : Nat) - 1 else (2 ^ w : Nat) - 1
        (Val.ofInt (satInt lo hi x).1).scale sh
    | _, _ => v

/-! ### LNS6 (R49, R72, R73) -/

def lnsNeg (b : Nat) : Bool := decide (b / 32 % 2 = 1)
def lnsCode (b : Nat) : Int := intOf true 5 b
def lnsIsZero (b : Nat) : Bool := b % 64 == 0x10
def lnsIsNaR (b : Nat) : Bool := b % 64 == 0x30
def lnsBits (neg : Bool) (c : Int) : Nat := (if neg then 32 else 0) + intBits 5 c

/-- LinFromLog(a, b): a product of two LNS6 codes as a Q16.16 term (R72). -/
def linFromLog (a b : Nat) : Int × Flags :=
  if lnsIsNaR a || lnsIsNaR b then (0, fNV)
  else if lnsIsZero a || lnsIsZero b then (0, 0)
  else
    let ep := lnsCode a + lnsCode b
    let i := ep / 4
    let t : Nat := match (ep % 4).toNat with
      | 0 => 32768 | 1 => 38968 | 2 => 46341 | _ => 55109
    let mag : Nat := if i + 1 ≥ 0 then t * 2 ^ (i + 1).toNat else t / 2 ^ (-(i + 1)).toNat
    (if lnsNeg a != lnsNeg b then -(mag : Int) else mag, 0)

/-- The product of two LNS6 codes (R73). -/
def lnsMul (a b : Nat) : Nat × Flags :=
  if lnsIsNaR a || lnsIsNaR b then (0x30, 0)
  else if lnsIsZero a || lnsIsZero b then (0x10, 0)
  else
    let (c, f) := satInt (-15) 15 (lnsCode a + lnsCode b)
    (lnsBits (lnsNeg a != lnsNeg b) c, f)

/-- Q16.16 saturation to ±(2^31 − 1), with QSAT (R67, R72). -/
def q16Sat (x : Int) : Int × Flags :=
  if x > 2147483647 then (2147483647, fQSAT) else if x < -2147483647 then (-2147483647, fQSAT) else (x, 0)

/-! ### The random generator (R75) -/

def mix64 (x : BitVec 64) : BitVec 64 :=
  let z0 := x + 0x9E3779B97F4A7C15#64
  let z1 := (z0 ^^^ (z0 >>> 30)) * 0xBF58476D1CE4E5B9#64
  let z2 := (z1 ^^^ (z1 >>> 27)) * 0x94D049BB133111EB#64
  z2 ^^^ (z2 >>> 31)

def randWord (seed : BitVec 64) (colour : BitVec 10) (iter : BitVec 16) (lane : Nat) : Word :=
  let x := seed ^^^ (colour.zeroExtend 64 <<< 48) ^^^ (iter.zeroExtend 64 <<< 16) ^^^ BitVec.ofNat 64 lane
  (mix64 x >>> 32).truncate 32

/-! ### The estimates (R131) -/

/-- Integer square root by bits: the largest r with r * r ≤ n, for n below 4^fuel. -/
def isqrtAux (n : Nat) : Nat → Nat → Nat
  | 0, r => r
  | k + 1, r =>
    let r' := r + 2 ^ k
    isqrtAux n k (if r' * r' ≤ n then r' else r)

def isqrt (n : Nat) : Nat := isqrtAux n (n.log2 / 2 + 1) 0

/-- The estimate's last step: truncates toward zero to min(9, p) significant bits (R131). The value is given with a sticky bit
below its significand. That a subnormal value is cut to the coarser of the two grids, min(9, p) significant bits and the subnormal
spacing, is the model's reading (log entry 20): R131 can also be read as the spacing alone. -/
def estRound (f : FFmt) (v : Val) : Val × Flags := roundWith f (min 9 f.sig) .rtz true v

/-- 1 / a, as a significand with a sticky bit. -/
def estRcp (f : FFmt) (v : Val) : Val × Flags :=
  match v with
  | .nan s => (.nan false, Flags.when s fNV)
  | .inf n => (.num n 0 0, 0)
  | .num n m e =>
    if m = 0 then (.inf n, fDZ)
    else
      let sh := m.log2 + 64
      let q := 2 ^ sh / m
      let st := if q * m = 2 ^ sh then 0 else 1
      estRound f (.num n (2 * q + st) (-e - sh - 1))

/-- 1 / sqrt a. -/
def estRsq (f : FFmt) (v : Val) : Val × Flags :=
  match v with
  | .nan s => (.nan false, Flags.when s fNV)
  | .inf n => if n then (.nan false, fNV) else (.num false 0 0, 0)
  | .num n m e =>
    if m = 0 then (.inf n, fDZ)
    else if n then (.nan false, fNV)
    else
      -- make the exponent even: a = m' * 2^(2h)
      let (m', h) : Nat × Int := if e % 2 = 0 then (m, e / 2) else (2 * m, (e - 1) / 2)
      -- floor(sqrt(2^(2k) / m')) with a sticky bit
      let k := m'.log2 + 32
      let r := isqrt (2 ^ (2 * k) / m')
      let st := if r * r * m' = 2 ^ (2 * k) then 0 else 1
      estRound f (.num false (2 * r + st) (-h - k - 1))

/-- Fractional bits that the exp2 and log2 estimates carry. -/
def estBits : Nat := 64

/-- Successive square roots of two, 2^(2^-(i+1)) in units of 2^-64, rounded down. -/
def sqrtTwos : Nat → Nat → List Nat
  | 0, _ => []
  | n + 1, x => let r := isqrt (x * 2 ^ estBits); r :: sqrtTwos n r

/-- The product over the set bits of a fraction, first bit first, in units of 2^-64. -/
def expFrac : List Nat → Nat → Nat → Nat
  | [], _, acc => acc
  | r :: rs, fr, acc =>
    let fr' := 2 * fr
    if fr' ≥ 2 ^ estBits then expFrac rs (fr' - 2 ^ estBits) (acc * r / 2 ^ estBits) else expFrac rs fr' acc

/-- 2^a: the integer part as exponent, the fraction by products of square roots of two, always with a sticky bit unless a is
an integer. -/
def estExp2 (f : FFmt) (v : Val) : Val × Flags :=
  match v with
  | .nan s => (.nan false, Flags.when s fNV)
  | .inf n => (if n then .num false 0 0 else .inf false, 0)
  | .num n m e =>
    if m = 0 then (.one, 0)
    else if lead m e ≥ 12 then
      -- far beyond every format's range: overflow, or a value below every spacing
      if n then (.num false 0 0, fNX ||| fUF) else (f.maxVal false, fSat)
    else if lead m e < -40 then
      -- within one unit of the estimate of 1: just above it, or just below it
      estRound f (if n then .num false (2 ^ 41 - 1) (-41) else .num false (2 ^ 41 + 1) (-41))
    else
      -- a in units of 2^-64 is exact: the significand has at most 24 bits and the exponent is at least -64
      let x : Int := (if n then -1 else 1) * (if e + estBits ≥ 0 then (m * 2 ^ (e + estBits).toNat : Nat)
        else (m / 2 ^ (-(e + estBits)).toNat : Nat))
      let i := x / (2 ^ estBits : Nat)
      let fr := (x % (2 ^ estBits : Nat)).toNat
      if fr = 0 then estRound f (.num false 1 i)
      else
        let y := expFrac (sqrtTwos estBits (2 ^ (estBits + 1))) fr (2 ^ estBits)
        estRound f (.num false (2 * y + 1) (i - estBits - 1))

/-- Fraction bits of log2 of y in [1, 2), y in units of 2^-128, by repeated squaring; n bits. -/
def logFrac : Nat → Nat → Nat → Nat
  | 0, _, acc => acc
  | n + 1, y, acc =>
    let z := y * y / 2 ^ 128
    if z ≥ 2 ^ 129 then logFrac n (z / 2) (2 * acc + 1) else logFrac n z (2 * acc)

/-- log2 a, truncated toward zero: the exponent and the fraction by repeated squaring, with a sticky bit. -/
def estLog2 (f : FFmt) (v : Val) : Val × Flags :=
  match v with
  | .nan s => (.nan false, Flags.when s fNV)
  | .inf n => if n then (.nan false, fNV) else (.inf false, 0)
  | .num n m e =>
    if m = 0 then (.inf true, fDZ)
    else if n then (.nan false, fNV)
    else
      let l := lead m e
      let y := m * 2 ^ (128 - m.log2)
      if y = 2 ^ 128 then (if l = 0 then (.num false 0 0, 0) else estRound f (Val.ofInt l))
      else
        let fr := logFrac 64 y 0
        -- l + fr / 2^64, not reached exactly: an irrational number strictly between two neighbours
        let x : Int := l * (2 ^ 65 : Nat) + 2 * fr + 1
        estRound f (.num (decide (x < 0)) x.natAbs (-65))

end Sys2Proof.Machine
end

