-- ==== Sys2Proof/Machine/State.lean ====
section
/-! DEFINITION. The machine's state as plain data: every piece of state the spec gives the device, from the tokens of a C-tile
to the repair area, and State.reset. Each field's default is its value at reset; INVENTORY.md lists them with their rules. -/

namespace Sys2Proof.Machine

/-- Why a step stops. Both are stops of the model, not of the hardware, and both are safe: a true claim may become
unprovable where they stand, and no false one can be proved through them. -/
inductive Fault
  /-- An issue act finds words at its station position that decode to no node; R95 says none is ever there. -/
  | stationWord
  /-- The agenda holds a station instruction as an event of a unit. -/
  | nodeAsEvent
  deriving DecidableEq, Repr

/-- Why a step has no meaning. -/
inductive Refusal
  /-- An instruction whose meaning is not modelled, by its mnemonic; safe. -/
  | notModelled (mnemonic : String)
  deriving DecidableEq, Repr

/-! ### Tokens -/

/-- KIND of a tag (R14); the reserved codes have no name, so no tag breaks the second invariant of R15. -/
inductive Kind | data | fin | ctrl | rand
  deriving DecidableEq, Repr

/-- A tag (R14). -/
structure Tag where
  kind : Kind := .data
  path : BitVec 7 := 0
  pdep : BitVec 3 := 0
  colour : BitVec 10 := 0
  iter : BitVec 16 := 0
  deriving DecidableEq, Repr

/-- A payload (R18): a word, or a vector of 16 lanes, lane 0 first. -/
inductive Payload
  | word (w : Word)
  | vec (ls : List Word)
  deriving DecidableEq, Repr

/-- A token: a tag and a payload. -/
structure Token where
  tag : Tag := {}
  pay : Payload := .word 0
  deriving DecidableEq, Repr

/-- A matching key (R24). -/
structure Key where
  colour : BitVec 10
  path : BitVec 7
  pdep : BitVec 3
  iter : BitVec 16
  deriving DecidableEq, Repr

/-- How the payload of a token at a port is read (R58, R61): as raw words, as elements of a channel's format and scale
register, or as elements of a format under the identity scale. -/
inductive Enc
  | raw
  | chan (fmt sc : Nat)
  | ident (fmt : Nat)
  deriving DecidableEq, Repr

/-- A token-store entry (R28, R29): the port it stands at, its token, the firings it is still held for, whether it is held until
an END (count 15), the fc it was accepted in, and whether a firing of this fc has consumed it (R36). -/
structure Entry where
  blk : Nat
  slot : Nat
  port : Port
  tok : Token
  enc : Enc := .raw
  left : Nat := 1
  keep : Bool := false
  since : Nat := 0
  spent : Bool := false
  deriving DecidableEq, Repr

/-! ### Channels and pipeline -/

/-- An input channel of a C-tile (R259, R267, R269) with its queue. -/
structure InChan where
  shape : Shape := .word
  fmt : Nat := 0
  scx : Nat := 0
  dblk : Nat := 0
  dslot : Nat := 0
  dport : Port := .L
  off : Nat := 0
  on : Nat := 0
  static : Bool := false
  queue : List Token := []
  gate : Bool := false
  asserted : Bool := true
  delivered : Bool := false
  /-- Comparators the head token may pass after a resume (R423). -/
  passed : List Nat := []
  /-- Sum of the queue's occupancy since the balancer last ran (R278). -/
  occSum : Nat := 0
  /-- SEQ expected next on an edge's consumer channel (R350). -/
  seqNext : Nat := 0
  deriving DecidableEq, Repr

/-- An output channel of a C-tile (R260, R267): views holds the off signal as last heard from each destination; a destination
not listed counts as asserted. -/
structure OutChan where
  shape : Shape := .word
  fmt : Nat := 0
  scx : Nat := 0
  route : Nat := 0
  split : Bool := false
  pace : Nat := 0
  views : List (Nat × Bool) := []
  nextFc : Nat := 0
  altFloat : Bool := false
  /-- A CTRL token of a HANDLER route is on its way and not yet accepted (R268). -/
  ctrlOut : Bool := false
  deriving DecidableEq, Repr

/-- A token in the egress pool (R268), encoded as its channel sends it; row is the steering destination of an mdrain row. -/
structure PoolTok where
  ch : Nat
  tok : Token
  row : Option Nat := none
  deriving DecidableEq, Repr

/-- What rdtime and rdslack sample at S4 (R125, R126): a part of the time base, all of it as a vector, or a word or vector of
the slack. -/
inductive Clock
  | time (f : TimeSel) (vec : Bool)
  | slack
  deriving DecidableEq, Repr

/-- What a firing sends: a payload as it stands, exact elements encoded at S6 (R59, R61) with the format of the producer's first
packed read port, or a time that S4 has not yet sampled. -/
inductive Res
  | pay (p : Payload)
  | elems (vs : List Val) (fmt : Nat)
  | clock (c : Clock)
  deriving DecidableEq, Repr

/-- One result on its way to one target. -/
structure Out where
  tgt : Target
  tag : Tag
  res : Res
  row : Option Nat := none
  deriving DecidableEq, Repr

/-- What a firing does beside its results (R59, R171, R238, R239, R245): nothing, a csr access at S6, a return to a tile's return queue for
the spawn node at a slot position, with the freeing of a colour (none for the END of a spawn, R172), a raise, or an hset or hclr. -/
inductive FlightFx
  | nothing
  | csr (idx : Nat) (op : CsrOp) (v : Word) (guard : Bool)
  | ret (tile pos : Nat) (tgt : Target) (tok : Token) (colour : Option Nat)
  | raise (entry : Nat) (tok : Token)
  | handler (entry : Nat) (set en pend : Bool) (tag : Tag)
  deriving DecidableEq, Repr

/-- A firing in S1 to S6 (R120, R252): where it came from, the fc its result is offered in, its results, its flags (R118). -/
structure Flight where
  blk : Nat
  slot : Nat
  due : Nat
  outs : List Out := []
  flags : Flags := 0
  fx : FlightFx := .nothing
  /-- The access, wait or copy its result waits for (R187). -/
  hold : Option Nat := none
  /-- The fc of the result is not fixed at issue (R36). -/
  loose : Bool := false
  /-- The fc of its issue: the reservations in its targets stand from then on (R35). -/
  issue : Nat := 0
  deriving DecidableEq, Repr

/-- A header word and the slot words of a present block (R76). -/
structure Block where
  n : Nat
  hdr : Word
  words : List Word
  deriving DecidableEq, Repr

/-- An spflush in progress (R237): the trigger's tag, entries sent, the coordinate from which the next entry is looked for, the fc of its
issue, the fc the next token may leave. -/
structure Flush where
  tag : Tag
  sent : Nat := 0
  floor : Nat := 0
  started : Bool := false
  issue : Nat
  next : Nat
  deriving DecidableEq, Repr

/-- An mdrain in progress (R234). -/
structure Drain where
  tag : Tag
  acc : Nat
  row : Nat
  dest : Option Nat
  next : Nat
  deriving DecidableEq, Repr

/-- A segment of isect or unio in a context (R173): pairs emitted and the last coordinate of each port. -/
structure Seg where
  ctx : BitVec 10 × BitVec 7 × BitVec 3
  pairs : Nat := 0
  prevL : Option Nat := none
  prevR : Option Nat := none
  deriving DecidableEq, Repr

/-- The state a node keeps between firings (R37, R157 to R181, R193, R216, R226, R230, R234, R237). -/
structure Node where
  stall : Nat := 0
  fired : Bool := false
  /-- Cycle count of a carry, its absorptions of this fc, and the closing state (R157 to R159). -/
  carryCount : Nat := 0
  carryDown : Nat := 0
  closing : Bool := false
  /-- Free slots of gate .count, less those it has taken, and absorptions of this fc (R162). -/
  gateTaken : Nat := 0
  gateBack : Nat := 0
  gateUp : Nat := 0
  joinCount : Nat := 0
  joinGroup : Word := 0
  /-- A partial group of join .flush has been sent and its END is next (R164). -/
  joinFlushed : Bool := false
  cntCount : Word := 0
  eosCount : Nat := 0
  /-- The tag of the END that eos .count sends in its next firing (R166). -/
  eosPending : Option Tag := none
  /-- Colours of a spawn node that are not yet returned (R170). -/
  spawnOut : Nat := 0
  segs : List Seg := []
  /-- Grant FIFO and last granted arc of a porter (R176). -/
  grants : List Nat := []
  lastArc : Nat := 31
  /-- Expected value, window and context of a reorder node (R180, R181). -/
  next : BitVec 16 := 0
  window : List (Nat × Token) := []
  ctx : Option (BitVec 10 × BitVec 7 × BitVec 3) := none
  /-- Keys a chained node has performed and its successor has not yet used (R193). -/
  performed : List Key := []
  /-- Pointer into ACCMASK or the drain mask, pairs done, tile of the accumulation in progress (R230, R234). -/
  ptr : Option Nat := none
  pairs : Nat := 0
  accTile : Option Nat := none
  rpushRow : Nat := 0
  drain : Option Drain := none
  flush : Option Flush := none
  /-- Instances of a chained node whose access trapped (R415, R422). -/
  trapped : List Key := []
  deriving DecidableEq, Repr

/-! ### Accumulators and the matrix engine -/

/-- State of an accumulator tile (R228). -/
inductive AccState | empty | opened | full
  deriving DecidableEq, Repr

/-- An accumulator tile (R228): C[m][n] at index 16 m + n, its type, its state and the slot position that claims it. -/
structure Accum where
  words : List Word := []
  ty : AccTy := .f32
  st : AccState := .empty
  claim : Option Nat := none
  deriving DecidableEq, Repr

/-- A matrix pair (R233): its node, tile, whether it is its accumulation's first, start, P and part; the slots of its rings' head tiles when
it started, and the operands taken from them, each empty until it is read. -/
structure MPair where
  pos : Nat
  acc : Nat
  first : Bool
  start : Nat
  p : Nat
  part : Nat
  /-- The accumulation retires with it (R232). -/
  last : Bool
  ha : Nat := 0
  hb : Nat := 0
  a : List Word := []
  b : List Word := []
  deriving DecidableEq, Repr

/-- An mzero from its issue until the tiles of its mask are EMPTY (R229). -/
structure MZero where
  id : Nat
  blk : Nat
  slot : Nat
  tag : Tag
  pay : Payload
  wait : List Nat
  deriving DecidableEq, Repr

/-! ### Memory operations -/

/-- Where a byte lives: a local store (key billet x 2^23 + M-tile x 2^20 + offset, R285) or a physical address (R282), with the
uncached mark of its leaf (R366). -/
inductive Loc
  | scr (key : Nat)
  | glb (pa : Nat) (uncached : Bool)
  deriving DecidableEq, Repr

/-- An access of a row 0x6 or 0x7 node, from issue to result (R187 to R192). -/
structure Acc where
  id : Nat
  blk : Nat
  slot : Nat
  instr : Instr
  tag : Tag
  issue : Nat
  /-- Lanes not yet translated, with their effective offsets, ascending (R188). -/
  todo : List (Nat × Nat) := []
  /-- Lanes translated. -/
  locs : List (Nat × Loc) := []
  data : Payload := .word 0
  held : Bool := false
  /-- A wake token waits for the held access (R190). -/
  wake : Bool := false
  /-- The wake token is an ABORT: the access raises PERMISSION (R370). -/
  aborted : Bool := false
  /-- The operation stands in a sparse-update unit (R200). -/
  atUnit : Bool := false
  /-- The reply of an amo, red or wtaddr that came during a freeze (R219). -/
  reply : Option Payload := none
  deriving DecidableEq, Repr

/-- An entry of a wait slot (R204, R208). -/
structure WaitSlot where
  id : Nat
  blk : Nat
  slot : Nat
  instr : Instr
  tok : Token
  issue : Nat
  deriving DecidableEq, Repr

/-- A token in a return queue (R171): the slot position of the spawn node it returns to, its return target, and the fc it reaches the
queue in; the queue is ordered by that fc. -/
structure RetTok where
  pos : Nat
  tgt : Target
  tok : Token
  due : Nat
  deriving DecidableEq, Repr

/-- A release that waits (R196): of a store, a fence, a tlinc, a chk or a halt, by the access that stands for it. -/
structure Release where
  tile : Nat
  acc : Acc
  scope : Scope
  deriving DecidableEq, Repr

/-- A copy of a context (R211, R213): its number, its node, its descriptor, the granules moved. -/
structure Copy where
  num : BitVec 64
  tile : Nat
  blk : Nat
  slot : Nat
  tag : Tag
  desc : List Word
  ring : Option Nat
  done : Nat := 0
  /-- The virtual address it is held on for the driver (R212). -/
  held : Option Nat := none
  wake : Bool := false
  aborted : Bool := false
  deriving DecidableEq, Repr

/-- A copy context (R206, R211): number last assigned, timeline TLC, copies in number order. -/
structure CopyCtx where
  last : BitVec 64 := 0
  tlc : BitVec 64 := 0
  queue : List Copy := []
  moved : Nat := 0
  deriving DecidableEq, Repr

/-- A watch unit (R205): the wtaddr it serves, the word's place, whether its granule was written, the fc of the next re-read. -/
structure Watch where
  tile : Nat
  acc : Acc
  loc : Loc
  hit : Bool := false
  next : Nat := 0
  deriving DecidableEq, Repr

/-- An operation at a sparse-update unit (R200, R236): amo, red or spacc, by tile and access. -/
structure SparseOp where
  tile : TileAddr
  acc : Nat
  instr : Instr
  loc : Loc
  data : Payload
  /-- Slot position of the node. -/
  pos : Nat
  /-- spacc: M-tile and coordinate. -/
  coord : Option (Nat × Nat) := none
  deriving DecidableEq, Repr

/-! ### C-tile -/

/-- A C-tile (R251). -/
structure Tile where
  blocks : List Block := []
  stageCtl : BitVec 64 := 0
  store : List Entry := []
  inCh : List (Nat × InChan) := []
  outCh : List (Nat × OutChan) := []
  pool : List PoolTok := []
  flights : List Flight := []
  nodes : List (Nat × Node) := []
  /-- First fc in which the issue stream is free (R120). -/
  issueFree : Nat := 0
  /-- A selection held for a free result fc (R36). -/
  held : Option Nat := none
  /-- Last position fired of handler, checkout and body classes (R41). -/
  rrHandler : Nat := 255
  rrCheckout : Nat := 255
  rrBody : Nat := 255
  rrInject : Nat := 31
  rrMatrix : Nat := 255
  injected : Nat := 0
  issued : Bool := false
  /-- Ports that accepted a token in this fc (R36). -/
  accepted : List (Nat × Port) := []
  stallCnt : List (BitVec 16) := List.replicate 15 0
  sc : List Scale := List.replicate 16 Scale.identity
  seed : List (BitVec 64) := List.replicate 4 0
  /-- Values that csr writes replaced, with the fc at whose end they did (R59). -/
  hist : List (Nat × Word × Nat) := []
  fflags : Flags := 0
  brkCnt : BitVec 16 := 0
  tlm : BitVec 64 := 0
  shadow : Word := 0
  acc : List Accum := List.replicate 8 {}
  mtxFree : Nat := 0
  mpairs : List MPair := []
  mzeros : List MZero := []
  port : List Acc := []
  flying : List Acc := []
  slots : List WaitSlot := []
  rets : List RetTok := []
  /-- csr writes of W1C bits of this fc must not clear flags set in it (R56). -/
  flagsNow : Flags := 0
  deriving DecidableEq, Repr

/-! ### M-tile and billet tables -/

/-- Roles of an M-tile (R283). -/
inductive MRole | addr | fifo | cache | spacc
  deriving DecidableEq, Repr

/-- An M-tile as its page uses it (R283 to R288): role, MT_CAP, FIFO tokens, SPACC entries that are occupied. -/
structure MTile where
  role : MRole := .addr
  ord : Bool := false
  tile : Nat := 0
  ch : Nat := 0
  fifo : List Token := []
  spacc : List (Nat × Word) := []
  deriving DecidableEq, Repr

/-- KIND of a route (R262). -/
inductive RouteKind | none | loc | edge | steer | handler
  deriving DecidableEq, Repr

/-- A route entry (R262): PHYS holds the destination billet, RTT the round-trip time. -/
structure Route where
  kind : RouteKind := .none
  tile : Nat := 0
  ch : Nat := 0
  edge : Nat := 0
  set : Nat := 0
  entry : Nat := 0
  remote : Bool := false
  phys : Nat := 0
  rtt : Nat := 0
  /-- The debugger's override (R405): billet, C-tile, input channel. -/
  detour : Option (Nat × Nat × Nat) := none
  deriving DecidableEq, Repr

/-- A ring descriptor (R224) and its run-time state (R225). -/
structure Ring where
  fmt : Nat
  mtile : Nat
  reuse : Nat
  slots : Nat
  base : Nat
  head : Nat := 0
  tail : Nat := 0
  full : List Nat := []
  reads : Nat := 0
  /-- The filler that holds CLAIM: a tile and slot position, or a copy's context (tile 8 + context). -/
  claim : Option (Nat × Nat) := none
  part : Nat := 0
  deriving DecidableEq, Repr

/-- STATE of a handler entry (R271). -/
inductive HandlerState | empty | armed | rewriting
  deriving DecidableEq, Repr

/-- A handler entry (R271) with its pending token; PEND is whether one is there. -/
structure Handler where
  st : HandlerState := .empty
  en : Bool := false
  pri : Nat := 0
  tile : Nat := 0
  block : Nat := 0
  argch : Nat := 0
  pend : Option Token := none
  /-- The pending slot was taken in this fc: the entry fires in the next one at the earliest (R273, R382). -/
  fresh : Bool := false
  deriving DecidableEq, Repr

/-- A CTRL token that has reached a billet's handler table but no slot or FIFO place yet (R272): its entry, and the tile and output
channel of the HANDLER route that carried it. -/
structure Arrival where
  entry : Nat
  tok : Token
  src : Option (TileAddr × Nat) := none
  deriving DecidableEq, Repr

/-- A HELD entry of the colour table (R168). -/
structure Colour where
  n : Nat
  caller : Tag
  tile : Nat
  tgt : Target
  pos : Nat
  cls : Nat
  /-- Freed in this fc, FREE from the next (R169). -/
  freed : Bool := false
  deriving DecidableEq, Repr

/-- A stage declaration (R275). -/
structure Stage where
  n : Nat
  home : Nat
  mask : List Nat
  deriving DecidableEq, Repr

/-- A float declaration (R276) with its assignment (R278). -/
structure Float where
  tile : Nat
  stages : List Nat
  stage : Option Nat := none
  draining : Option Nat := none
  deriving DecidableEq, Repr

/-- A breakpoint comparator BL_BPn (R423). -/
structure Break where
  idx : Nat
  en : Bool
  once : Bool
  tile : Nat
  ch : Nat
  tagVal : BitVec 40
  tagMask : BitVec 40
  pVal : Word
  pMask : Word
  hits : BitVec 16
  /-- The session that set it: it ends with that session's unlock. -/
  owner : Nat := 0
  deriving DecidableEq, Repr

/-- No context's number: contexts have 0 to 127. -/
def noCid : Nat := 128

/-- A byte a cache holds (R287): its physical address, value and dirty mark. -/
structure CByte where
  addr : Nat
  val : Byte
  dirty : Bool
  /-- Where the byte is dirty in an L1 or an RDC: the context that wrote it (R363, R369); noCid where none did. -/
  cid : Nat
  deriving DecidableEq, Repr

/-- The bytes a cache holds. -/
abbrev Cache := List CByte

/-- A line that a side's L2 holds (R281, R363): its line address, the slice by its billet position, the set and the way. -/
structure L2Line where
  line : Nat
  slice : Nat
  set : Nat
  way : Nat
  deriving DecidableEq, Repr

/-- Which page of which launch a billet holds. -/
structure Resident where
  cid : Nat
  launch : RecId
  page : Nat
  deriving DecidableEq, Repr

/-- Where a flit goes: an input channel or a handler entry of a billet, or the waystation or edge caravan of its edge. -/
inductive FlitDest
  | chan (b tile ch : Nat)
  | handler (b entry : Nat)
  | store
  deriving DecidableEq, Repr

/-- A cache of translations (R368): the µTLB of an M-tile, the TLB of a billet, the TLB of a layer. -/
inductive TlbPlace
  | micro (b m : Nat)
  | billet (b : Nat)
  | layer (side l : Nat)
  deriving DecidableEq, Repr

/-- A cached leaf (R367, R368): where it is held, its CID, the virtual and physical address of the block it maps, log2 of the block's
size, its permissions, and whether D is known to be set. -/
structure TlbEntry where
  place : TlbPlace
  cid : Nat
  va : Nat
  pa : Nat
  lo : Nat
  w : Bool
  cfg : Bool
  uncached : Bool
  d : Bool
  deriving DecidableEq, Repr

/-- A flit in the fabric (R350, R352, R357): its sender, its destination, the edge it belongs to with SEQ and the GEN cached at the
sender, CID and launch, token, the fc it arrives in, and whether a guard has passed it. -/
structure Flit where
  src : TileAddr
  ch : Nat
  dest : FlitDest
  edge : Option Nat := none
  gen : BitVec 8 := 0
  seq : BitVec 16 := 0
  cid : Nat
  launch : RecId
  tok : Token
  entry : Option Nat := none
  due : Nat
  checked : Bool := false
  deriving DecidableEq, Repr

/-- Steps of a page load (R270): streaming, waiting for the tiles' CRC, at the steward, loaded with closed gates, running. -/
inductive LoadPhase | stream | crc | steward | closed | running
  deriving DecidableEq, Repr

/-- A page load in progress (R270). -/
structure Load where
  phase : LoadPhase
  image : List Byte
  first : Bool
  acked : List Nat := []
  restreamed : List Nat := []
  /-- The fc of its side in which the configuration bus has streamed what the load has last put on it (R270 step 2). -/
  busEnd : Nat := 0
  deriving DecidableEq, Repr

/-- Steps of an eviction (R345, R393): asked for, draining, on the way to the boundary, past its budget and being scanned, or at
step 6 behind a generation flush (R352). -/
inductive EvictPhase | wanted | drain | boundary | scan | flush
  deriving DecidableEq, Repr

/-- An eviction in progress (R345). -/
structure Evict where
  phase : EvictPhase := .wanted
  startNs : Nat := 0
  startFc : Nat := 0
  /-- fc in a row in which no node of a handler or drain block could fire. -/
  quiet : Nat := 0
  next : Option Resident := none
  /-- Billet a relocation takes the page to (R353). -/
  relocate : Option Nat := none
  /-- The flits that existed when its generation flush began (R352). -/
  marks : List Flit := []
  deriving DecidableEq, Repr

/-- Why a billet is frozen (R392); keeper: nothing else holds it, but the Innkeeper of its side is down (R419). -/
inductive Freeze | trap | ue | debug | budget | deadline | clock | role | power | iso | lost | keeper
  deriving DecidableEq, Repr

/-- A billet (R251), with what its resident page configures. -/
structure Billet where
  page : Option Resident := none
  load : Option Load := none
  evict : Option Evict := none
  frozen : List Freeze := []
  /-- The freeze set in at the end of this fc, which has passed for the billet. -/
  lateFreeze : Bool := false
  gen : BitVec 8 := 0
  guardDrop : Word := 0
  dropSwap : Bool := false
  bodyGated : Bool := false
  drainOn : Bool := false
  handlerGated : Bool := false
  initOn : Bool := false
  tiles : List Tile := List.replicate 8 {}
  mtiles : List MTile := List.replicate 8 {}
  routes : List Route := []
  steer : List (List Nat) := []
  rings : List (Nat × Ring) := []
  windows : List (Nat × Nat × Nat) := []
  handlers : List Handler := List.replicate 32 {}
  arrivals : List Arrival := []
  ctrl : List (Nat × Token) := []
  /-- Handler arguments on their way to their channels (R273): tile, channel, token. -/
  args : List (Nat × Nat × Token) := []
  handlerFired : Bool := false
  stages : List Stage := []
  floats : List Float := []
  balanced : Nat := 0
  floors : List Nat := [0, 0, 0, 0]
  colours : List Colour := []
  tlu : List (BitVec 64) := List.replicate 8 0
  ctxs : List CopyCtx := List.replicate 4 {}
  rrCopy : Nat := 3
  watches : List Watch := []
  releases : List Release := []
  nextId : Nat := 0
  l1 : Cache := []
  /-- Lines of the L1, the one used last first (R287). -/
  l1used : List Nat := []
  breaks : List Break := []
  c1 : Bool := false
  idle : Nat := 0
  lastUse : Nat := 0
  steward : Bool := false
  deriving DecidableEq, Repr, Inhabited

/-! ### Queues, contexts and launches -/

/-- A pending decrement (R324, R332): slot, count, and the failure mark it keeps. -/
structure Pend where
  slot : Nat
  count : Nat
  failed : Bool
  deriving DecidableEq, Repr

/-- What a queue's save area holds (R326): HEAD, TAIL, the read pointer, the pending decrements. -/
structure QArea where
  head : Word := 0
  tail : Word := 0
  read : Word := 0
  pend : List Pend := []
  deriving DecidableEq, Repr

/-- STATUS of a record (R334). -/
inductive Status
  | ok | badType | badRec | pageLimit | quota | predFail | fault | sideLost | permission | invalidEncoding | guard
  deriving DecidableEq, Repr

/-- A record that has been read (R327, R330): its slot and submission count, words, count, failure mark, whether it started, and
the status with flags and detail once it may complete. -/
structure Rec where
  slot : Nat
  sub : Nat
  words : List Word
  count : Nat
  failed : Bool
  started : Bool := false
  outcome : Option (Status × BitVec 5 × Nat) := none
  /-- The record's successor fields failed the checks of R328. -/
  badSucc : Bool := false
  done : Bool := false
  progress : Nat := 0
  /-- The virtual address its access is held on for the driver. -/
  held : Option Nat := none
  /-- A wake token waits for a held COPY, SIGNAL or WAITMEM (R329). -/
  wake : Bool := false
  /-- Its decrements have been sent (R332 step 1). -/
  sent : Bool := false
  deriving DecidableEq, Repr

/-- A virtual queue (R321, R322, R324). -/
structure VQueue where
  ringVa : Nat
  log2 : Nat
  cls : Nat
  side : Nat
  cid : Nat
  cplVa : Nat
  saveVa : Nat
  vec : Nat
  head : Word := 0
  tail : Word := 0
  ctl : BitVec 64 := 0
  read : Word := 0
  lastAct : Nat := 0
  knock : Bool := false
  /-- Time of the last notify (R390). -/
  notifyNs : Nat := 0
  pend : List Pend := []
  /-- What the last saving wrote to SAVEVA (R326). -/
  saved : Option QArea := none
  waitDec : List (Nat × Bool) := []
  recs : List Rec := []
  deriving DecidableEq, Repr

/-- State of a residency entry (R324). -/
inductive ResState | free | resident | saving | loading
  deriving DecidableEq, Repr

/-- A fault queue (R412). -/
structure FaultQueue where
  va : Nat
  log2 : Nat
  vec : Nat
  tail : Word := 0
  deriving DecidableEq, Repr

/-- A context entry DV_CTXn (R341) and what the device keeps beside it. -/
structure Context where
  valid : Bool := false
  func : BitVec 10 := 0
  qbillet : BitVec 7 := 0
  qreserve : BitVec 7 := 0
  strict : Bool := false
  vc : BitVec 3 := 0
  weight : BitVec 8 := 1
  l2ways : BitVec 16 := 0
  root : BitVec 26 := 0
  qstore : Word := 0
  storeVa : BitVec 48 := 0
  storeUsed : Nat := 0
  fq : Option FaultQueue := none
  lost : Word := 0
  /-- Granules with an XLATE record that waits for the driver (R416). -/
  xlate : List Nat := []
  teardown : Bool := false
  zeroing : Bool := false
  /-- Fixed slots of a STRICT virtual channel in a frame (R361). -/
  slots : List Nat := []
  deriving DecidableEq, Repr

/-- STATE of MBSTAT (R440). -/
inductive MbState | idle | running | done
  deriving DecidableEq, Repr

/-- RESULT of MBSTAT (R440). -/
inductive MbResult | ok | refused | badop | busy
  deriving DecidableEq, Repr

/-- What a RUNNING command waits for (R442): the zeroing of a context, an invalidation, a relocated page, a side's role change,
entry to C3, the wake latency, the writing of the flash slot. -/
inductive MbWait
  | zero (cid : Nat)
  | inval (cid : Nat) (range : Option (Nat × Nat))
  | page (r : RecId) (page : Nat)
  | role (side : Nat)
  | power
  | wake
  | flash
  deriving DecidableEq, Repr

/-- A PCIe function (R437 to R440): its queue range and mailbox. -/
structure Func where
  qbase : Nat := 0
  qcount : Nat := 0
  cmdTag : BitVec 16 := 0
  cmdOp : BitVec 16 := 0
  tag : BitVec 16 := 0
  result : MbResult := .ok
  state : MbState := .idle
  args : List (Nat × Word) := []
  resetting : Bool := false
  waits : Option MbWait := none
  /-- Words of the MSI-X table that software has written, by index, and the vectors that pend behind their mask (R438). -/
  vectors : List (Nat × Word) := []
  pending : List Nat := []
  /-- Dies that have acknowledged the invalidation the command waits for, and the physical blocks whose translations it has removed:
  address and size (R369). -/
  acks : Nat := 0
  removed : List (Nat × Nat) := []
  deriving DecidableEq, Repr

/-- A page entry of a graph descriptor (R335). -/
structure GPage where
  image : Nat
  size : Nat
  side : Nat
  pin : Bool
  entry : Bool
  bases : List Nat
  deriving DecidableEq, Repr

/-- STATE of an edge (R349). -/
inductive EdgeState | direct | waystation | caravan
  deriving DecidableEq, Repr

/-- A token of an edge; a CTRL token of a REMOTE HANDLER route keeps its entry (R352). -/
structure EdgeTok where
  tok : Token
  entry : Option Nat := none
  /-- Its slot lies beyond the L2 pool, in the page store (R351). -/
  spill : Bool := false
  deriving DecidableEq, Repr

/-- An edge of a graph descriptor (R335) with its edge-table entry (R349), its waystation or edge caravan (R351, R354) and the
tokens that wait for an earlier SEQ. -/
structure Edge where
  id : Nat
  prod : Nat
  cons : Nat
  ctile : Nat
  cch : Nat
  ptile : Nat
  pch : Nat
  thresh : Nat
  st : EdgeState := .waystation
  dest : Nat := 0
  gen : BitVec 8 := 0
  seq : BitVec 16 := 0
  /-- SEQ after the last token that stands in order in the waystation or caravan, and SEQ it sends to the consumer next. -/
  nextIn : BitVec 16 := 0
  out : BitVec 16 := 0
  /-- Side on which the edge caravan is homed (R354). -/
  home : Nat := 0
  toks : List EdgeTok := []
  early : List (BitVec 16 × EdgeTok) := []
  /-- The reservation of an edge caravan stands (R354); one that has failed is asked for again at the consumer's next load. -/
  reserved : Bool := false
  tried : Bool := false
  /-- The off signal last sent to the producer's channel (R267). -/
  off : Bool := true
  /-- The view of the consumer channel that the drain and the Front Desk inject under, and the next fc they may send. -/
  view : Bool := true
  nextFc : Nat := 0
  deriving DecidableEq, Repr

/-- Slots of an edge beyond the L2 pool, in the page store (R351). -/
def Edge.spilled (e : Edge) : Nat := ((e.toks ++ e.early.map Prod.snd).filter EdgeTok.spill).length

/-- A filled slot of a caravan: its 128 bytes (R215), and the qput node whose credit it holds (R216): page, tile, position. -/
structure CarTok where
  page : Nat
  tile : Nat
  pos : Nat
  slot : List Byte
  deriving DecidableEq, Repr

/-- A declared caravan (R214 to R216). -/
structure Caravan where
  edge : Nat
  slots : Nat
  /-- The side whose GDDR 7 holds its slots: that of its consumer page's directive, for the launch (R214). -/
  home : Nat := 0
  toks : List CarTok := []
  deriving DecidableEq, Repr

/-- A graph descriptor as read (R335). -/
structure Graph where
  npage : Nat := 0
  checkout : Nat := 0
  cost : Nat := 0
  pages : List GPage := []
  deriving DecidableEq, Repr

/-- States of a launch (R380). -/
inductive LaunchState | loading | running | stopped | checkout | ended
  deriving DecidableEq, Repr

/-- A context record (R347), or a scan image (R393): the whole billet at the boundary, with the header's fields. -/
structure SavedPage where
  version : Nat
  page : Nat
  gen : BitVec 8
  cid : Nat
  dropped : Bool
  npend : Nat
  billet : Billet
  scr : List Host.Cell
  /-- Flits of its routers that stay with the page (R393), and the fc of its side when it was saved. -/
  flits : List Flit := []
  /-- Operations of its accesses at sparse-update units, held with it by a scan (R393). -/
  sparse : List SparseOp := []
  fc : Nat := 0
  size : Nat
  /-- CRC-32 of bytes 64 onward: a free value, since the spec lays those bytes out in no format (log entry 73). -/
  crc : Word := 0
  good : Bool := true
  deriving DecidableEq, Repr

/-- What a launch knows of one page (R343, R344). -/
structure PageState where
  place : Option Nat := none
  faulting : Bool := false
  faultNs : Nat := 0
  loadedOnce : Bool := false
  record : Option SavedPage := none
  reserved : Nat := 0
  /-- Held by a PAGEIN record for the next launch (R329). -/
  pagein : Option RecId := none
  evictFirst : Bool := false
  deriving DecidableEq, Repr

/-- An argument record (R336). -/
structure ArgRec where
  page : Nat
  tile : Nat
  ch : Nat
  tok : Token
  deriving DecidableEq, Repr

/-- What a debug stop reports: a comparator of a billet (R423), or a brk node's identifier (R241). -/
inductive StopReport
  | comparator (b idx : Nat)
  | brk (id : Nat)
  deriving DecidableEq, Repr

/-- A launch (R338, R378 to R385). -/
structure Launch where
  id : RecId
  cid : Nat
  side : Nat
  gdesc : Nat
  st : LaunchState
  /-- The launch was LOADING when it stopped (R380). -/
  stopLoading : Bool := false
  deadline : Nat
  budget : Nat
  resultVa : Nat
  cls : Nat
  graph : Graph
  edges : List Edge
  caravans : List Caravan
  args : List ArgRec := []
  argView : List (Nat × Nat × Nat × Bool) := []
  /-- Next fc in which the Front Desk may inject into an argument channel: page, tile, channel. -/
  argNext : List ((Nat × Nat × Nat) × Nat) := []
  pages : List PageState
  /-- Flags and word a chk fixed, with its time (R244). -/
  chk : Option (BitVec 3 × Word × Nat) := none
  late : Bool := false
  faulted : Bool := false
  /-- Argument of entry 0 that a trap or UE calls for (R381). -/
  cause : Word := 0
  /-- The argument of entry 0 while an eviction or a load holds checkout's step 3 back (R382, R388). -/
  raiseWait : Option Word := none
  /-- CTRL tokens for hardware entries of the checkout page that wait until it stands in a billet (R414). -/
  raises : List (Nat × Word) := []
  /-- The fc of its Front Desk's side in which the launch entered CHECKOUT: D does not act at the end of that fc (R379). -/
  entered : Option Nat := none
  guarded : Bool := false
  sideLost : Bool := false
  runNs : Nat := 0
  notifyNs : Nat := 0
  /-- After C3 or D3hot: the launch goes on once its evicted pinned pages are back (R449). -/
  waking : Bool := false
  /-- A launch made by PAGEIN holds pages for the next LAUNCH of its descriptor. -/
  pagein : Bool := false
  /-- The last debug stop's report. -/
  report : Option StopReport := none
  deriving DecidableEq, Repr

/-! ### Links, flits, debug and time -/

/-- An off signal on its way to a sender (R267): an output channel's view of a destination, an edge's drain, or an argument
channel of the Front Desk. -/
inductive SignalTo
  | out (t : TileAddr) (ch dest : Nat)
  | drain (launch : RecId) (edge : Nat)
  | arg (launch : RecId) (page tile ch : Nat)
  deriving DecidableEq, Repr

/-- A change of an off signal on its way to a sender (R267). -/
structure Signal where
  hearer : SignalTo
  val : Bool
  due : Nat
  deriving DecidableEq, Repr

/-- Requests of a link (R435). -/
inductive LinkReq
  | retrain
  | repair (md : Nat)
  | width (module : Nat)
  | freq (rate : Nat)
  deriving DecidableEq, Repr

/-- A link (R418, R435). -/
structure Link where
  crcFails : Nat := 0
  reqs : List LinkReq := []
  /-- Requests that found the FIFO full and wait at their source. -/
  waiting : List LinkReq := []
  running : Option LinkReq := none
  /-- Lanes of each UCIe module (0 when disabled) and spares left. -/
  widths : List Nat := [64, 64, 64, 64]
  spares : List Nat := [4, 4, 4, 4]
  /-- Groups of 32 bonds or wires whose spare is in use. -/
  bonds : List Nat := []
  rate : Nat := 0
  lost : Bool := false
  deriving DecidableEq, Repr

/-- A debug session (R421). -/
structure Session where
  id : Nat
  fn : Nat
  permits : List Nat := []
  unlocks : List Nat := []
  deriving DecidableEq, Repr

/-- Signature algorithms of the SPDM responders (R447). -/
inductive SpdmSig | mldsa44 | ecdsaP384
  deriving DecidableEq, Repr

/-- Hash algorithms of the SPDM responders: one, for the base and for measurements (R447). -/
inductive SpdmHash | sha3x256
  deriving DecidableEq, Repr

/-- What an SPDM responder and its requester have agreed on (R447). -/
structure SpdmAlgo where
  sig : SpdmSig
  baseHash : SpdmHash := .sha3x256
  measurementHash : SpdmHash := .sha3x256
  deriving DecidableEq, Repr

/-- Answer to the last debug command of a session (R422, R424). -/
inductive DebugAnswer | ok | refused | notReady | bytes (bs : List Byte) | bits (bs : List Bool) | fcs (issue done : Nat)
  deriving DecidableEq, Repr

/-- A device-level record of the fault log (R420): 16 words. -/
abbrev LogRec := List Word

/-- Device power states (R448). -/
inductive Power | c0 | c2 | c3 | d3hot | d3cold | shutdown
  deriving DecidableEq, Repr

/-- Boot progress (R446). -/
inductive Boot | notBooted | recovery | running
  deriving DecidableEq, Repr

/-- Roles of a layer (R4, R426). -/
inductive Role | off | compute | memory
  deriving DecidableEq, Repr

/-- A side (R2). -/
structure Side where
  /-- fc elapsed. -/
  fc : Nat := 0
  /-- How far the side's fc has run ahead of the other side's, in the model's unit of time (log entry 1). -/
  lead : Nat := 0
  clk : Nat := 0
  roles : List Role := [.compute, .memory, .compute, .memory]
  iso : Bool := false
  retired : List Nat := []
  sitemap : List (Nat × Nat × Nat) := []
  resid : List (Option Nat × ResState) := List.replicate 32 (none, .free)
  knocks : List Nat := []
  rdc : Cache := []
  /-- Dirty bytes of the L2 and the lines it holds; a byte of such a line that is not listed is as GDDR 7 has it. -/
  l2 : Cache := []
  l2lines : List L2Line := []
  waysOff : BitVec 16 := 0
  /-- L2 ways whose errors exceed their bank's spares (R434). -/
  waysWanted : List Nat := []
  /-- Corrected errors (R417): structure code, place, DTB time. -/
  ceHist : List (Nat × Nat × Nat) := []
  sramRows : List (Nat × Nat) := []
  sramCols : List (Nat × Nat) := []
  /-- Clock value a step is going to, and the time since which every layer has been cool (R428). -/
  stepTo : Option Nat := none
  stepNs : Nat := 0
  /-- The pattern a role change goes to and the layers it affects (R430), and whether the clock step under way is its step 3. -/
  roleTo : Option (List Role) := none
  roleHit : List Nat := []
  roleClock : Bool := false
  /-- Steps of the clock that come from layers a lost link has cut off, which its role change takes back (R434). -/
  roleSlow : Nat := 0
  /-- The command that asked for it; for one that runs without PF0, one that no function has given. -/
  roleReq : Option MbReq := none
  /-- Sites that wait for sparing (R434): layer, X, Y. -/
  spareWanted : List (Nat × Nat × Nat) := []
  /-- Sites scheduled for proactive sparing, which waits for their billet (R434). -/
  spareLater : List (Nat × Nat × Nat) := []
  innkeeperDown : Bool := false
  /-- The Front Desk is configured from ROM (R5, R446 step 2). -/
  deskSet : Bool := false
  /-- A device that stops serving (R432). -/
  dead : Bool := false
  deriving DecidableEq, Repr

/-- The DTB and its discipline (R373 to R376). -/
structure Dtb where
  ns : BitVec 64 := 0
  sub : BitVec 16 := 0
  /-- Remainder of the model's division of an fc into 2^-16 ns (log entry 6). -/
  phase : Nat := 0
  latHi : Word := 0
  latSub : BitVec 16 := 0
  stepped : Bool := false
  holdover : Bool := false
  slewing : Bool := false
  locked : Bool := false
  src : BitVec 2 := 0
  toffset : Word := 0
  /-- Offset still to slew in 2^-16 ns, at the slow limit or not, the rate's deviation in parts of 10^4 and what dividing it leaves;
  measurements in a row within accuracy. -/
  slew : Int := 0
  slow : Bool := false
  rate : Int := 0
  slewPhase : Int := 0
  good : Nat := 0
  /-- TAI seconds of the last edge, the DTB at it, and whether its time-of-day line is still to come (R444). -/
  lastEdge : Option Nat := none
  lastEdgeNs : Nat := 0
  edgePending : Bool := false
  /-- What the rate has added or taken since that edge, in 2^-16 ns. -/
  since : Int := 0
  deriving DecidableEq, Repr

/-- A list whose elements the agenda passes one by one: signals, flits at the guards or at the ingress, what flies or waits in a tile
or a billet, operations at sparse-update units. -/
inductive Sweep
  | signals | guards | flits | sparse
  | offers (t : TileAddr)
  | flying (t : TileAddr)
  | waits (t : TileAddr)
  | mzeros (t : TileAddr)
  | releases (t : TileAddr)
  | watches (b : Nat)
  | arrivals (b : Nat)
  deriving DecidableEq, Repr

/-- The fields of a fault record that differ from "none". -/
structure FaultInfo where
  cls : Nat
  cid : Nat := 0
  baddr : Nat := 0x7F
  tile : Nat := 0x1F
  slot : Nat := 0x1FF
  page : Nat := 0x1FF
  tag : Option Tag := none
  detail : Nat := 0
  addr : Nat := 0
  rslot : Nat := 0xFFFF
  queue : Nat := 0
  deriving DecidableEq, Repr

/-- What takes effect at the end of the fc (R387, R415): a trap or UE in a billet, a chk with its flag and word, a halt, a brk or
breakpoint stop. -/
inductive DueEvent
  | trap (r : RecId) (b : Nat)
  | ue (r : RecId) (b : Nat)
  | chk (r : RecId) (flag : BitVec 3) (w : Word)
  | halt (r : RecId)
  | stop (r : RecId) (b : Nat) (report : StopReport)
  deriving DecidableEq, Repr

/-- An act of the agenda: an issue attempt at a station position, the start of pairs by a tile's matrix engine (R231), the selection of R41 in
a tile, an event row, a row whose time
the spec leaves open (it takes place now or not, by a free number), the rest of a sweep, or what takes effect at the end of the fc of
a side. -/
inductive Act
  | issue (n : NodeAddr)
  | engine (t : TileAddr)
  | select (t : TileAddr)
  | row (i : Instr)
  | maybe (i : Instr)
  | sweep (u : Sweep) (left : Option Nat)
  | settle (side : Nat)
  deriving DecidableEq, Repr

/-- The machine. agenda, sel and oracle are the model's own fields (log entries 1 to 3). -/
structure State where
  agenda : List Act := []
  sel : NodeAddr := ⟨1, 0, 0, 0⟩
  oracle : Nat := 0
  power : Power := .c0
  /-- Auxiliary power is present (R448): an input of the device. -/
  aux : Bool := true
  /-- An event of R450 has called for C0, and the DTB at which the wake latency ends. -/
  wakeAsked : Bool := false
  wakeAt : Option Nat := none
  /-- Entry to C3 is under way (R449). -/
  entering : Bool := false
  /-- The command that asked for it. -/
  enterReq : Option MbReq := none
  /-- Commands accepted and not yet applied, by request and OP, in the order of their GO writes (R441). -/
  goWaits : List (MbReq × Nat) := []
  boot : Boot := .notBooted
  keyHash : List Byte := List.replicate 32 0
  minSvn : Nat := 0
  flash : List Byte := []
  /-- The image that is being written over the slot, with its command; and that such a write was cut off, so that the slot holds no image that
  verifies (R446). -/
  writing : Option (List Byte × MbReq) := none
  torn : Bool := false
  staging : List (Nat × List Byte) := []
  repairOk : Bool := true
  /-- Digest and SVN of the image that was verified at boot (R446, R447). -/
  bootDigest : List Byte := []
  bootSvn : Nat := 0
  /-- The two identity keys, ML-DSA-44 and ECDSA P-384, once a boot has derived them (R447). -/
  identity : Option (List Byte × List Byte) := none
  dtb : Dtb := {}
  pwrCap : BitVec 9 := 450
  sides : List Side := [{}, {}]
  billets : List (Nat × Billet) := []
  mem : List Host.Cell := []
  scr : List Host.Cell := []
  contexts : List (Nat × Context) := []
  queues : List (Nat × VQueue) := []
  funcs : List (Nat × Func) := []
  launches : List Launch := []
  flits : List Flit := []
  late : List Flit := []
  signals : List Signal := []
  sparse : List SparseOp := []
  /-- Cached translations, the one filled last first (R368). -/
  tlb : List TlbEntry := []
  links : List (LinkId × Link) := []
  faultLog : List LogRec := []
  faultLogNext : Nat := 0
  withdrawn : List Nat := []
  badLines : List Nat := []
  msix : List (Nat × Nat) := []
  sessions : List Session := []
  answer : DebugAnswer := .ok
  /-- Fault records of the fc, to be written in the order of R413 at its end. -/
  records : List FaultInfo := []
  due : List DueEvent := []
  brkStore : List (Nat × Nat × Break) := []
  /-- Last answers of the SPDM responders of PF0 and PF1 (R447): versions, signature algorithm, measurements and signature. -/
  spdmVersions : List (Nat × List Nat) := []
  spdmAlgo : List (Nat × SpdmAlgo) := []
  measured : List (Nat × List (List Byte) × List Byte) := []
  deriving DecidableEq, Repr

/-- What a step answers. -/
abbrev Answer := Host.Outcome State Fault Refusal

/-- The machine right after reset: every field at its default, no page resident, nothing listed in memory. -/
def State.reset : State := {}

end Sys2Proof.Machine
end

