-- ==== Sys2Proof/Machine/Access.lean ====
section
/-! DEFINITION. Accessors: tables by key, and the one home of every read and write of a billet, a tile, a node, a side and the device's
tables. Choices and readings: log entries 3, 60, 70, 73, 75. -/

namespace Sys2Proof

/-- Slot position of a word in its tile (R76). -/
def posOf (blk slot : Nat) : Nat := blk * 64 + slot
def NodeAddr.tileAddr (n : NodeAddr) : TileAddr := ⟨n.b, n.t⟩
def NodeAddr.pos (n : NodeAddr) : Nat := posOf n.blk n.slot

/-- Scopes by inclusion (R194). -/
def Scope.rank : Scope → Nat
  | .tile => 0 | .billet => 1 | .side => 2 | .device => 3 | .system => 4

end Sys2Proof

namespace Sys2Proof.Machine

/-! ### Tables -/

/-- The value a table holds for a key. -/
def Tbl.get {α β : Type} [DecidableEq α] (k : α) : List (α × β) → Option β
  | [] => none
  | (k', v) :: t => if k' = k then some v else Tbl.get k t

/-- The table with the key bound to the value, in its place or at the end. -/
def Tbl.put {α β : Type} [DecidableEq α] (k : α) (v : β) : List (α × β) → List (α × β)
  | [] => [(k, v)]
  | (k', v') :: t => if k' = k then (k, v) :: t else (k', v') :: Tbl.put k v t

/-- The table without the key. -/
def Tbl.del {α β : Type} [DecidableEq α] (k : α) (t : List (α × β)) : List (α × β) := t.filter fun p => p.1 ≠ k

/-- Element i of a list, changed. -/
def modNth {α : Type} (f : α → α) : Nat → List α → List α
  | _, [] => []
  | 0, x :: xs => f x :: xs
  | i + 1, x :: xs => x :: modNth f i xs

def setNth {α : Type} (i : Nat) (v : α) (l : List α) : List α := modNth (fun _ => v) i l

/-- Element i of a list of equal-sized things, or the default beyond its end. -/
def nthD {α : Type} (d : α) (l : List α) (i : Nat) : α := (l[i]?).getD d

/-- Insertion into a list ordered by a key, after its equals. -/
def insertBy {α : Type} (key : α → Nat) (x : α) : List α → List α
  | [] => [x]
  | y :: ys => if key y ≤ key x then y :: insertBy key x ys else x :: y :: ys

def sortBy {α : Type} (key : α → Nat) (l : List α) : List α := l.foldl (fun acc x => insertBy key x acc) []

/-- The first element with a property, removed from its list. -/
def takeFirst {α : Type} (p : α → Bool) : List α → Option (α × List α)
  | [] => none
  | x :: xs => if p x then some (x, xs) else (takeFirst p xs).map fun (y, ys) => (y, x :: ys)

/-- Element k of a list, removed from it. -/
def takeNth {α : Type} : Nat → List α → Option (α × List α)
  | _, [] => none
  | 0, x :: xs => some (x, xs)
  | k + 1, x :: xs => (takeNth k xs).map fun (y, ys) => (y, x :: ys)

/-! ### Sides and billets -/

def State.side (s : State) (n : Nat) : Side := nthD {} s.sides n
def State.modSide (s : State) (n : Nat) (f : Side → Side) : State := { s with sides := modNth f n s.sides }

/-- The side of a device billet address (R3). -/
def sideOf (b : Nat) : Nat := b / 64 % 2
/-- The layer of a device billet address (R3). -/
def layerOf (b : Nat) : Nat := b / 16 % 4
/-- The Front Desk's billet of a side (R5). -/
def deskOf (side : Nat) : Nat := side * 64

/-- The fc of a billet's side. -/
def State.now (s : State) (b : Nat) : Nat := (s.side (sideOf b)).fc

def State.billet (s : State) (b : Nat) : Billet := (Tbl.get b s.billets).getD {}
def State.setBillet (s : State) (b : Nat) (x : Billet) : State := { s with billets := Tbl.put b x s.billets }
def State.modBillet (s : State) (b : Nat) (f : Billet → Billet) : State := s.setBillet b (f (s.billet b))

def Billet.tile (x : Billet) (t : Nat) : Tile := nthD {} x.tiles t
def Billet.modTile (x : Billet) (t : Nat) (f : Tile → Tile) : Billet := { x with tiles := modNth f t x.tiles }
def State.tile (s : State) (a : TileAddr) : Tile := (s.billet a.b).tile a.t
def State.modTile (s : State) (a : TileAddr) (f : Tile → Tile) : State := s.modBillet a.b fun x => x.modTile a.t f

/-- The tile and the position of the node the issue works on. -/
def State.selTile (s : State) : TileAddr := ⟨s.sel.b, s.sel.t⟩


def Tile.node (t : Tile) (pos : Nat) : Node := (Tbl.get pos t.nodes).getD {}
def Tile.modNode (t : Tile) (pos : Nat) (f : Node → Node) : Tile := { t with nodes := Tbl.put pos (f (t.node pos)) t.nodes }
def State.node (s : State) (n : NodeAddr) : Node := (s.tile n.tileAddr).node n.pos
def State.modNode (s : State) (n : NodeAddr) (f : Node → Node) : State := s.modTile n.tileAddr fun t => t.modNode n.pos f

def Tile.block (t : Tile) (k : Nat) : Option Block := t.blocks.find? fun x => x.n = k

/-- A layer's pairing (R4, R425): a compute layer with a memory layer directly above. -/
def Side.paired (sd : Side) (layer : Nat) : Bool :=
  nthD .off sd.roles layer == .compute && nthD .off sd.roles (layer + 1) == .memory

/-- MT_CAP.CAP of the M-tiles of a billet (R284). -/
def State.mtCap (s : State) (b : Nat) : Nat :=
  if (s.side (sideOf b)).paired (layerOf b) then 0x100000 else 0x80000

/-- MT_CAP as the register reads (R284). -/
def State.mtCapWord (s : State) (b : Nat) : Word :=
  BitVec.ofNat 32 ((if (s.side (sideOf b)).paired (layerOf b) then 2 ^ 21 else 0) + s.mtCap b)

/-- Compute layers of a side (R425). -/
def Side.computeLayers (sd : Side) : Nat := (sd.roles.filter (· == .compute)).length

/-- Fabric clock that a role pattern gives, coded as CLK (R425, R427). -/
def clkOfLayers (n : Nat) : Nat := if n ≤ 2 then 0 else if n = 3 then 1 else 2

/-- The tenant billets of a side now in service (R425, R432): billet addresses, the Front Desk and retired billets left out. -/
def State.tenantBillets (s : State) (side : Nat) : List Nat :=
  let sd := s.side side
  (List.range 64).filterMap fun n =>
    let b := side * 64 + n
    if n ≠ 0 ∧ nthD .off sd.roles (n / 16) = .compute ∧ ¬ sd.retired.contains b then some b else none

/-- 2^-16 ns units per fc times the divisor: 10/26, 10/21 or 10/16 ns (R4, R9). -/
def clkDiv (clk : Nat) : Nat := if clk = 0 then 26 else if clk = 1 then 21 else 16

/-! ### Device tables -/

def State.ctx (s : State) (c : Nat) : Context := (Tbl.get c s.contexts).getD {}
def State.modCtx (s : State) (c : Nat) (f : Context → Context) : State :=
  { s with contexts := Tbl.put c (f (s.ctx c)) s.contexts }
def State.queue? (s : State) (q : Nat) : Option VQueue := Tbl.get q s.queues
def State.setQueue (s : State) (q : Nat) (x : VQueue) : State := { s with queues := Tbl.put q x s.queues }
def State.modQueue (s : State) (q : Nat) (f : VQueue → VQueue) : State :=
  match s.queue? q with
  | some x => s.setQueue q (f x)
  | none => s
def State.func (s : State) (n : Nat) : Func := (Tbl.get n s.funcs).getD {}
def State.modFunc (s : State) (n : Nat) (f : Func → Func) : State := { s with funcs := Tbl.put n (f (s.func n)) s.funcs }
def State.link (s : State) (l : LinkId) : Link := (Tbl.get l s.links).getD {}
def State.modLink (s : State) (l : LinkId) (f : Link → Link) : State := { s with links := Tbl.put l (f (s.link l)) s.links }

def State.launch? (s : State) (r : RecId) : Option Launch := s.launches.find? fun l => l.id = r
def State.modLaunch (s : State) (r : RecId) (f : Launch → Launch) : State :=
  { s with launches := s.launches.map fun l => if l.id = r then f l else l }

/-- The billets that hold a page of a launch. -/
def State.billetsOf (s : State) (r : RecId) : List Nat :=
  s.billets.filterMap fun (b, x) => if x.page.any (fun p => p.launch = r) then some b else none

/-- Nanoseconds of the DTB (R373). -/
def State.ns (s : State) : Nat := s.dtb.ns.toNat

/-- A free number, and the state with the counter advanced (log entry 3). -/
def State.draw (s : State) : Nat × State := (Config.free s.oracle, { s with oracle := s.oracle + 1 })

/-- A word of a function's MSI-X table (R438): four for each vector, the last with the mask in bit 0, which is set until software clears
it (PCI Express, log entry 75). -/
def Func.vectorWord (f : Func) (i : Nat) : Word := (Tbl.get i f.vectors).getD (if i % 4 = 3 then 1 else 0)

/-- A vector's mask is set. -/
def Func.masked (f : Func) (vec : Nat) : Bool := (f.vectorWord (4 * vec + 3)).getLsbD 0

/-- Sends an MSI-X message (R332, R413): the device's output, or a bit of the pending-bit array where the vector is masked. -/
def State.sendMsix (s : State) (fn vec : Nat) : State :=
  if (s.func fn).masked vec then
    s.modFunc fn fun f => { f with pending := if f.pending.contains vec then f.pending else f.pending ++ [vec] }
  else { s with msix := s.msix ++ [(fn, vec)] }

/-! ### Tags and keys -/

/-- The matching key of a tag (R24). -/
def Tag.key (t : Tag) : Key := ⟨t.colour, t.path, t.pdep, t.iter⟩

/-- The context of a tag (R32): its key without ITER. -/
def Tag.ctx (t : Tag) : BitVec 10 × BitVec 7 × BitVec 3 := (t.colour, t.path, t.pdep)

/-- PATH with the bits at and above PDEP cleared (R15). -/
def maskPath (path : BitVec 7) (pdep : BitVec 3) : BitVec 7 := path &&& BitVec.ofNat 7 (2 ^ pdep.toNat - 1)

/-- The invariant of R15 that the fields of a tag must meet. -/
def Tag.legal (t : Tag) : Bool := maskPath t.path t.pdep == t.path

def Kind.code : Kind → Nat
  | .data => 0 | .fin => 1 | .ctrl => 2 | .rand => 3

/-- A tag's 40 bits (R14). -/
def Tag.toNat (t : Tag) : Nat :=
  2 ^ 36 * t.kind.code + 2 ^ 29 * t.path.toNat + 2 ^ 26 * t.pdep.toNat + 2 ^ 16 * t.colour.toNat + t.iter.toNat

/-- Reads 40 tag bits; none when bit 39 or a reserved KIND is set, or a PATH bit at or above PDEP (R15). -/
def Tag.ofNat (n : Nat) : Option Tag :=
  let kc := n / 2 ^ 36 % 16
  let k : Option Kind := if kc = 0 then some .data else if kc = 1 then some .fin else if kc = 2 then some .ctrl
    else if kc = 3 then some .rand else none
  k.bind fun k =>
    let t : Tag := ⟨k, BitVec.ofNat 7 (n / 2 ^ 29), BitVec.ofNat 3 (n / 2 ^ 26), BitVec.ofNat 10 (n / 2 ^ 16), BitVec.ofNat 16 n⟩
    if t.legal then some t else none

def Kind.isEnd (k : Kind) : Bool := k == .fin
def Token.isEnd (t : Token) : Bool := t.tag.kind == .fin

/-- The lanes of a payload: one for a word, 16 for a vector. -/
def Payload.lanes : Payload → List Word
  | .word w => [w]
  | .vec ls => ls

/-- Lane 0: the word, or the vector's first lane. -/
def Payload.lane0 : Payload → Word
  | .word w => w
  | .vec ls => nthD 0 ls 0

/-- A payload as the vector a port reads: a word is broadcast on arrival (R20). -/
def Payload.toVec : Payload → List Word
  | .word w => List.replicate 16 w
  | .vec ls => ls

def Payload.isVec : Payload → Bool
  | .word _ => false
  | .vec _ => true

/-- LEVEL of an END (R18). -/
def Token.level (t : Token) : Nat := t.pay.lane0.toNat % 8

end Sys2Proof.Machine
end

