-- ==== Sys2Proof/Machine/Memory.lean ====
section
/-! DEFINITION. Memory: the canonical lists of bytes, local stores, the caches, and the paths of R291 to R295 by which a global access
reaches its home. Byte order (R8) is decided here once. Choices and readings: log entries 10, 12, 14, 23, 36, 64, 69. -/

namespace Sys2Proof.Machine

/-! ### The canonical form -/

/-- The byte at an address; an address not listed reads as zero (local stores: R285; global memory: log entry 12). -/
def Memory.read : List Host.Cell → Nat → Byte
  | [], _ => 0
  | (a, v) :: m, x => if a = x then v else Memory.read m x

/-- Puts a byte at its place in the rising order; a zero removes the entry. -/
def Memory.write : List Host.Cell → Nat → Byte → List Host.Cell
  | [], x, v => if v = 0 then [] else [(x, v)]
  | (a, w) :: m, x, v =>
    if x < a then (if v = 0 then (a, w) :: m else (x, v) :: (a, w) :: m)
    else if x = a then (if v = 0 then m else (a, v) :: m)
    else (a, w) :: Memory.write m x v

/-- Addresses strictly rising above a bound, and no entry equal to what an unlisted address reads as. -/
def Memory.wfFrom : Nat → List Host.Cell → Bool
  | _, [] => true
  | lo, (a, v) :: m => decide (lo ≤ a) && decide (v ≠ 0) && Memory.wfFrom (a + 1) m

/-- The canonical form of a memory. -/
def Memory.wf (m : List Host.Cell) : Bool := Memory.wfFrom 0 m

def Memory.reads (m : List Host.Cell) (a n : Nat) : List Byte := (List.range n).map fun i => Memory.read m (a + i)

def Memory.writes (m : List Host.Cell) (a : Nat) : List Byte → List Host.Cell
  | [] => m
  | b :: bs => Memory.writes (Memory.write m a b) (a + 1) bs

/-- Clears a range of addresses. -/
def Memory.clear (m : List Host.Cell) (a n : Nat) : List Host.Cell := m.filter fun c => c.1 < a ∨ a + n ≤ c.1

/-! ### Byte order (R8) -/

def bytesOf (n x : Nat) : List Byte := (List.range n).map fun i => BitVec.ofNat 8 (x / 2 ^ (8 * i))

def natOf : List Byte → Nat
  | [] => 0
  | b :: bs => 256 * natOf bs + b.toNat

def wordOfBytes (bs : List Byte) : Word := BitVec.ofNat 32 (natOf bs)
def bytesOfWord (w : Word) : List Byte := bytesOf 4 w.toNat

/-- n words from bytes. -/
def wordsOfBytes : Nat → List Byte → List Word
  | 0, _ => []
  | n + 1, bs => wordOfBytes (bs.take 4) :: wordsOfBytes n (bs.drop 4)

def bytesOfWords (ws : List Word) : List Byte := ws.flatMap bytesOfWord

/-! ### Caches (R287) -/

def Cache.find (c : Cache) (a : Nat) : Option Byte := (List.find? (fun x : CByte => x.addr = a) c).map CByte.val
def Cache.put (c : Cache) (a : Nat) (v : Byte) (dirty : Bool) (cid : Nat := noCid) : Cache :=
  ⟨a, v, dirty, cid⟩ :: List.filter (fun x : CByte => x.addr ≠ a) c

/-- The line of an address (R282). -/
def lineOf (a : Nat) : Nat := a / Config.lineBytes

def Cache.lines (c : Cache) : List Nat :=
  List.foldl (fun acc (x : CByte) => if acc.contains (lineOf x.addr) then acc else lineOf x.addr :: acc) [] c
def Cache.ofLine (c : Cache) (l : Nat) : Cache := List.filter (fun x : CByte => lineOf x.addr = l) c
def Cache.dropLine (c : Cache) (l : Nat) : Cache := List.filter (fun x : CByte => lineOf x.addr ≠ l) c
def Cache.dirty (c : Cache) : Cache := List.filter (fun x : CByte => x.dirty) c
def Cache.dropClean (c : Cache) : Cache := List.filter (fun x : CByte => x.dirty) c
def Cache.cleaned (c : Cache) : Cache := List.map (fun x : CByte => { x with dirty := false, cid := noCid }) c

/-! ### Homes (R282) -/

/-- The side a device physical address is homed on; none for host memory. -/
def homeOf (pa : Nat) : Option Nat :=
  if pa < Config.side1Base then some 0 else if pa < Config.hostBase then some 1 else none

/-- An address homed on side 1 while that is ISOLATED: what is left of the device does not reach it (R436). -/
def State.cutOff (s : State) (pa : Nat) : Bool := (s.side 1).iso && homeOf pa == some 1

/-- A byte at its home: the home L2, or GDDR 7 behind it; host memory is its own home. -/
def State.homeRead (s : State) (pa : Nat) : Byte :=
  match homeOf pa with
  | none => Memory.read s.mem pa
  | some sd => ((s.side sd).l2.find pa).getD (Memory.read s.mem pa)

def State.homeReads (s : State) (pa n : Nat) : List Byte := (List.range n).map fun i => s.homeRead (pa + i)

/-! ### The L2 (R281, R282, R363, R434) -/

/-- The billet positions of a side whose routers serve L2 slices: 16 in each layer that is not off (R281). -/
def State.slicePlaces (s : State) (side : Nat) : List Nat :=
  ((List.range 64).filter fun n => nthD .off (s.side side).roles (n / 16) ≠ .off).map fun n => side * 64 + n

/-- The slice of a line, by its billet position (R282). -/
def State.sliceOf (s : State) (side line : Nat) : Nat :=
  let ps := s.slicePlaces side
  nthD 0 ps (Config.l2Slice line % ps.length)

/-- The ways in which a context's lines may be allocated: its L2WAYS, 0 meaning all, that are enabled; every enabled way where that
leaves none (R341, R363, R434). -/
def Side.waysFor (d : Side) (mask : BitVec 16) : List Nat :=
  let on := (List.range Config.l2Ways).filter fun w => !d.waysOff.getLsbD w
  let own := on.filter fun w => mask == 0 || mask.getLsbD w
  if own.isEmpty then on else own

/-- Lines of a set that are not the waystations': two of its ways, an eighth of the L2, are held for them (R281). -/
def Side.setRoom (d : Side) : Nat := ((List.range Config.l2Ways).filter fun w => !d.waysOff.getLsbD w).length - Config.poolWays

def Side.hasL2 (d : Side) (line : Nat) : Bool := d.l2lines.any fun x => x.line == line

/-- A line leaves an L2: its dirty bytes go to GDDR 7. -/
def State.dropL2 (s : State) (side line : Nat) : State :=
  let gone := (s.side side).l2.ofLine line
  let s := { s with mem := gone.foldl (fun m (x : CByte) => Memory.write m x.addr x.val) s.mem }
  s.modSide side fun d => { d with l2 := d.l2.dropLine line, l2lines := d.l2lines.filter fun x => x.line != line }

/-- The way that a miss takes in a set, for a free number: a free one of the mask where the set has room, else one of a line there, or, where
none of the mask's ways holds one, a free way in exchange for the line of another; and the line that goes. -/
def pickWay (ways : List Nat) (mates : List L2Line) (room r : Nat) : Option (Nat × Option L2Line) :=
  let free := ways.filter fun w => !mates.any fun x => x.way == w
  let own := mates.filter fun x => ways.contains x.way
  if decide (mates.length < room) && !free.isEmpty then some (nthD 0 free (r % free.length), none)
  else match own with
    | x :: xs => let v := nthD x (x :: xs) (r % (xs.length + 1)); some (v.way, some v)
    | [] => match free, mates with
      | w :: ws, x :: xs => some (nthD w (w :: ws) (r % (ws.length + 1)), some (nthD x (x :: xs) (r % (xs.length + 1))))
      | _, _ => none

/-- Allocates a line in the L2 of its home for a context, by its L2WAYS mask: a hit is served from any way; a miss takes a way of the mask in
the line's set, and a line that has to go for it goes back to GDDR 7. Which of them is open (log entry 64). -/
def State.takeL2 (s : State) (cid pa : Nat) : State :=
  match homeOf pa with
  | none => s
  | some sd =>
    let d := s.side sd
    let line := lineOf pa
    if d.hasL2 line then s
    else
      let slice := s.sliceOf sd line
      let set := Config.l2Set line % Config.l2Sets
      let mates := d.l2lines.filter fun x => x.slice == slice && x.set == set
      let (r, s) := s.draw
      match pickWay (d.waysFor (s.ctx cid).l2ways) mates d.setRoom r with
      | none => s
      | some (way, gone) =>
        let s := match gone with
          | some x => s.dropL2 sd x.line
          | none => s
        s.modSide sd fun d => { d with l2lines := ⟨line, slice, set, way⟩ :: d.l2lines }

/-- Writes a byte at its home: into the L2 where it holds the line, else into GDDR 7 or host memory. -/
def State.putByte (s : State) (pa : Nat) (v : Byte) : State :=
  match homeOf pa with
  | none => { s with mem := Memory.write s.mem pa v }
  | some sd =>
    if (s.side sd).hasL2 (lineOf pa) then s.modSide sd fun x => { x with l2 := x.l2.put pa v true }
    else { s with mem := Memory.write s.mem pa v }

/-- Marks the watch units whose word lies in the 64-byte granule of a place (R205). -/
def State.touch (s : State) (l : Loc) : State :=
  let same : Loc → Bool := fun w =>
    match l, w with
    | .scr a, .scr c => a / 64 == c / 64
    | .glb a _, .glb c _ => a / 64 == c / 64
    | _, _ => false
  { s with billets := s.billets.map fun (b, x) =>
      (b, if x.watches.any (fun w => same w.loc) then
        { x with watches := x.watches.map fun w => if same w.loc then { w with hit := true } else w } else x) }

/-- A write of one byte that performs at its home: the line is allocated, and the watch units of its granule look again. -/
def State.homeWrite (s : State) (cid pa : Nat) (v : Byte) : State :=
  ((s.takeL2 cid pa).putByte pa v).touch (.glb pa false)

def State.homeWrites (s : State) (cid pa : Nat) : List Byte → State
  | [] => s
  | b :: bs => (s.homeWrite cid pa b).homeWrites cid (pa + 1) bs

/-- The context whose page a billet holds. -/
def State.cidOf (s : State) (b : Nat) : Nat := ((s.billet b).page.map fun p => p.cid).getD noCid

/-! ### Paths (R291) -/

/-- The path of a global access: through the billet's L1, at side scope, or at device scope. -/
inductive Path | l1 | side | device
  deriving DecidableEq, Repr

def Billet.hasL1 (x : Billet) : Bool := x.mtiles.any fun m => m.role == .cache

/-- The path of R291; host memory is never cached (R282), an uncached leaf takes the device-scope path (R366). -/
def pathOf (hasL1 atom uncached : Bool) (scope : Scope) (pa : Nat) : Path :=
  if atom || uncached || decide (scope.rank ≥ 3) || (homeOf pa).isNone then .device
  else if scope.rank = 2 ∨ hasL1 = false then .side
  else .l1

/-- A byte from the level below the L1: the home, or the issuing side's RDC for a remote home. -/
def State.sideRead (s : State) (side pa : Nat) : Byte :=
  if homeOf pa = some side then s.homeRead pa else ((s.side side).rdc.find pa).getD (s.homeRead pa)

/-- Dirty bytes go to their homes, each by the mask of the context that wrote it; one whose home is cut off does not get there (R436). -/
def State.putHome (s : State) : Cache → State
  | [] => s
  | x :: xs => (if s.cutOff x.addr then s else s.homeWrite x.cid x.addr x.val).putHome xs

/-- Lines an RDC holds (R281): 4 MiB in each layer that is not off. -/
def Side.rdcLines (d : Side) : Nat := 32768 * (d.roles.filter (· != .off)).length

/-- Replaces a line of an RDC that is full (R294). -/
def State.replaceRdc (s : State) (side : Nat) : State :=
  let c := (s.side side).rdc
  let room := (s.side side).rdcLines
  if c.length ≤ room then s
  else if c.lines.length ≤ room then s
  else
    let (r, s) := s.draw
    let victim := nthD 0 c.lines (r % c.lines.length)
    let s := s.putHome (c.ofLine victim).dirty
    s.modSide side fun x => { x with rdc := x.rdc.dropLine victim }

/-- Writes a byte at the level below the L1: the home L2, or the issuing side's RDC for a remote home. -/
def State.sideWrite (s : State) (cid side pa : Nat) (v : Byte) : State :=
  if homeOf pa = some side then s.homeWrite cid pa v
  else (s.modSide side fun x => { x with rdc := x.rdc.put pa v true cid }).replaceRdc side

/-- Dirty bytes of an L1 go to the level below it. -/
def State.putBack (s : State) (side : Nat) : Cache → State
  | [] => s
  | x :: xs => (s.sideWrite x.cid side x.addr x.val).putBack side xs

/-- Whether a cache holds n bytes from an address. -/
def Cache.holds (c : Cache) (a n : Nat) : Bool := (List.range n).all fun i => (c.find (a + i)).isSome

/-- A line fetched into a cache: its bytes as the next level has them, under the bytes of it that are dirty (R287). -/
def Cache.merge (c : Cache) (line : Nat) (below : Nat → Byte) : Cache :=
  let base := line * Config.lineBytes
  (List.range Config.lineBytes).foldl (fun c i =>
    if (c.dirty.find (base + i)).isSome then c else c.put (base + i) (below (base + i)) false) c

/-- Brings a line of an address to the level below the L1: allocated in the home L2 of its own side, or fetched into the RDC where that
does not hold the n bytes wanted. -/
def State.fillSide (s : State) (cid side pa n : Nat) : State :=
  if homeOf pa = some side then s.takeL2 cid pa
  else if (s.side side).rdc.holds pa n then s
  else
    let s := s.takeL2 cid pa
    (s.modSide side fun x => { x with rdc := x.rdc.merge (lineOf pa) s.homeRead }).replaceRdc side

/-- A line of the L1 has been used. -/
def Billet.useL1 (x : Billet) (line : Nat) : Billet :=
  { x with l1used := line :: x.l1used.filter fun l => l ≠ line ∧ x.l1.lines.contains l = true }

/-- Replaces a line of the L1 whose set holds more than eight (R287): one of those that were there before the line, and not the one of
them used last; its dirty bytes are written back first. No replacement is possible while the whole L1 holds at most eight lines. -/
def State.replaceL1 (s : State) (b line : Nat) : State :=
  let c := (s.billet b).l1
  if c.lines.length ≤ 8 then s
  else
    let n := ((s.billet b).mtiles.filter fun m => m.role == .cache).length
    let sets := n * (s.mtCap b / 1024)
    let same := (s.billet b).l1used.filter fun l => l ≠ line ∧ c.lines.contains l = true ∧ Config.l1Set l % sets = Config.l1Set line % sets
    if same.length < 8 then s
    else
      let (r, s) := s.draw
      let victim := nthD line (same.drop 1) (r % (same.length - 1))
      let s := s.putBack (sideOf b) (c.ofLine victim).dirty
      s.modBillet b fun x => { x with l1 := x.l1.dropLine victim }

/-- Brings the line of an address into the billet's L1. -/
def State.fillL1 (s : State) (b pa : Nat) : State :=
  let line := lineOf pa
  let s := s.fillSide (s.cidOf b) (sideOf b) (line * Config.lineBytes) Config.lineBytes
  (s.modBillet b fun x => ({ x with l1 := x.l1.merge line (s.sideRead (sideOf b)) } : Billet).useL1 line).replaceL1 b line

/-- What an access that skips a level does to that level's copy of its line (R292). -/
def State.skipL1 (s : State) (b line : Nat) (toHome : Bool) : State :=
  let c := (s.billet b).l1.ofLine line
  if c.isEmpty then s
  else
    let s := if toHome then s.putHome c.dirty else s.putBack (sideOf b) c.dirty
    s.modBillet b fun x => { x with l1 := x.l1.dropLine line }

def State.skipRdc (s : State) (side line : Nat) : State :=
  let c := (s.side side).rdc.ofLine line
  if c.isEmpty then s
  else (s.putHome c.dirty).modSide side fun x => { x with rdc := x.rdc.dropLine line }

/-- Prepares a path for an access to a line: what R292 writes back and invalidates. The RDC goes first, so that the L1's newer
bytes end above it at the home. -/
def State.skips (s : State) (b : Nat) (p : Path) (line : Nat) : State :=
  match p with
  | .l1 => s
  | .side => s.skipL1 b line false
  | .device => (s.skipRdc (sideOf b) line).skipL1 b line true

/-- Reads n bytes at a physical address along a path; the address and n lie in one line. -/
def State.globalRead (s : State) (b : Nat) (p : Path) (pa n : Nat) : List Byte × State :=
  let s := s.skips b p (lineOf pa)
  match p with
  | .device =>
    let s := s.takeL2 (s.cidOf b) pa
    (s.homeReads pa n, s)
  | .side =>
    let s := s.fillSide (s.cidOf b) (sideOf b) pa n
    ((List.range n).map fun i => s.sideRead (sideOf b) (pa + i), s)
  | .l1 =>
    let s := if (s.billet b).l1.holds pa n then s.modBillet b fun x => x.useL1 (lineOf pa) else s.fillL1 b pa
    let c := (s.billet b).l1
    ((List.range n).map fun i => (c.find (pa + i)).getD 0, s)

/-- Writes bytes of one line into the L1 without fetching the line (R287). -/
def State.l1Writes (s : State) (b pa : Nat) (bs : List Byte) : State :=
  s.modBillet b fun x =>
    ({ x with l1 := (bs.zipIdx).foldl (fun c (v, i) => c.put (pa + i) v true (s.cidOf b)) x.l1 } : Billet).useL1 (lineOf pa)

def State.sideWrites (s : State) (cid side pa : Nat) : List Byte → State
  | [] => s
  | b :: bs => (s.sideWrite cid side pa b).sideWrites cid side (pa + 1) bs

/-- Writes bytes at a physical address along a path. -/
def State.globalWrite (s : State) (b : Nat) (p : Path) (pa : Nat) (bs : List Byte) : State :=
  let s := s.skips b p (lineOf pa)
  match p with
  | .device => s.homeWrites (s.cidOf b) pa bs
  | .side => s.sideWrites (s.cidOf b) (sideOf b) pa bs
  | .l1 => (s.l1Writes b pa bs).replaceL1 b (lineOf pa)

/-! ### Write-back and invalidation (R294, R295) -/

/-- A release at side scope or wider writes back the billet's dirty L1 lines. -/
def State.writeBackL1 (s : State) (b : Nat) : State :=
  (s.putBack (sideOf b) (s.billet b).l1.dirty).modBillet b fun x => { x with l1 := x.l1.cleaned }

/-- A release at device scope or wider drains the side's RDC. -/
def State.drainRdc (s : State) (side : Nat) : State :=
  (s.putHome (s.side side).rdc.dirty).modSide side fun x => { x with rdc := x.rdc.cleaned }

/-- What a release does at its scope before it performs (R196, R294). -/
def State.releaseCaches (s : State) (b : Nat) (sc : Scope) : State :=
  let s := if sc.rank ≥ 2 then s.writeBackL1 b else s
  if sc.rank ≥ 3 then s.drainRdc (sideOf b) else s

/-- An acquire at device scope or wider marks every clean byte of a side's RDC invalid. -/
def State.acquireSide (s : State) (side : Nat) : State := s.modSide side fun x => { x with rdc := x.rdc.dropClean }

/-- What an acquire does at its scope (R295). -/
def State.acquireCaches (s : State) (b : Nat) (sc : Scope) : State :=
  let s := if sc.rank ≥ 2 then s.modBillet b fun x => { x with l1 := x.l1.dropClean } else s
  if sc.rank ≥ 3 then s.acquireSide (sideOf b) else s

/-- The L2 goes back to GDDR 7; L2 and RDC become empty. -/
def State.flushL2 (s : State) (side : Nat) : State :=
  let s := { s with mem := ((s.side side).l2.dirty.foldl (fun m (x : CByte) => Memory.write m x.addr x.val) s.mem) }
  s.modSide side fun x => { x with l2 := [], l2lines := [], rdc := [] }

/-- The flush of a role change (R430 step 2): the RDC drains, the L2 goes back to GDDR 7, both become empty. -/
def State.flushSide (s : State) (side : Nat) : State := (s.drainRdc side).flushL2 side

/-! ### Places (R188, R285) -/

/-- The key of a local-store byte in State.scr. -/
def scrKey (b m off : Nat) : Nat := 2 ^ 23 * b + 2 ^ 20 * m + off

/-- Reads n bytes at a place. -/
def State.readLoc (s : State) (b : Nat) (sc : Scope) (atom : Bool) (l : Loc) (n : Nat) : List Byte × State :=
  match l with
  | .scr k => (Memory.reads s.scr k n, s)
  | .glb pa u => s.globalRead b (pathOf (s.billet b).hasL1 atom u sc pa) pa n

/-- Writes bytes at a place as one event; a write to a local store performs at its home there (R281). -/
def State.writeLoc (s : State) (b : Nat) (sc : Scope) (atom : Bool) (l : Loc) (bs : List Byte) : State :=
  match l with
  | .scr k => ({ s with scr := Memory.writes s.scr k bs }).touch l
  | .glb pa u => s.globalWrite b (pathOf (s.billet b).hasL1 atom u sc pa) pa bs

end Sys2Proof.Machine
end

