-- ==== Sys2Proof/Machine/Translate.lean ====
section
/-! DEFINITION. Translation (13 R365 to R368) and the device's own accesses to software's memory (R99, R452): walks read PTEs at system
scope at their home, set A and D there, and give the leaf or fail; a billet's accesses use cached leaves. Choices and readings: log
entries 10, 65. -/

namespace Sys2Proof.Machine

/-- A leaf as a walk finds it: the physical address of the byte asked for, its permissions, and where its PTE lies. -/
structure Leaf where
  pa : Nat
  w : Bool
  cfg : Bool
  uncached : Bool
  pte : Nat
  bits : Nat
  /-- log2 of the size the leaf maps. -/
  lo : Nat
  deriving DecidableEq, Repr

/-- The four levels: first VA bit indexed, number of bits, whether a leaf may stand there (R365). -/
def walkLevels : List (Nat × Nat × Bool) := [(39, 9, false), (30, 9, true), (21, 9, true), (16, 5, true)]

/-- Faults common to leaves and tables (R366): V = 0, a reserved bit, PA above 42 bits, a reserved MTYPE. -/
def pteBad (p : Nat) : Bool :=
  p % 2 == 0 || p / 2 ^ 8 % 2 ^ 8 != 0 || p / 2 ^ 52 != 0 || p / 2 ^ 42 % 2 ^ 10 != 0 || p / 2 ^ 4 % 4 ≥ 2

/-- Walks the remaining levels from a table; a PTE that is cut off gives nothing. -/
def State.walkFrom (s : State) (va : Nat) : Nat → List (Nat × Nat × Bool) → Option Leaf
  | _, [] => none
  | table, (lo, n, leafOk) :: rest =>
    let at_ := table + 8 * (va / 2 ^ lo % 2 ^ n)
    let p := natOf (s.homeReads at_ 8)
    if s.cutOff at_ || pteBad p then none
    else
      let pa := 2 ^ 16 * (p / 2 ^ 16 % 2 ^ 26)
      if p / 8 % 2 = 1 then
        if !leafOk || pa % 2 ^ lo ≠ 0 then none
        else some ⟨pa + va % 2 ^ lo, p / 2 % 2 == 1, p / 4 % 2 == 1, p / 16 % 4 == 1, at_, p, lo⟩
      else if p / 2 % 4 ≠ 0 ∨ p / 16 % 16 ≠ 0 then none
      else s.walkFrom va pa rest

/-- The walk of a virtual address in a context (R365). -/
def State.walk (s : State) (cid va : Nat) : Option Leaf :=
  s.walkFrom va (2 ^ 16 * (s.ctx cid).root.toNat) walkLevels

/-- The walk of an address comes to a PTE that is cut off (R436). -/
def State.walkMeets (s : State) (va : Nat) : Nat → List (Nat × Nat × Bool) → Bool
  | _, [] => false
  | table, (lo, n, _) :: rest =>
    let at_ := table + 8 * (va / 2 ^ lo % 2 ^ n)
    let p := natOf (s.homeReads at_ 8)
    s.cutOff at_ || (!pteBad p && p / 8 % 2 == 0 && s.walkMeets va (2 ^ 16 * (p / 2 ^ 16 % 2 ^ 26)) rest)

def State.walkCut (s : State) (cid va : Nat) : Bool := s.walkMeets va (2 ^ 16 * (s.ctx cid).root.toNat) walkLevels

/-- Sets A, and D on a write, in a leaf that lacks it (R367). -/
def State.markLeaf (s : State) (cid : Nat) (l : Leaf) (write : Bool) : State :=
  let b0 := BitVec.ofNat 8 l.bits
  let b1 := b0 ||| 0x40 ||| (if write then 0x80 else 0)
  if b1 = b0 then s else s.homeWrite cid l.pte b1

/-- Translates an access: a leaf with A and D as the access needs them, or none on a translation fault (R366, R367). D is set
only where the leaf is writable. -/
def State.translate (s : State) (cid va : Nat) (write : Bool) : Option (Leaf × State) :=
  (s.walk cid va).map fun l => (l, s.markLeaf cid l (write && l.w))

/-! ### Cached translations (R367, R368) -/

/-- Entries of a µTLB, of a billet's TLB and of a layer's (R368). -/
def tlbSize : TlbPlace → Nat
  | .micro .. => 32
  | .billet _ => 512
  | .layer .. => 8192

/-- The level at which a billet's accesses meet a cache: its M-tiles' µTLBs, its own TLB, its layer's. -/
def TlbPlace.level (b : Nat) : TlbPlace → Option Nat
  | .micro c _ => if c = b then some 0 else none
  | .billet c => if c = b then some 1 else none
  | .layer sd l => if sd = sideOf b ∧ l = layerOf b then some 2 else none

/-- The block of an entry holds an address of its context. -/
def TlbEntry.maps (e : TlbEntry) (cid va : Nat) : Bool := e.cid == cid && va / 2 ^ e.lo == e.va / 2 ^ e.lo

/-- The leaf that an entry gives for an address. -/
def TlbEntry.leaf (e : TlbEntry) (va : Nat) : Leaf :=
  { pa := e.pa + va % 2 ^ e.lo, w := e.w, cfg := e.cfg, uncached := e.uncached, pte := 0, bits := 0, lo := e.lo }

/-- The first entry that a billet's access meets, with its level. -/
def State.tlbFind (s : State) (b cid va : Nat) : Option (Nat × TlbEntry) :=
  let hit (k : Nat) := (s.tlb.find? fun e => e.place.level b == some k && e.maps cid va).map fun e => (k, e)
  (hit 0).orElse fun _ => (hit 1).orElse fun _ => hit 2

/-- Puts an entry into a cache; a full one loses an entry that a free number picks. -/
def State.tlbPut (s : State) (p : TlbPlace) (e : TlbEntry) : State :=
  let keep := s.tlb.filter fun x => !(x.place == p && x.maps e.cid e.va)
  let same := keep.filter fun x => x.place == p
  if same.length < tlbSize p then { s with tlb := { e with place := p } :: keep }
  else
    let (n, s) := s.draw
    { s with tlb := { e with place := p } :: keep.erase (nthD e same (n % same.length)) }

/-- Fills the caches below a level with what was found there; a free number picks the M-tile. -/
def State.tlbFill (s : State) (b level : Nat) (e : TlbEntry) : State :=
  if level = 0 then s
  else
    let (m, s) := s.draw
    let s := if level ≤ 2 then s else s.tlbPut (.layer (sideOf b) (layerOf b)) e
    let s := if level ≤ 1 then s else s.tlbPut (.billet b) e
    s.tlbPut (.micro b (m % 8)) e

/-- A walk for an access of a billet, whose leaf, with A = 1, is cached at every level. -/
def State.walkAt (s : State) (b cid va : Nat) (write : Bool) : Option (Leaf × State) :=
  (s.translate cid va write).map fun (l, s) => (l, s.tlbFill b 3
    { place := .billet b, cid := cid, va := va - va % 2 ^ l.lo, pa := l.pa - va % 2 ^ l.lo, lo := l.lo, w := l.w, cfg := l.cfg
      uncached := l.uncached, d := l.bits / 128 % 2 == 1 || (write && l.w) })

/-- Translates an access of a billet: by a cached leaf, or by a walk where none is cached or a write finds D = 0 (R367). -/
def State.translateAt (s : State) (b cid va : Nat) (write : Bool) : Option (Leaf × State) :=
  match s.tlbFind b cid va with
  | some (k, e) => if write && !e.d then s.walkAt b cid va write else some (e.leaf va, s.tlbFill b k e)
  | none => s.walkAt b cid va write

/-- Removes entries. -/
def State.tlbDrop (s : State) (p : TlbEntry → Bool) : State := { s with tlb := s.tlb.filter fun e => !p e }

/-- An entry is a translation of a context, of a block that a range of addresses meets (R369). -/
def TlbEntry.named (e : TlbEntry) (cid : Nat) (range : Option (Nat × Nat)) : Bool :=
  e.cid == cid && range.all fun r => decide (e.va < r.1 + r.2) && decide (r.1 < e.va + 2 ^ e.lo)

/-- The die that a cache lies on: 4 × side + layer. -/
def TlbPlace.die : TlbPlace → Nat
  | .micro b _ | .billet b => 4 * sideOf b + layerOf b
  | .layer sd l => 4 * sd + l

/-- The translations that one die removes for an invalidation. -/
def State.tlbNamed (s : State) (die cid : Nat) (range : Option (Nat × Nat)) : List TlbEntry :=
  s.tlb.filter fun e => e.place.die == die && e.named cid range

/-- One die removes what an invalidation names (R369). -/
def State.tlbInval (s : State) (die cid : Nat) (range : Option (Nat × Nat)) : State :=
  s.tlbDrop fun e => e.place.die == die && e.named cid range

/-- The entries of layers that lose their power (R369). -/
def State.tlbOff (s : State) (off : Nat → Nat → Bool) : State :=
  s.tlbDrop fun e => match e.place with
    | .micro b _ | .billet b => off (sideOf b) (layerOf b)
    | .layer sd l => off sd l

/-- A cache may lose any entry at any time (R368): a free number says which, or none. -/
def tlbLoses (n : Nat) (t : List TlbEntry) : List TlbEntry := t.eraseIdx (n % (2 * t.length + 1))

/-- Why a device-side access fails: its walk faults, its leaf forbids it, or it goes to a side that is ISOLATED (R436). -/
inductive SysFail | walk | perm | lost
  deriving DecidableEq, Repr

/-- How a device-side access ends that fails: with what its walk has marked (R367), and why. -/
abbrev SysEnd := State × SysFail

/-- Reads n bytes of one 64-byte granule, at system scope by a device unit; cfg asks for a CFG translation (R99). -/
def State.sysRead1 (s : State) (cid va n : Nat) (cfg : Bool) : Except SysEnd (List Byte × State) :=
  match s.translate cid va false with
  | none => .error (s, if s.walkCut cid va then .lost else .walk)
  | some (l, s) =>
    if cfg && !l.cfg then .error (s, .perm)
    else if s.cutOff l.pa then .error (s, .lost)
    else
      let s := s.takeL2 cid l.pa
      .ok (s.homeReads l.pa n, s)

/-- Bytes of a range in its first granule. -/
def firstPart (va n : Nat) : Nat := min n (64 - va % 64)

/-- Reads up to 64 bytes, which may lie in two granules. -/
def State.sysRead (s : State) (cid va n : Nat) (cfg : Bool) : Except SysEnd (List Byte × State) :=
  let k := firstPart va n
  match s.sysRead1 cid va k cfg with
  | .error e => .error e
  | .ok (bs, s) =>
    if k = n then .ok (bs, s)
    else match s.sysRead1 cid (va + k) (n - k) cfg with
      | .error e => .error e
      | .ok (cs, s) => .ok (bs ++ cs, s)

/-- Reads k granules from an address that is a multiple of 64. -/
def State.sysReads (s : State) (cid va : Nat) (cfg : Bool) : Nat → Except SysEnd (List Byte × State)
  | 0 => .ok ([], s)
  | k + 1 =>
    match s.sysRead1 cid va 64 cfg with
    | .error e => .error e
    | .ok (bs, s) =>
      match s.sysReads cid (va + 64) cfg k with
      | .error e => .error e
      | .ok (cs, s) => .ok (bs ++ cs, s)

/-- The leaf through which a device unit may write at an address (R452), marked as the write needs it. -/
def State.sysMay (s : State) (cid va : Nat) : Except SysEnd (Leaf × State) :=
  match s.translate cid va true with
  | none => .error (s, if s.walkCut cid va then .lost else .walk)
  | some (l, s) => if !l.w then .error (s, .perm) else if s.cutOff l.pa then .error (s, .lost) else .ok (l, s)

/-- Writes bytes of one granule, at system scope by a device unit (R452). -/
def State.sysWrite1 (s : State) (cid va : Nat) (bs : List Byte) : Except SysEnd State :=
  match s.sysMay cid va with
  | .error e => .error e
  | .ok (l, s) => .ok (s.homeWrites cid l.pa bs)

/-- Writes up to 64 bytes, which may lie in two granules; nothing where either part cannot be written. -/
def State.sysWrite (s : State) (cid va : Nat) (bs : List Byte) : Except SysEnd State :=
  let k := firstPart va bs.length
  if k = bs.length then s.sysWrite1 cid va bs
  else match s.sysMay cid (va + k) with
    | .error e => .error e
    | .ok (_, s) =>
      match s.sysWrite1 cid va (bs.take k) with
      | .error e => .error e
      | .ok s => s.sysWrite1 cid (va + k) (bs.drop k)

end Sys2Proof.Machine
end

