-- ==== Sys2Proof/Machine/Ops.lean ====
section
/-! DEFINITION. Shared operations over the whole machine: fault records (16 R410 to R414), CTRL tokens and handlers (R272), the freeze
(R392), taking a trap (R415, R380, R382), the return from one (R394), and the end of a launch (R338 step 7). Choices and readings: log
entries 17, 44, 47, 49, 59, 67, 72. -/

namespace Sys2Proof.Machine

/-! ### Fault records (R410, R411) -/

/-- The classes of R411 and R433. -/
def clsInvalidEncoding : Nat := 0x01
def clsPageLimit : Nat := 0x02
def clsPathOverflow : Nat := 0x10
def clsStreamMismatch : Nat := 0x11
def clsColourFree : Nat := 0x12
def clsMisalign : Nat := 0x13
def clsBounds : Nat := 0x14
def clsPermission : Nat := 0x15
def clsTrap : Nat := 0x16
def clsXlate : Nat := 0x20
def clsGuard : Nat := 0x30
def clsQuota : Nat := 0x31
def clsUe : Nat := 0x32
def clsLink : Nat := 0x33
def clsSideLost : Nat := 0x34
def clsFabric : Nat := 0x40

/-- DETAIL [5:4] of a record whose address is a virtual one: global space (R411). -/
def inGlobal : Nat := 0x10

/-- The 16 words of a record (R410), with its time and sequence number. -/
def FaultInfo.words (f : FaultInfo) (time seqno : Nat) : List Word :=
  let tag := (f.tag.map Tag.toNat).getD 0
  ([f.cls + 2 ^ 8 * f.cid + 2 ^ 16 * f.baddr + 2 ^ 24 * f.tile,
    f.slot + 2 ^ 16 * f.page,
    tag % 2 ^ 32,
    tag / 2 ^ 32 + (if f.tag.isSome then 2 ^ 8 else 0) + 2 ^ 16 * f.detail,
    f.addr % 2 ^ 32, f.addr / 2 ^ 32,
    time % 2 ^ 32, time / 2 ^ 32,
    f.rslot % 2 ^ 16 + 2 ^ 16 * f.queue,
    seqno, 0, 0, 0, 0, 0, 0] : List Nat).map (BitVec.ofNat 32)

/-- A record joins the device fault log (R420): 64 records, the oldest overwritten. -/
def State.logRecord (s : State) (f : FaultInfo) : State :=
  let r := { f with cid := 0, queue := 0 }.words s.ns 0
  { s with
    faultLog := if s.faultLog.length < 64 then s.faultLog ++ [r] else setNth s.faultLogNext r s.faultLog
    faultLogNext := (s.faultLogNext + 1) % 64 }

/-- Counts a record that is not written in LOST, saturating, and shows it in the header when that can be written (R412, R452). -/
def State.countLost (s : State) (cid : Nat) : State :=
  let n := (s.ctx cid).lost
  let n' := if n = 0xFFFFFFFF then n else n + 1
  let s := s.modCtx cid fun c => { c with lost := n' }
  match (s.ctx cid).fq with
  | none => s
  | some q =>
    match s.sysWrite cid (q.va + 8) (bytesOfWord n') with
    | .ok s => s
    | .error (s, _) => s

/-- Writes a fault record to its context's fault queue (R413), or counts it in LOST (R412, R452). -/
def State.putRecord (s : State) (f : FaultInfo) : State :=
  match (s.ctx f.cid).fq with
  | none => s.countLost f.cid
  | some q =>
    match s.sysRead f.cid (q.va + 4) 4 false with
    | .error (s, _) => s.countLost f.cid
    | .ok (hd, s) =>
      if q.tail - wordOfBytes hd = BitVec.ofNat 32 (2 ^ q.log2) then s.countLost f.cid
      else
        let i := q.tail.toNat % 2 ^ q.log2
        match s.sysWrite f.cid (q.va + 64 + 64 * i) (bytesOfWords (f.words s.ns q.tail.toNat)) with
        | .error (s, _) => s.countLost f.cid
        | .ok s1 =>
          match s1.sysWrite f.cid q.va (bytesOfWord (q.tail + 1)) with
          | .error (s, _) => s.countLost f.cid
          | .ok s2 =>
            let s3 := s2.modCtx f.cid fun c => { c with fq := some { q with tail := q.tail + 1 } }
            s3.sendMsix (s3.ctx f.cid).func.toNat q.vec

/-- A fault record of this fc: it is written at the end of the fc, in the order of R413. -/
def State.writeRecord (s : State) (f : FaultInfo) : State := { s with records := s.records ++ [f] }

/-- The place of a record among those of its fc (R413): UE and trap records first, each group by BADDR, TILE and SLOT. -/
def FaultInfo.rank (f : FaultInfo) : Nat :=
  let first := f.cls == clsUe || (decide (clsPathOverflow ≤ f.cls) && decide (f.cls ≤ clsTrap) && f.tag.isSome)
  (if first then 0 else 2 ^ 32) + 2 ^ 16 * f.baddr + 2 ^ 9 * f.tile + f.slot

def State.putAll (s : State) : List FaultInfo → State
  | [] => s
  | f :: fs => (if (s.ctx f.cid).valid then s.putRecord f else s).putAll fs

/-- Writes the records of the fc. -/
def State.putRecords (s : State) : State :=
  let fs := sortBy FaultInfo.rank s.records
  { s with records := [] }.putAll fs

/-! ### CTRL tokens (R271, R272) -/

/-- A CTRL token reaches a billet for an entry; CTRL_TOKEN_ARRIVE gives it its place (R272). -/
def State.ctrlArrive (s : State) (b e : Nat) (t : Token) : State :=
  let tok : Token := { t with tag := { t.tag with kind := .ctrl } }
  s.modBillet b fun x => { x with arrivals := x.arrivals ++ [{ entry := e, tok := tok }] }

/-- Where a launch's page lies now. -/
def Launch.placeOf (l : Launch) (page : Nat) : Option Nat := (nthD {} l.pages page).place

/-- Raises a hardware entry of the checkout page with an argument and the tag of R381; while the page stands in no billet, the token
waits. -/
def State.raiseCheckout (s : State) (r : RecId) (e : Nat) (arg : Word) : State :=
  match s.launch? r with
  | none => s
  | some l =>
    match l.placeOf l.graph.checkout with
    | none => s.modLaunch r fun x => { x with raises := x.raises ++ [(e, arg)] }
    | some b => s.ctrlArrive b e { tag := { kind := .ctrl }, pay := .word arg }

def State.raiseEach (s : State) (r : RecId) : List (Nat × Word) → State
  | [] => s
  | (e, arg) :: rest => (s.raiseCheckout r e arg).raiseEach r rest

/-- The raises that have waited for the checkout page go out, in their order. -/
def State.raiseKept (s : State) (r : RecId) : State :=
  match s.launch? r with
  | none => s
  | some l => (s.modLaunch r fun x => { x with raises := [] }).raiseEach r l.raises

/-- A record of class XLATE, GUARD or QUOTA for a running launch also raises entry 1 of the checkout page (R414). -/
def State.noteRecord (s : State) (r : RecId) (f : FaultInfo) : State :=
  let s := s.writeRecord f
  match s.launch? r with
  | some l =>
    if l.st = .running then s.raiseCheckout r 1 (BitVec.ofNat 32 (f.cls + f.baddr * 2 ^ 8)) else s
  | none => s

/-! ### Gates and freezes (R269, R382, R392) -/

def Tile.closeGates (t : Tile) (keep : Option Nat) : Tile :=
  { t with inCh := t.inCh.map fun (c, x) => (c, if keep = some c then x else { x with gate := false }) }

/-- Closes every input gate of a billet but one argument channel. -/
def Billet.closeGates (x : Billet) (keep : Option (Nat × Nat)) : Billet :=
  { x with tiles := x.tiles.zipIdx.map fun (t, i) => t.closeGates (keep.bind fun k => if k.1 = i then some k.2 else none) }

def Billet.openGates (x : Billet) : Billet :=
  { x with tiles := x.tiles.map fun t => { t with inCh := t.inCh.map fun (c, y) => (c, { y with gate := true }) } }

def State.modBillets (s : State) (bs : List Nat) (f : Billet → Billet) : State :=
  { s with billets := s.billets.map fun (b, x) => (b, if bs.contains b then f x else x) }

def Billet.isFrozen (x : Billet) : Bool := !x.frozen.isEmpty

def State.freeze (s : State) (bs : List Nat) (why : Freeze) : State :=
  s.modBillets bs fun x => { x with frozen := if x.frozen.contains why then x.frozen else why :: x.frozen }

/-- A billet without some reasons to be frozen; it goes on from the exact point it held once none is left and the Innkeeper of its side
is up (R394, R419). -/
def Billet.thaw (why : List Freeze) (down : Bool) (x : Billet) : Billet :=
  let left := x.frozen.filter fun f => !(why.contains f)
  { x with frozen := if left.isEmpty && down && x.isFrozen then [.keeper] else left }

/-- Resume (R394). -/
def State.unfreeze (s : State) (bs : List Nat) (why : List Freeze) : State :=
  { s with billets := s.billets.map fun (b, x) =>
      (b, if bs.contains b then x.thaw why (s.side (sideOf b)).innkeeperDown else x) }

/-- The freeze domain of a trap or debug stop that arises in a billet (R392): every billet of the launch, but the checkout
page's when the cause lies elsewhere. -/
def State.freezeDomain (s : State) (l : Launch) (origin : Option Nat) : List Nat :=
  let chk := l.placeOf l.graph.checkout
  (s.billetsOf l.id).filter fun b =>
    match origin with
    | none => true
    | some o => b = o ∨ chk ≠ some b

/-! ### The end of a launch (R338 step 7, R244, R383 to R385) -/

/-- VFLAGS of a launch (R333): what a chk fixed or NONE, with LATE and FAULT. -/
def Launch.vflags (l : Launch) : BitVec 5 :=
  let base : BitVec 5 := match l.chk with
    | some (f, _, _) => f.zeroExtend 5
    | none => 4
  base ||| (if l.late then 8 else 0) ||| (if l.faulted then 16 else 0)

/-- The four words of the result descriptor (R338 step 2). -/
def Launch.resultBytes (l : Launch) (now : Nat) : List Byte :=
  let (w, t) := match l.chk with
    | some (_, w, t) => (w, t)
    | none => (0, now)
  bytesOf 4 l.vflags.toNat ++ bytesOfWord w ++ bytesOf 8 t

/-- Writes the result descriptor; a write that cannot be made is dropped with a PERMISSION record (R452). -/
def State.writeResult (s : State) (l : Launch) : State :=
  match s.sysWrite l.cid l.resultVa (l.resultBytes s.ns) with
  | .ok s => s
  | .error (s, _) =>
    s.writeRecord { cls := clsPermission, cid := l.cid, detail := inGlobal, addr := l.resultVa, rslot := l.id.slot, queue := l.id.queue }

/-- A billet as it is when no page is resident: its generation, BL_GUARDDROP until the next load (R359), and the freezes of its whole
side stay. -/
def Billet.freed (x : Billet) : Billet :=
  { gen := x.gen + 1, guardDrop := x.guardDrop, frozen := x.frozen.filter fun f => f == .clock || f == .role || f == .iso }

/-- Clears the local stores of a billet. -/
def State.clearScr (s : State) (b : Nat) : State := { s with scr := Memory.clear s.scr (2 ^ 23 * b) (2 ^ 23) }

/-- Frees a billet with its generation incremented; an increment to a multiple of 64 waits behind a generation flush (R352). -/
def State.freeBillet (s : State) (b : Nat) (e : Evict) : State :=
  let x := s.billet b
  if (x.gen + 1).toNat % 64 = 0 then
    s.setBillet b { x.freed with gen := x.gen, page := x.page, evict := some { e with phase := .flush, marks := s.flits } }
  else s.setBillet b x.freed

/-- Discards the page of a billet without saving (R338 step 7): its generation increments (R352). -/
def State.discardPage (s : State) (b : Nat) : State :=
  let s := ((s.modBillet b fun x => { x with page := none }).freeBillet b {}).clearScr b
  { s with sparse := s.sparse.filter fun o => !(o.tile.b == b && (match o.loc with | .scr _ => true | .glb _ _ => false)) }

def State.discardPages (s : State) : List Nat → State
  | [] => s
  | b :: bs => (s.discardPage b).discardPages bs

/-- Marks the record of a launch as ready to complete (R332 does the rest). -/
def State.recordOutcome (s : State) (r : RecId) (st : Status) (fl : BitVec 5) (detail : Nat) : State :=
  s.modQueue r.queue fun q => { q with recs := q.recs.map fun x =>
    if x.slot = r.slot ∧ ¬ x.done then { x with outcome := some (st, fl, detail) } else x }

/-- STATUS of a launch that ends (R334): with a chk performed, OK or GUARD; otherwise what ended it, GUARD standing in for OK. -/
def Launch.status (l : Launch) (st : Status) : Status :=
  if l.chk.isSome then (if l.guarded then .guard else .ok)
  else if st = .ok ∧ l.sideLost = true then .sideLost
  else if st = .ok ∧ l.guarded = true then .guard
  else st

/-- Page-store bytes a launch holds: context records, waystation overflow, edge caravans (R347, R351, R354). -/
def Launch.storeHeld (l : Launch) : Nat :=
  (l.pages.map PageState.reserved).sum +
    (l.edges.map fun (e : Edge) => e.spilled * 128 + (if e.reserved then 32768 else 0)).sum

/-- The release at system scope that a record's completion is (R332): what the launch's billets wrote reaches its homes (log entry 72). -/
def State.releaseAll (s : State) : List Nat → State
  | [] => s
  | b :: bs => (s.releaseCaches b .system).releaseAll bs

/-- Ends a launch under R338 step 7: everything of it is discarded once what it wrote is released, the result descriptor gets its last
flags, the record may complete, with a DETAIL of R333. -/
def State.endLaunchWith (s : State) (r : RecId) (st : Status) (detail : Nat) : State :=
  match s.launch? r with
  | none => s
  | some l =>
    let s := if l.st = .ended ∨ l.pagein then s else s.writeResult l
    let s := (s.releaseAll (s.billetsOf r)).discardPages (s.billetsOf r)
    let s := { s with
      flits := s.flits.filter (fun f => f.launch ≠ r)
      late := s.late.filter (fun f => f.launch ≠ r)
      launches := s.launches.filter (fun x => x.id ≠ r) }
    let s := s.modCtx l.cid fun c => { c with storeUsed := c.storeUsed - l.storeHeld }
    s.recordOutcome r (l.status st) l.vflags detail

def State.endLaunch (s : State) (r : RecId) (st : Status) : State := s.endLaunchWith r st 0

/-! ### Checkout (R381, R382, R385) -/

/-- Step 3 of R382: entry 0 of the checkout page is raised once no eviction of the launch is in progress (R388) and the page
stands in a billet. -/
def State.raiseEntry0 (s : State) (r : RecId) (arg : Word) : State :=
  match s.launch? r with
  | none => s
  | some l =>
    let there (b : Nat) : Bool := (s.billet b).load.all fun d => d.phase == .closed || d.phase == .running
    let held := !((l.placeOf l.graph.checkout).any there) ||
      (s.billetsOf r).any fun b => (s.billet b).evict.any fun e => e.phase != .wanted
    if held then s.modLaunch r fun x => { x with raiseWait := some arg }
    else (s.modLaunch r fun x => { x with raiseWait := none }).raiseCheckout r 0 arg

/-- Raises entry 0 when what held it back has ended. -/
def State.raiseWaiting (s : State) (r : RecId) : State :=
  match (s.launch? r).bind Launch.raiseWait with
  | some arg => s.raiseEntry0 r arg
  | none => s

/-- The checkout sequence of R382; when the checkout page's billet is frozen the launch ends at once (R385). -/
def State.checkoutSequence (s : State) (r : RecId) (arg : Word) : State :=
  match s.launch? r with
  | none => s
  | some l =>
    let chk := l.placeOf l.graph.checkout
    let stuck : Bool := match chk with
      | none => false
      | some b => (s.billet b).frozen.any fun (f : Freeze) => f == .trap || f == .ue || f == .debug
    if stuck then
      (s.modLaunch r fun l => { l with faulted := true }).endLaunch r .fault
    else
      let s := s.modLaunch r fun (l : Launch) => { l with
        st := .checkout
        entered := some (s.side l.side).fc
        pages := l.pages.map fun (p : PageState) => if p.place.isNone then { p with faulting := false } else p }
      let keep : Option (Nat × Nat) := chk.map fun b =>
        ((nthD {} (s.billet b).handlers 0 : Handler).tile, (nthD {} (s.billet b).handlers 0 : Handler).argch)
      let gate (k : Option (Nat × Nat)) (x : Billet) : Billet := { x.closeGates k with bodyGated := true }
      let s := s.modBillets ((s.billetsOf r).filter fun b => chk ≠ some b) (gate none)
      let s := s.modBillets (chk.toList) (gate keep)
      s.raiseEntry0 r arg

/-! ### Taking a trap, and the return from it -/

/-- A debugger is attached to a context (R421). -/
def State.attached (s : State) (cid : Nat) : Bool := s.sessions.any fun x => x.unlocks.contains cid

/-- The comparators that withhold a channel's head token (R423). -/
def Billet.matchBreaks (x : Billet) (tile ch : Nat) (tok : Token) (passed : List Nat) : List Break :=
  x.breaks.filter fun k => k.en && k.tile = tile && k.ch = ch && !passed.contains k.idx &&
    (BitVec.ofNat 40 tok.tag.toNat &&& k.tagMask) == (k.tagVal &&& k.tagMask) && (tok.pay.lane0 &&& k.pMask) == (k.pVal &&& k.pMask)

/-- The same while a debugger is attached to the context of the billet's page. -/
def State.withholds (s : State) (a : TileAddr) (ch : Nat) (c : InChan) : List Break :=
  match c.queue with
  | [] => []
  | tok :: _ =>
    if (s.billet a.b).page.any fun p => s.attached p.cid then (s.billet a.b).matchBreaks a.t ch tok c.passed else []

/-- What a trap (argument 1) or UE (argument 2) does to the launch once its record is written and its domain is frozen (R380,
R385). -/
def State.launchTrapped (s : State) (l : Launch) (b : Nat) (arg : Word) : State :=
  let s := s.modLaunch l.id fun l => { l with faulted := true, cause := arg }
  match l.st with
  | .loading =>
    if s.attached l.cid then s.modLaunch l.id fun l => { l with st := .stopped, stopLoading := true }
    else s.endLaunch l.id .fault
  | .running =>
    if s.attached l.cid then s.modLaunch l.id fun l => { l with st := .stopped, stopLoading := false }
    else s.checkoutSequence l.id arg
  | .checkout => if l.placeOf l.graph.checkout = some b then s.endLaunch l.id .fault else s
  | _ => s

/-- The record of a trap at a node (R415 item 3). -/
def trapInfo (p : Resident) (n : NodeAddr) (cls : Nat) (tag : Tag) (detail addr : Nat) : FaultInfo :=
  { cls := cls, cid := p.cid, baddr := n.b, tile := n.t, slot := n.pos, page := p.page, tag := some tag,
    detail := detail, addr := addr, rslot := p.launch.slot, queue := p.launch.queue }

/-- RAISING A TRAP (R415): its record is made with the firing tag; the trap takes effect at the end of the fc. -/
def State.trap (s : State) (n : NodeAddr) (cls : Nat) (tag : Tag) (detail addr : Nat) : State :=
  match (s.billet n.b).page with
  | none => s
  | some p =>
    let s := s.writeRecord (trapInfo p n cls tag detail addr)
    { s with due := s.due ++ [.trap p.launch n.b] }

/-- A freeze at the end of a side's fc: that fc has passed for the side's billets. -/
def State.freezeEnd (s : State) (side : Nat) (bs : List Nat) (why : Freeze) : State :=
  let s := s.modBillets (bs.filter fun b => sideOf b == side) fun x => { x with lateFreeze := x.lateFreeze || !x.isFrozen }
  s.freeze bs why

/-- TAKING A TRAP (R415, end of the fc of a side): the freeze domain freezes (R392) and the launch proceeds by its state (R380) — to
CHECKOUT through entry 0 of the checkout page (R382), to STOPPED under a debugger, or to its end. -/
def State.takeTrap (s : State) (side : Nat) (r : RecId) (b : Nat) : State :=
  match s.launch? r with
  | none => s
  | some l => (s.freezeEnd side (s.freezeDomain l (some b)) .trap).launchTrapped l b 1

/-- TAKING A UE of a billet (R419): that billet alone freezes, and the launch proceeds by its state. -/
def State.takeUe (s : State) (side : Nat) (r : RecId) (b : Nat) : State :=
  match s.launch? r with
  | none => s
  | some l => (s.freezeEnd side [b] .ue).launchTrapped l b 2

/-- The freeze and state of a debug stop. -/
def State.stopLaunch (s : State) (l : Launch) (report : Option StopReport) : State :=
  if l.st = .running ∨ l.st = .loading then
    s.modLaunch l.id fun x => { x with st := .stopped, stopLoading := decide (l.st = .loading), report := report }
  else s

/-- A STOP command (R392, R422): every billet of the launch freezes. -/
def State.debugStop (s : State) (r : RecId) : State :=
  match s.launch? r with
  | none => s
  | some l => (s.freeze (s.freezeDomain l none) .debug).stopLaunch l none

/-- A brk or breakpoint stop takes effect: the domain of its billet freezes (R392). -/
def State.takeStop (s : State) (side : Nat) (r : RecId) (b : Nat) (report : StopReport) : State :=
  match s.launch? r with
  | none => s
  | some l =>
    if l.st = .running ∨ l.st = .loading then (s.freezeEnd side (s.freezeDomain l (some b)) .debug).stopLaunch l (some report) else s

/-- A brk or a comparator stops the launch of its billet at the end of the fc. -/
def State.stopAt (s : State) (r : RecId) (b : Nat) (report : StopReport) : State := { s with due := s.due ++ [.stop r b report] }

/-- THE RETURN FROM A TRAP OR STOP (R380, R394): every billet of the launch continues from the exact point it held, and the
launch returns to RUNNING, or to LOADING when the stop began there. -/
def State.resumeLaunch (s : State) (r : RecId) : State :=
  match s.launch? r with
  | none => s
  | some l =>
    (s.unfreeze (s.billetsOf r) [.trap, .ue, .debug]).modLaunch r fun x =>
      { x with st := if l.stopLoading then .loading else .running, report := none, cause := 0 }

/-- SIDE_LOST (R380, R436): its record, and checkout where the checkout page lies on side 0, else the end with flags NONE. -/
def State.launchSideLost (s : State) (r : RecId) : State :=
  match s.launch? r with
  | none => s
  | some l =>
    let s := s.writeRecord { cls := clsSideLost, cid := l.cid, detail := 1, rslot := r.slot, queue := r.queue }
    let s := s.modLaunch r fun x => { x with sideLost := true, cause := 3 }
    let runs (b : Nat) : Bool := decide (sideOf b = 0) && (s.billet b).frozen.all fun f => f != .lost && f != .iso
    if !l.pagein && (l.placeOf l.graph.checkout).any runs then
      (if l.st = .checkout then s else s.checkoutSequence r 3)
    else s.endLaunch r .sideLost

/-- An access from side 0 to an address homed on an ISOLATED side 1 (R436): its billet freezes, its launch ends. -/
def State.remoteLost (s : State) (b : Nat) : State :=
  match (s.billet b).page with
  | none => s
  | some p => (s.freeze [b] .lost).launchSideLost p.launch

/-- Whether an address lies out of a billet's reach (R436). -/
def State.outOfReach (s : State) (b pa : Nat) : Bool := decide (sideOf b = 0) && s.cutOff pa

/-- An uncorrectable error in a billet (R419): a UE record with its copy in the device fault log; at the end of the fc the billet
freezes and the launch follows R380. A billet that is already frozen gets its record and nothing else. -/
def State.ueBillet (s : State) (b code addr : Nat) (tile : Nat := 0x1F) (slot : Nat := 0x1FF) (tag : Option Tag := none) : State :=
  match (s.billet b).page with
  | none => s.logRecord { cls := clsUe, baddr := b, tile := tile, slot := slot, tag := tag, detail := code, addr := addr }
  | some p =>
    let f : FaultInfo := { cls := clsUe, cid := p.cid, baddr := b, tile := tile, slot := slot, tag := tag, page := p.page, detail := code, addr := addr,
                           rslot := p.launch.slot, queue := p.launch.queue }
    let s := (s.writeRecord f).logRecord f
    if (s.billet b).isFrozen then s else { s with due := s.due ++ [.ue p.launch b] }

/-! ### The end of an fc (R387) -/

/-- A chk takes effect (R244, R384): the first fixes flags and word; in CHECKOUT it ends the launch. -/
def State.takeChk (s : State) (r : RecId) (flag : BitVec 3) (w : Word) : State :=
  match s.launch? r with
  | none => s
  | some l =>
    let s := if l.chk.isNone then
        let l' := { l with chk := some (flag, w, s.ns) }
        (s.modLaunch l.id fun x => { x with chk := l'.chk }).writeResult l'
      else s
    if l.st = .checkout then s.endLaunch l.id .ok else s

/-- A halt takes effect (R243): it ends a running launch and is ignored otherwise. -/
def State.takeHalt (s : State) (r : RecId) : State :=
  match s.launch? r with
  | none => s
  | some l => if l.st = .running then s.endLaunch l.id .ok else s

def State.takeEvent (s : State) (side : Nat) : DueEvent → State
  | .trap r b => s.takeTrap side r b
  | .ue r b => s.takeUe side r b
  | .chk r f w => s.takeChk r f w
  | .halt r => s.takeHalt r
  | .stop r b k => s.takeStop side r b k

/-- The order of R387, UEs and traps by billet; a debug stop comes behind them. -/
def DueEvent.rank : DueEvent → Nat
  | .trap _ b => b
  | .ue _ b => b
  | .chk .. => 256
  | .halt _ => 256
  | .stop .. => 257

def State.takeEvents (s : State) (side : Nat) : List DueEvent → State
  | [] => s
  | e :: es => (s.takeEvent side e).takeEvents side es

/-- What takes effect at the end of an fc of a side: every record is written (R413), then the events follow (R387, R415). -/
def State.settle (s : State) (side : Nat) : State :=
  let es := sortBy DueEvent.rank s.due
  { s.putRecords with due := [] }.takeEvents side es

end Sys2Proof.Machine
end

