-- ==== Sys2Proof/Machine/Operands.lean ====
section
/-! DEFINITION. Operand forms and the firing rule: the ports a node reads (R21, R183, R184), matching in tagged and static mode (R24 to
R33), target space (R34 to R36, R268), immediates (R89), and what issuing a firing does to its tile (R35, R36, R120). Choices and
readings: log entries 19, 25, 74. -/

namespace Sys2Proof

/-! ### Fields of a node -/

/-- The format G fields of a node whose extension is XG. -/
def Instr.gnode (i : Instr) : Option GNode := i.gParts.map fun p => p.2.2
/-- The fields of a node whose extension is XM. -/
def Instr.mnode (i : Instr) : Option MNode := i.mParts.map fun p => p.2.2.2

def XG.zero : XG := ⟨0, 0, .none, 0, 0⟩
/-- The XG fields; all zero when E = 0 (R86). -/
def GNode.x (g : GNode) : XG := g.xg.getD XG.zero
def GNode.imm (g : GNode) : Nat := g.x.imm.toNat
def GNode.xmod (g : GNode) : Nat := g.x.xmod.toNat

def Instr.t0 (i : Instr) : Target :=
  match i.gnode with
  | some g => g.t0
  | none => match i.mnode with
    | some m => m.t0
    | none => .none

/-- The second target; amo and red have none (R183). -/
def Instr.t1 (i : Instr) : Target :=
  match i.gnode with
  | some g => g.t1
  | none => match i.mnode with
    | some m => (match i with
      | .amo .. => .none
      | .red .. => .none
      | _ => m.t1)
    | none => .none

/-- Sticky counts SL and SR (R29). -/
def Instr.sticky (i : Instr) (p : Port) : Nat :=
  let (sl, sr) : Nat × Nat := match i.gnode with
    | some g => (g.x.sl.toNat, g.x.sr.toNat)
    | none => match i.mnode with
      | some m => (m.xm.sl.toNat, m.xm.sr.toNat)
      | none => (0, 0)
  match p with
  | .L => sl
  | .R => sr
  | .Q => 0

/-- The non-sticky ones of the ports a node reads. -/
def Instr.loosePorts (i : Instr) (ps : List Port) : List Port := ps.filter fun p => i.sticky p == 0

/-- The ports whose ENDs a node forwards: the non-sticky ones, or all of them when every port is sticky (R30, R32). -/
def Instr.endPorts (i : Instr) (ps : List Port) : List Port := if (i.loosePorts ps).isEmpty then ps else i.loosePorts ps

def Instr.isel (i : Instr) : ISel := (i.gnode.map fun g => g.x.isel).getD .none

/-- The port an ISEL code replaces. -/
def ISel.port : ISel → Option Port
  | .none => Option.none | .l => some .L | .r => some .R | .q => some .Q

/-- A node of W = 10 outside the memory opcodes (R82). -/
def Instr.packed (i : Instr) : Bool := i.gnode.any fun g => g.w == .packed

/-- Ports an opcode reads, before ISEL and the guards (R21, R117, R121 to R143, R147, R183, R221). -/
def Instr.rawReads (i : Instr) : List Port :=
  match i with
  | .mad .. | .sel .. | .bins .. | .ffma .. | .lacc .. | .lset .. | .carry .. => [.L, .R, .Q]
  | .dot _ q _ _ => if q then [.L, .R, .Q] else [.L, .R]
  | .fsgn _ _ op => if op = .abs then [.L] else [.L, .R]
  | .add .. | .sub .. | .mul .. | .mulh .. | .min .. | .max .. | .and .. | .or .. | .xor .. | .andn .. | .shl .. | .shr ..
  | .rot .. | .cmp .. | .bext .. | .lea .. | .iota .. | .tagset .. | .fadd .. | .fsub .. | .fmul .. | .fmin .. | .fmax ..
  | .fcmp .. | .pack .. | .sround .. | .lmul .. | .scl .. | .perm .. | .bcast .. | .lsh .. | .lget .. | .steer .. | .merge ..
  | .gate .. | .isect .. | .unio .. | .porter .. | .st .. | .stx .. | .amo .. | .red .. | .wtaddr .. | .spacc .. => [.L, .R]
  | .spawn _ two => if two then [.L, .R] else [.L]
  | .mma .. | .qget .. => []
  | _ => [.L]

/-- Opcodes whose port Q is a guard, read only when the page names it (R184, R222). -/
def Instr.guarded (i : Instr) : Bool :=
  match i with
  | .ld .. | .st .. | .ldx .. | .stx .. | .amo .. | .red .. | .fence .. | .wtaddr .. | .tlinc .. | .prf .. | .cpy .. | .cpyr ..
  | .qput .. | .mzero .. | .ringst .. | .spacc .. | .raise .. | .hset .. | .hclr .. | .trap .. | .chk .. | .csr .. | .halt .. =>
    true
  | _ => false

/-- Latency L and issue fc of a node's class (R119, R150, R187, R223). -/
def Instr.timing (i : Instr) : Nat × Nat :=
  match i with
  | .dot .. | .lacc .. => (8, 1)
  | .frcpe .. | .frsqe .. => (10, 2)
  | .fexp2e .. | .flog2e .. => (14, 3)
  | _ => (6, 1)

/-- Stages S1 to S6 of a latency class, each with its first and last fc from issue (R253). -/
def stagesOf (lat : Nat) : List (Nat × Nat × Nat) :=
  match lat with
  | 8 => [(1, 0, 0), (2, 1, 1), (3, 2, 2), (4, 3, 5), (5, 6, 6), (6, 7, 7)]
  | 10 => [(1, 0, 1), (2, 2, 2), (3, 3, 8), (4, 3, 8), (5, 3, 8), (6, 9, 9)]
  | 14 => [(1, 0, 2), (2, 3, 3), (3, 4, 12), (4, 4, 12), (5, 4, 12), (6, 13, 13)]
  | 6 => [(1, 0, 0), (2, 1, 1), (3, 2, 2), (4, 3, 3), (5, 4, 4), (6, 5, 5)]
  | _ => []

/-- The stages a node's firing holds (R253): none for mma, mdrain and spflush. -/
def Instr.stages (i : Instr) : List (Nat × Nat × Nat) :=
  match i with
  | .mma .. | .mdrain .. | .spflush .. => []
  | _ => stagesOf i.timing.1

end Sys2Proof

namespace Sys2Proof.Machine

/-! ### Stations (R76 to R80) -/

def hdrSlots (h : Word) : Nat := bits h 26 6 + 1
def hdrStage (h : Word) : Nat := bits h 22 4
def hdrKind (h : Word) : Nat := bits h 19 3
def hdrDepth (h : Word) : Nat := bits h 16 3
def hdrOrdm (h : Word) : Bool := h.getLsbD 15
def hdrColr (h : Word) : Bool := h.getLsbD 14
def hdrPri (h : Word) : Nat := bits h 12 2

/-- Classifies the slot words of a block by position (R79): slot, and the node that stands there. A word with E = 1 takes the next slot
with it, whatever it decodes to. -/
def scanSlots : Nat → List Word → List (Nat × Instr)
  | _, [] => []
  | k, w :: ws =>
    if w = 0 then scanSlots (k + 1) ws
    else
      let rest := if w.getLsbD 22 then
          match ws with
          | [] => []
          | _ :: ws' => scanSlots (k + 2) ws'
        else scanSlots (k + 1) ws
      match decode (w :: ws.take 1) with
      | .error _ => rest
      | .ok (i, _) => (k, i) :: rest

def Block.nodes (b : Block) : List (Nat × Instr) := scanSlots 0 b.words

/-- Every node of a tile with its block. -/
def Tile.allNodes (t : Tile) : List (Block × Nat × Instr) :=
  t.blocks.flatMap fun b => b.nodes.map fun p => (b, p.1, p.2)

/-- The node at a block's slot, when one stands there. -/
def Tile.instrAt (t : Tile) (blk slot : Nat) : Option Instr :=
  match t.block blk with
  | none => none
  | some b => Tbl.get slot b.nodes

/-- A block in static mode (R25). -/
def Tile.isStatic (t : Tile) (blk : Nat) : Bool :=
  match t.block blk with
  | none => false
  | some b => hdrDepth b.hdr == 0

/-- The return target of a spawn node (R147, R170). -/
def spawnTarget (n : GNode) : Target := (Target.ofCode (n.x.imm.extractLsb' 0 9)).getD .none

/-- A node's targets, the return target of a spawn among them. -/
def allTargets (i : Instr) : List Target :=
  [i.t0, i.t1] ++ (match i with
    | .spawn n _ => [spawnTarget n]
    | _ => [])

/-- At least one target or input channel names a port (R184). -/
def Tile.portNamed (t : Tile) (blk slot : Nat) (p : Port) : Bool :=
  (t.inCh.any fun (_, c) => c.dblk = blk ∧ c.dslot = slot ∧ c.dport = p) ||
  (match t.block blk with
   | none => false
   | some b => b.nodes.any fun (_, i) =>
      let hit (x : Target) : Bool := match x with
        | .port sl q => sl.toNat == slot && q == p
        | _ => false
      (allTargets i).any hit)

/-- The ports a node reads (R21, R184). -/
def Tile.reads (t : Tile) (blk slot : Nat) (i : Instr) : List Port :=
  (i.rawReads.filter fun p => i.isel.port ≠ some p) ++
    (if i.guarded && t.portNamed blk slot .Q then [.Q] else [])

/-! ### Tokens at ports -/

def Tile.at (t : Tile) (blk slot : Nat) (p : Port) : List Entry :=
  t.store.filter fun e => e.blk = blk ∧ e.slot = slot ∧ e.port = p ∧ e.spent = false

/-- Results in flight toward a port of a block (R35): their tags and the fc they are offered in. -/
def Tile.reserved (t : Tile) (blk slot : Nat) (p : Port) : List (Tag × Nat) :=
  t.flights.flatMap fun f => if f.blk ≠ blk then [] else
    f.outs.filterMap fun o => match o.tgt with
      | .port sl q => if sl.toNat = slot ∧ q = p then some (o.tag, f.due) else none
      | _ => none

/-- What the firing rule finds at a node. -/
inductive Choice
  /-- No firing; a stall reason of R37. -/
  | stall (reason : Nat)
  /-- A data firing with its tag: the first entry of each read port that it matches. -/
  | fire (tag : Tag) (took : List Entry)
  /-- An END to forward, with its LEVEL and the entries it consumes (R32). -/
  | fin (tag : Tag) (level : Nat) (took : List Entry)
  /-- STREAM_MISMATCH (R33). -/
  | mismatch (tag : Tag)
  deriving DecidableEq, Repr

def portReason : Port → Nat
  | .L => 1 | .R => 2 | .Q => 3

def maxSince (es : List Entry) : Nat := es.foldl (fun m e => max m e.since) 0

/-- The entry of a port that a firing with a tag takes in tagged mode: same key, or same context at a sticky port (R24). -/
def matchAt (es : List Entry) (sticky : Bool) (tag : Tag) (isEnd : Bool) : Option Entry :=
  es.find? fun e => e.tok.isEnd == isEnd &&
    (if sticky || isEnd then e.tok.tag.ctx == tag.ctx else e.tok.tag.key == tag.key)

/-- The END of a context that a port holds first. That it is the one which stands for the port, the later ones of its context waiting
behind it whatever their LEVEL, is the model's reading of R32 and R33 (log entry 19). -/
def firstEnd (es : List Entry) (c : BitVec 10 × BitVec 7 × BitVec 3) : Option Entry :=
  es.find? fun e => e.tok.isEnd && e.tok.tag.ctx == c

/-- All the entries a firing takes, one per port; none when a port lacks one. -/
def matchAll (find : Port → Option Entry) : List Port → Option (List Entry)
  | [] => some []
  | p :: ps => match find p, matchAll find ps with
    | some e, some es => some (e :: es)
    | _, _ => none

/-- Of two candidates, the one completed earlier, then the lower ITER (R27). -/
def better (a b : Nat × Nat) : Bool := decide (a.1 < b.1) || (a.1 == b.1 && decide (a.2 < b.2))

/-- The candidate that R27 prefers. Of two that it does not order, completed in one fc with one ITER but different COLOUR or PATH, the first
in store order is the model's choice (log entry 19). -/
def pickBest : List ((Nat × Nat) × Choice) → Option Choice
  | [] => none
  | c :: cs => some (cs.foldl (fun acc x => if better x.1 acc.1 then x else acc) c).2

/-- Whether DATA of a context stands at a port or is on its way to it (R32, R33). -/
def dataAt (t : Tile) (blk slot : Nat) (p : Port) (c : BitVec 10 × BitVec 7 × BitVec 3) : Bool :=
  ((t.at blk slot p).any fun e => !e.tok.isEnd && e.tok.tag.ctx == c) ||
  ((t.reserved blk slot p).any fun r => r.1.kind != .fin && r.1.ctx == c)

/-- DATA of an END's context that the END finds at its port: accepted before it, or reserved toward the port by a firing issued before it
arrived (R32, R33). -/
def dataBefore (t : Tile) (blk slot : Nat) (p : Port) (e : Entry) : Bool :=
  (((t.at blk slot p).takeWhile fun d => d != e).any fun d => !d.tok.isEnd && d.tok.tag.ctx == e.tok.tag.ctx) ||
  ((t.flights.filter fun f => f.blk == blk && decide (f.issue ≤ e.since)).any fun f => f.outs.any fun o =>
    o.tgt == .port (BitVec.ofNat 6 slot) p && o.tag.kind != .fin && o.tag.ctx == e.tok.tag.ctx)

/-- A port holds an END of a context, and none of the context's DATA before it. -/
def Tile.endAt (t : Tile) (blk slot : Nat) (p : Port) (c : BitVec 10 × BitVec 7 × BitVec 3) : Bool :=
  (firstEnd (t.at blk slot p) c).any fun e => !dataBefore t blk slot p e

/-- Every port whose END a node forwards holds an END of a context with none of the context's DATA before it. The stream of the context has
ended at the node: DATA accepted behind these ENDs belongs to the next stream of the context and waits for them. R32 and R33 speak of DATA
that a port holds and require that DATA come before their END; R312 to R314 run rows of one context one behind the other through a block
and forbid any other outcome (the model's reading, log entry 19). -/
def Tile.ended (t : Tile) (blk slot : Nat) (i : Instr) (ps : List Port) (c : BitVec 10 × BitVec 7 × BitVec 3) : Bool :=
  (i.endPorts ps).all fun p => t.endAt blk slot p c

/-- An END of R33 in tagged mode: at another non-sticky port stands DATA of its context, with none at its own port or on the way there,
or an END of its context with another LEVEL. DATA behind the ENDs of a stream that has ended is of the next one. -/
def Tile.taggedBad (t : Tile) (blk slot : Nat) (i : Instr) (ps : List Port) : Option Entry :=
  let ns := i.loosePorts ps
  let es := fun p => t.at blk slot p
  (ns.flatMap fun p => (es p).filter fun e => e.tok.isEnd && firstEnd (es p) e.tok.tag.ctx == some e).find? fun e =>
    ns.any fun p => p != e.port &&
      ((!t.ended blk slot i ps e.tok.tag.ctx && !dataAt t blk slot e.port e.tok.tag.ctx && (es p).any fun d => !d.tok.isEnd && d.tok.tag.ctx == e.tok.tag.ctx) ||
       (firstEnd (es p) e.tok.tag.ctx).any fun d => d.tok.level != e.tok.level)

/-- The firings and forwardings a node matches in tagged mode, with the fc in which each was complete and its ITER (R24, R27, R30, R32). -/
def Tile.taggedReady (t : Tile) (blk slot : Nat) (i : Instr) (ps : List Port) : List ((Nat × Nat) × Choice) :=
  let sticky (p : Port) : Bool := i.sticky p != 0
  let ns := i.loosePorts ps
  let es := fun p => t.at blk slot p
  match i.endPorts ps with
  | [] => []
  | p0 :: rest =>
    let datas := ((es p0).filter fun e => !e.tok.isEnd && !t.ended blk slot i ps e.tok.tag.ctx).filterMap fun e =>
      (matchAll (fun p => if p = p0 then some e else matchAt (es p) (sticky p || ns.isEmpty) e.tok.tag false) ps).map fun took =>
        ((maxSince took, e.tok.tag.iter.toNat), Choice.fire e.tok.tag took)
    let fins := ((es p0).filter fun e => e.tok.isEnd && firstEnd (es p0) e.tok.tag.ctx == some e).filterMap fun e =>
      (matchAll (fun p => firstEnd (es p) e.tok.tag.ctx) rest).bind fun others =>
        if (others.any fun d => d.tok.level != e.tok.level) || !t.ended blk slot i ps e.tok.tag.ctx then none
        else
          let extra := if ns.isEmpty then [] else (ps.filter sticky).filterMap fun p => firstEnd (es p) e.tok.tag.ctx
          some ((maxSince (e :: others), e.tok.tag.iter.toNat), Choice.fin e.tok.tag e.tok.level (e :: others ++ extra))
    datas ++ fins

/-- What a node waits for in tagged mode: the first port that lacks a token of the key resident at it longest (R37). An END needs an END at
the ports that take part (R32), and none of its context's DATA still on its way to them. -/
def Tile.taggedStall (t : Tile) (blk slot : Nat) (i : Instr) (ps : List Port) : Nat :=
  let es := fun p => t.at blk slot p
  let fixed := (i.endPorts ps).flatMap es
  match (if fixed.isEmpty then ps.flatMap es else fixed) with
  | [] => 0
  | e0 :: rest =>
    let old := rest.foldl (fun a e => if e.since < a.since then e else a) e0
    let lacking := if old.tok.isEnd then (i.endPorts ps).find? fun p => !t.endAt blk slot p old.tok.tag.ctx
      else ps.find? fun p => (matchAt (es p) (i.sticky p != 0) old.tok.tag false).isNone
    match lacking with
    | some p => portReason p
    | none => 1

/-- Matching in tagged mode (R24, R27, R30, R32, R33). -/
def Tile.chooseTagged (t : Tile) (blk slot : Nat) (i : Instr) (ps : List Port) : Choice :=
  match t.taggedBad blk slot i ps with
  | some e => .mismatch e.tok.tag
  | none => (pickBest (t.taggedReady blk slot i ps)).getD (.stall (t.taggedStall blk slot i ps))

/-- R33 on the heads of the non-sticky ports in static mode: an END beside DATA, where no DATA is on its way to the END's port, or ENDs of
different LEVELs, whether or not another port is empty. -/
def Tile.staticBad (t : Tile) (blk slot : Nat) (hs : List Entry) : Bool :=
  hs.any fun e => e.tok.isEnd && hs.any fun d =>
    if d.tok.isEnd then d.tok.level != e.tok.level else !((t.reserved blk slot e.port).any fun r => r.1.kind != .fin)

/-- Matching in static mode (R25, R32 item 5, R33): the heads of the ports' FIFOs. -/
def Tile.chooseStatic (t : Tile) (blk slot : Nat) (i : Instr) (ps : List Port) : Choice :=
  let lead := i.endPorts ps
  let head := fun p => (t.at blk slot p).head?
  let heads := lead.filterMap head
  -- the first port without a token of the kind that the node would take there
  let lack (fin : Bool) : Option Port := (if fin then lead else ps).find? fun p =>
    ((head p).bind fun e => if e.tok.isEnd == fin then some e else none).isNone
  match heads with
  | [] => .stall (if ps.all fun p => (head p).isNone then 0 else ((ps.find? fun p => (head p).isNone).map portReason).getD 0)
  | h :: rest =>
    if t.staticBad blk slot ((i.loosePorts ps).filterMap head) then .mismatch h.tok.tag
    else if heads.length < lead.length then .stall (((lack h.tok.isEnd).map portReason).getD 0)
    else if heads.all fun e => e.tok.isEnd then
      if rest.all fun e => e.tok.level == h.tok.level then
        let extra := (ps.filter fun p => !(lead.contains p)).filterMap fun p =>
          (head p).bind fun e => if e.tok.isEnd then some e else none
        .fin h.tok.tag h.tok.level (heads ++ extra)
      else .stall (portReason h.port)
    else
      match matchAll (fun p => (head p).bind fun e => if e.tok.isEnd then none else some e) ps with
      | some took => .fire h.tok.tag took
      | none => .stall (((lack false).map portReason).getD 0)

def Tile.choose (t : Tile) (blk slot : Nat) (i : Instr) : Choice :=
  let ps := t.reads blk slot i
  if t.isStatic blk then t.chooseStatic blk slot i ps else t.chooseTagged blk slot i ps

/-! ### Consuming (R29, R32, R36) -/

/-- One firing uses an entry: a count-15 token stays, others lose a firing and are spent at the last (R29). -/
def Entry.use (e : Entry) : Entry :=
  if e.keep then e else if e.left ≤ 1 then { e with left := 0, spent := true } else { e with left := e.left - 1 }

/-- Applies a change to the first unspent entry equal to a given one. -/
def useEntry (f : Entry → Entry) (e : Entry) : List Entry → List Entry
  | [] => []
  | x :: xs => if x = e then f x :: xs else x :: useEntry f e xs

def Tile.useAll (t : Tile) (took : List Entry) : Tile :=
  { t with store := took.foldl (fun st e => useEntry Entry.use e st) t.store }

/-- Takes entries out for good, whatever their count. -/
def Tile.spendAll (t : Tile) (took : List Entry) : Tile :=
  { t with store := took.foldl (fun st e => useEntry (fun x => { x with spent := true }) e st) t.store }

/-- The entry at the head of its port's FIFO (R25), where those that a firing of this fc has consumed still count. -/
def Tile.isHead (t : Tile) (e : Entry) : Bool := (t.store.find? fun d => d.blk = e.blk ∧ d.slot = e.slot ∧ d.port = e.port) == some e

/-- On forwarding an END the count-15 tokens of its context are freed (R32 item 4), in static mode those at the heads (item 5). -/
def Tile.freeKept (t : Tile) (blk slot : Nat) (tag : Tag) : Tile :=
  let mine (e : Entry) : Bool := if t.isStatic blk then t.isHead e else e.tok.tag.ctx == tag.ctx
  { t with store := t.store.map fun e => if e.blk = blk ∧ e.slot = slot ∧ e.keep = true ∧ mine e = true then { e with spent := true } else e }

/-! ### Target space (R34 to R36, R268) -/

/-- Whether a port takes tokens without a token-store entry (R150, R180): carry Q, gate .count R, reorder L for DATA. -/
def absorbs (i : Instr) (p : Port) (tag : Tag) : Bool :=
  match i with
  | .carry .. => p == .Q
  | .gate _ c => c && p == .R
  | .reorder _ => p == .L && tag.kind != .fin
  | _ => false

/-- Results in flight toward ports of a block that take an entry, with slot, port and tag (R28, R35). -/
def Tile.coming (t : Tile) (blk : Nat) : List (Nat × Port × Tag) :=
  (t.flights.filter fun f => f.blk = blk).flatMap fun f => f.outs.filterMap fun o => match o.tgt with
    | .port sl p => if (t.instrAt blk sl.toNat).any fun i => absorbs i p o.tag then none else some (sl.toNat, p, o.tag)
    | _ => none

/-- Keys resident in a block at its non-sticky ports, reservations among them (R28). -/
def Tile.blockKeys (t : Tile) (blk : Nat) : List Key :=
  let sticky (slot : Nat) (p : Port) : Bool := (t.instrAt blk slot).any fun i => i.sticky p != 0
  let held := (t.store.filter fun e => e.blk = blk).filterMap fun e =>
    if sticky e.slot e.port then none else some e.tok.tag.key
  let coming := (t.coming blk).filterMap fun c => if sticky c.1 c.2.1 then none else some c.2.2.key
  (held ++ coming).foldl (fun acc k => if acc.contains k then acc else k :: acc) []

/-- Token-store entries in use or reserved (R28). -/
def Tile.storeUse (t : Tile) : Nat := t.store.length + ((List.range 4).map fun k => (t.coming k).length).sum

/-- Why a port does not accept a token: reasons of R37, and holding for a free result fc. -/
inductive Room | ok | dup | full | off | hold
  deriving DecidableEq, Repr

/-- The token store's own limits (R28, R34). -/
def Tile.storeSpace (t : Tile) (blk slot : Nat) (p : Port) (i : Instr) (tag : Tag) : Room :=
  let here := t.store.filter fun e => e.blk = blk ∧ e.slot = slot ∧ e.port = p
  let coming := t.reserved blk slot p
  if t.isStatic blk then
    (if here.length + coming.length ≥ 2 then .full
     else if t.storeUse ≥ Config.tokenStore then .full else .ok)
  else
    let sticky := i.sticky p != 0
    let same (x : Tag) : Bool := if sticky then x.ctx == tag.ctx else x.key == tag.key
    if (here.any fun e => same e.tok.tag) || (coming.any fun r => same r.1) then .dup
    else if t.storeUse ≥ Config.tokenStore then .full
    else if sticky then .ok
    else
      let ks := t.blockKeys blk
      let depth := match t.block blk with
        | some b => 2 ^ hdrDepth b.hdr
        | none => 0
      if ks.contains tag.key || decide (ks.length < depth) then .ok else .full

/-- Whether a port of a block accepts a token of a tag (R28, R34, R159, R162, R180). A result reserved toward a carry's L before it closes still
enters there; a reorder node without a context takes that of the first result on its way to L: both are the model's choice (log entry 19). A
token at a carry's Q that trapped keeps others out (R415). -/
def Tile.portSpace (t : Tile) (blk slot : Nat) (p : Port) (tag : Tag) : Room :=
  match t.instrAt blk slot with
  | none => .full
  | some i =>
    let nd := t.node (posOf blk slot)
    match i with
    | .carry .. =>
      if p = .Q then (if (t.at blk slot .Q).isEmpty then .ok else .full) else if p = .L ∧ nd.closing = true then .full else t.storeSpace blk slot p i tag
    | .gate g true =>
      if p = .R then
        (let coming := ((t.reserved blk slot p).filter fun r => r.1.kind != .fin).length
         if tag.kind ≠ .fin ∧ g.imm % 4096 + nd.gateBack + nd.gateUp + coming + 1 > nd.gateTaken + 0xFFFF then .full else .ok)
      else t.storeSpace blk slot p i tag
    | .reorder _ =>
      let coming : List (Tag × Nat) := t.reserved blk slot p
      let cur : Option (BitVec 10 × BitVec 7 × BitVec 3) := match nd.ctx with
        | some c => some c
        | none => (coming.head?).map fun (r : Tag × Nat) => r.1.ctx
      if cur.any fun c => c != tag.ctx then .full
      else if tag.kind = Kind.fin then
        (if (t.at blk slot p).isEmpty && !(coming.any fun r => r.1.kind == Kind.fin) then t.storeSpace blk slot p i tag else .full)
      else
        let d := (tag.iter - nd.next).toNat
        if (nd.window.any fun w => w.1 = d) || (coming.any fun r => r.1.kind != Kind.fin && r.1.iter == tag.iter) then .dup
        else if d ≥ 64 then .full else .ok
    | _ => t.storeSpace blk slot p i tag

end Sys2Proof.Machine
end

