-- ==== Sys2Proof/Machine/Firing.lean ====
section
/-! DEFINITION. Issuing a firing (R35, R36, R41, R120): channel space (R268), the wait reasons of R37, the operands a firing computes on
(R58 to R61, R89), and its entry into the pipeline. Choices and readings: log entries 17, 56, 74. -/

namespace Sys2Proof.Machine

/-! ### Channel targets (R268, R286) -/

def OutChan.view (c : OutChan) (d : Nat) : Bool := (Tbl.get d c.views).getD true

/-- Firings on their way to a channel (R268): those that have not left S6. A reply that waits after S6 holds no room. -/
def Tile.chanIssued (t : Tile) (now ch : Nat) : Nat :=
  (t.flights.filter fun f => (!f.loose || decide (f.due > now)) && f.outs.any fun o => match o.tgt with
    | .chan n => n.toNat == ch
    | _ => false).length

def Tile.allChanIssued (t : Tile) (now : Nat) : Nat :=
  (t.flights.filter fun f => (!f.loose || decide (f.due > now)) && f.outs.any fun o => match o.tgt with
    | .chan _ => true
    | _ => false).length

/-- The FIFO M-tile that serves an output channel (R286). -/
def Billet.fifoOf (x : Billet) (tile ch : Nat) : Option Nat :=
  (List.range 8).find? fun m =>
    let mt := nthD {} x.mtiles m
    mt.role == .fifo && mt.tile == tile && mt.ch == ch

/-- Stage that a LOCAL route's destination channel feeds (R278, R279). -/
def Billet.stageOf (x : Billet) (tile ch : Nat) : Option Nat :=
  let t := x.tile tile
  (Tbl.get ch t.inCh).bind fun c => (t.block c.dblk).map fun k => hdrStage k.hdr

/-- The float tile, by index, to which a split route also delivers now (R279): assigned to the stage and not DRAINING. -/
def Billet.floatFor (x : Billet) (r : Route) : Option Nat :=
  (x.stageOf r.tile r.ch).bind fun st =>
    (List.range x.floats.length).find? fun k =>
      match x.floats[k]? with
      | some f => f.stage == some st && f.draining.isNone
      | none => false

/-- Condition 1 of R268 for a destination of a steering set, or for the channel as a whole. -/
def Billet.viewAsserted (x : Billet) (cap tile ch : Nat) (row : Option Nat) : Bool :=
  match Tbl.get ch (x.tile tile).outCh with
  | none => true
  | some c =>
    match x.fifoOf tile ch with
    | some m => decide ((nthD {} x.mtiles m).fifo.length + 16 ≥ cap / 128)
    | none =>
      let r := nthD {} x.routes c.route
      if r.detour.isSome then c.view 0
      else match r.kind with
      | .handler => c.ctrlOut
      | .steer =>
        (match row with
         | some d => c.view d
         | none => (List.range (nthD [] x.steer r.set).length).any fun d => c.view d)
      | _ => c.view 0 && (if c.split then (match x.floatFor r with
          | some k => c.view (k + 1)
          | none => true) else true)

/-- An output channel is OFF (R268). -/
def Billet.chanOff (x : Billet) (cap now tile ch : Nat) (row : Option Nat) : Bool :=
  let t := x.tile tile
  x.viewAsserted cap tile ch row ||
    decide ((t.pool.filter fun p => p.ch = ch).length + t.chanIssued now ch ≥ Config.egressPerChannel) ||
    decide (t.pool.length + t.allChanIssued now ≥ Config.egressPool)

/-! ### Target space of a firing (R35) -/

def Room.worse (a b : Room) : Room :=
  match a, b with
  | .dup, _ => .dup | _, .dup => .dup
  | .full, _ => .full | _, .full => .full
  | .off, _ => .off | _, .off => .off
  | .hold, _ => .hold | _, .hold => .hold
  | .ok, .ok => .ok

/-- A result fc that an earlier issue has reserved at a port (R36). -/
def Tile.dueTaken (t : Tile) (blk slot : Nat) (p : Port) (due : Nat) : Bool :=
  t.flights.any fun f => f.blk == blk && !f.loose && f.due == due && f.outs.any fun o => match o.tgt with
    | .port sl q => sl.toNat == slot && q == p
    | _ => false

/-- Room for the results of one firing, first to last; each is reserved before the next is looked at. due is the fc of the
result, when issue fixes it. -/
def Billet.outSpace (x : Billet) (cap now tile blk : Nat) (due : Option Nat) : List Out → List Out → Room
  | _, [] => .ok
  | seen, o :: os =>
    let t := x.tile tile
    let t' : Tile := if seen.isEmpty then t else { t with flights := t.flights ++ [{ blk := blk, slot := 0, due := now + 1, outs := seen, loose := true }] }
    let here : Room := match o.tgt with
      | .none => .ok
      | .chan n => if x.chanOff cap now tile n.toNat o.row then .off else .ok
      | .port sl p =>
        (match t'.portSpace blk sl.toNat p o.tag with
         | .ok => if due.any fun d => t.dueTaken blk sl.toNat p d then .hold else .ok
         | r => r)
    here.worse (x.outSpace cap now tile blk due (seen ++ [o]) os)

/-! ### When a node may issue -/

/-- The billet of the selected node runs: a page is loaded, nothing freezes it, the device is in C0, C1 is off. -/
def State.live (s : State) (b : Nat) : Bool :=
  let x := s.billet b
  x.page.isSome && !x.isFrozen && s.power == .c0 && !x.c1 &&
    (match x.load with
     | none => true
     | some l => l.phase == .closed || l.phase == .running) &&
    (match x.evict with
     | none => true
     | some e => e.phase == .drain || e.phase == .wanted)

/-- Whether a block's kind lets its nodes issue now (R43, R345, R382); the reason they hold otherwise. -/
def Billet.blockGate (x : Billet) (tile blk : Nat) : Option Nat :=
  match (x.tile tile).block blk with
  | none => some 0
  | some b =>
    match hdrKind b.hdr with
    | 0 => if x.bodyGated then some 11 else none
    | 1 => if x.handlerGated then some 0 else none
    | 2 => none
    | 3 => if x.initOn then none else some 0
    | 4 => if x.drainOn then none else some 0
    | _ => some 0

/-- The head of an input channel to a node duplicates a token that stands at its port (R34). -/
def Tile.dupWaits (t : Tile) (blk slot : Nat) : Bool :=
  t.inCh.any fun (_, c) => c.dblk == blk && c.dslot == slot && c.queue.head?.any fun k => t.portSpace blk slot c.dport k.tag == .dup

/-- The selected node holds a stall reason. A duplicate at the head of a channel comes before the reasons behind it in the order of R37. -/
def State.setStall (s : State) (r : Nat) : State :=
  let dup := (r == 4 || r == 5 || r == 10) && (s.tile s.selTile).dupWaits s.sel.blk s.sel.slot
  s.modNode s.sel fun n => { n with stall := if dup then 6 else r }

/-- Place of a stall reason in the order of R37. -/
def stallRank (r : Nat) : Nat := ([11, 1, 2, 3, 8, 7, 14, 12, 13, 9, 6, 5, 4, 10].findIdx? (· == r)).getD 14

/-- A wait beside the node's issue takes the place of a reason behind it in the order of R37; a node that fired in this fc holds 0. -/
def Node.waits (r : Nat) (n : Node) : Node := if n.fired || stallRank n.stall ≤ stallRank r then n else { n with stall := r }

/-- A pending condition of a node's own (R37): an END or a window token to send, an accumulation, a drain or a flush in progress. -/
def Node.pending (n : Node) : Bool :=
  n.eosPending.isSome || !n.window.isEmpty || n.accTile.isSome || n.drain.isSome || n.flush.isSome

/-- The selected node holds a token at a port it reads, or a pending condition (R37). -/
def State.waiting (s : State) (i : Instr) : Bool :=
  let t := s.tile s.selTile
  (s.node s.sel).pending || (t.reads s.sel.blk s.sel.slot i).any fun p => !(t.at s.sel.blk s.sel.slot p).isEmpty

/-- What a node of a block that may not issue holds (R37, R43): GATED in a gated body block, when something waits at it; otherwise the reason
that the firing rule, whose outcome is given, leaves it with, and 0 where it could fire. -/
def State.gateStall (s : State) (i : Instr) (r : Nat) (out : State) : State :=
  if r = 11 then s.setStall (if s.waiting i then 11 else 0)
  else
    let w := (out.node s.sel).stall
    s.modNode s.sel fun n => { n with stall := if w = 10 then 0 else w }

/-- What every node does first: nothing while its billet does not run, its gate's reason while its block is gated, and what the
firing rule finds otherwise. -/
def State.atNode (s : State) (i : Instr) (k : Choice → State) : State :=
  if s.live s.sel.b then
    match (s.billet s.sel.b).blockGate s.sel.t s.sel.blk with
    | some r => s.gateStall i r (k ((s.tile s.selTile).choose s.sel.blk s.sel.slot i))
    | none => k ((s.tile s.selTile).choose s.sel.blk s.sel.slot i)
  else s

/-- Position class of R41. -/
def Tile.classOf (t : Tile) (blk : Nat) : Nat :=
  match t.block blk with
  | none => 2
  | some b => if hdrKind b.hdr = 1 then 0 else if hdrKind b.hdr = 2 then 1 else 2

/-- The tile after a firing of the selected position has taken the issue stream (R41, R120). -/
def Tile.tookIssue (t : Tile) (blk slot now k : Nat) : Tile :=
  let p := posOf blk slot
  let t := { t with issued := true, issueFree := now + k, held := none }
  match t.classOf blk with
  | 0 => { t with rrHandler := p }
  | 1 => { t with rrCheckout := p }
  | _ => { t with rrBody := p }

/-- The issue stream is free for a position (R36, R120). -/
def Tile.streamFree (t : Tile) (pos now : Nat) : Bool :=
  !t.issued && decide (t.issueFree ≤ now) && (match t.held with
    | none => true
    | some p => p == pos)

/-- A firing in the pipeline holds a stage in an fc in which a firing issued in fc now would (R253). -/
def Flight.blocks (f : Flight) (now : Nat) (want : List (Nat × Nat × Nat)) : Bool :=
  !f.loose && (stagesOf (f.due - f.issue)).any fun (n, a, b) => want.any fun (m, a', b') =>
    n == m && decide (f.issue + a ≤ now + b') && decide (now + a' ≤ f.issue + b)

/-- Every stage is free for a node's firing issued in fc now, in the fc in which it comes to it (R253). -/
def Tile.stagesFree (t : Tile) (i : Instr) (now : Nat) : Bool := !t.flights.any fun f => f.blocks now i.stages

/-- What a firing changes: how its tile's tokens are consumed, what it sends, its flags, its late effect, its node's state and
its billet's; busy when a resource of the node's own is full; loose when the fc of its result is not fixed at issue (R36), and
hold the operation that result waits for; first a reason of R37 that stands before those of targets and of the issue stream. -/
structure Firing where
  use : Tile → Tile := id
  outs : List Out := []
  flags : Flags := 0
  fx : FlightFx := .nothing
  node : Node → Node := id
  bill : Billet → Billet := id
  busy : Bool := false
  loose : Bool := false
  hold : Option Nat := none
  first : Option Nat := none

/-- Enters a firing into the pipeline (R35, R120). A loose firing that sends nothing leaves nothing in the pipeline. -/
def State.commit (s : State) (i : Instr) (f : Firing) : State :=
  let now := s.now s.sel.b
  let (lat, k) := i.timing
  let fl : Flight := { blk := s.sel.blk, slot := s.sel.slot, due := now + lat, outs := f.outs, flags := f.flags, fx := f.fx,
                       hold := f.hold, loose := f.loose, issue := now }
  let s := s.modTile s.selTile fun t =>
    let t := (f.use t).tookIssue s.sel.blk s.sel.slot now k
    let t := if f.loose && f.outs.isEmpty then t else { t with flights := t.flights ++ [fl] }
    t.modNode s.sel.pos fun n => { f.node n with stall := 0, fired := true }
  s.modBillet s.sel.b fun x => { f.bill x with lastUse := now, idle := 0 }

/-- The selection is kept until the node can issue (R36). -/
def State.keepSelected (s : State) : State := s.modTile s.selTile fun t => { t with held := some s.sel.pos }

/-- The second condition of R35 and the issue stream: goes on where the node issues, or holds the first reason that applies. A node
whose stages are not free keeps its selection, as one whose result fc is reserved does: log entry 74, DEDUCED. -/
def State.whenFree (s : State) (i : Instr) (f : Firing) (k : State) : State :=
  let x := s.billet s.sel.b
  let t := x.tile s.sel.t
  let now := s.now s.sel.b
  let due := if f.loose then none else some (now + i.timing.1)
  let wait (r : Nat) : State := s.setStall (f.first.getD r)
  let room := (x.outSpace (s.mtCap s.sel.b) now s.sel.t s.sel.blk due [] f.outs).worse (if f.busy then .full else .ok)
  match room.worse (if t.stagesFree i now then .ok else .hold) with
  | .dup => wait 6
  | .full => wait 5
  | .off => wait 4
  | .hold =>
    if t.streamFree s.sel.pos now then (wait 10).keepSelected else wait 10
  | .ok => if t.streamFree s.sel.pos now then k else wait 10

/-- Fires, or holds the first reason that applies. -/
def State.tryFire (s : State) (i : Instr) (f : Firing) : State := s.whenFree i f (s.commit i f)

/-- The selected node traps in the fc in which it would have issued: no other node of the tile issues in that fc. -/
def State.trapSelected (s : State) (cls : Nat) (tag : Tag) (detail addr : Nat) : State :=
  (s.trap s.sel cls tag detail addr).modTile s.selTile fun t => { t with issueFree := max t.issueFree (s.now s.sel.b + 1) }

/-- The selected node could issue in this fc: the issue stream and its stages are free. -/
def State.issueOpen (s : State) : Bool :=
  let t := s.tile s.selTile
  t.streamFree s.sel.pos (s.now s.sel.b) && (t.instrAt s.sel.blk s.sel.slot).all fun i => t.stagesFree i (s.now s.sel.b)

/-- A trap raised at issue (R415 item 1): in the fc in which the node would issue; the node does not fire. -/
def State.trapAt (s : State) (cls : Nat) (tag : Tag) (detail addr : Nat) : State :=
  if s.issueOpen then s.trapSelected cls tag detail addr
  else if (s.tile s.selTile).streamFree s.sel.pos (s.now s.sel.b) then (s.setStall 10).keepSelected
  else s.setStall 10

/-! ### Results -/

def tgts (i : Instr) : List Target := [i.t0, i.t1].filter fun x => x ≠ .none

/-- An END of a LEVEL with a tag (R18). -/
def endOut (tag : Tag) (level : Nat) (x : Target) : Out :=
  { tgt := x, tag := { tag with kind := .fin }, res := .pay (.word (BitVec.ofNat 32 level)) }

/-- The firing that consumes the ENDs of a forwarded END (R32): the count-15 tokens of its context are freed. -/
def State.endFiring (s : State) (tag : Tag) (took : List Entry) (outs : List Out) : Firing :=
  { use := fun t => (t.spendAll took).freeKept s.sel.blk s.sel.slot tag, outs := outs }

/-- Forwards an END to a node's targets (R32). -/
def State.forwardEnd (s : State) (i : Instr) (tag outTag : Tag) (level : Nat) (took : List Entry) : State :=
  s.tryFire i (s.endFiring tag took ((tgts i).map (endOut outTag level)))

/-- Sends one payload with a tag to a node's targets. -/
def sendAll (i : Instr) (tag : Tag) (r : Res) : List Out := (tgts i).map fun x => { tgt := x, tag := tag, res := r }

/-- A result tag: the firing tag with KIND DATA (R26). -/
def Tag.asData (t : Tag) : Tag := { t with kind := .data }

/-! ### Operands -/

/-- The operand an immediate becomes (R89), from the opcode, M, whether W = 10, and IMM. -/
def immOperand (op : Nat) (m : BitVec 4) (packed : Bool) (imm : BitVec 16) : Word :=
  let sx := imm.signExtend 32
  let twice := imm ++ imm
  if op / 16 ≤ 1 then
    if packed || !(op / 16 == 0 || op == 0x12 || op == 0x13) then sx
    else
      match (m.extractLsb' 2 2).toNat with
      | 2 => twice
      | 3 => let b := imm.extractLsb' 0 8; b ++ b ++ b ++ b
      | _ => sx
  else if op / 16 = 2 then
    if packed || op == 0x26 || (m.extractLsb' 2 2).toNat == 0 then imm ++ (0 : BitVec 16) else twice
  else if op = 0x75 then imm ++ (0 : BitVec 16)
  else sx

/-- What a data firing computes on: its tag, the entries it took, its immediate, the tile's scale registers, its fc. -/
structure Fire where
  tag : Tag
  took : List Entry
  isel : Option Port
  imm : Word
  tile : Tile
  now : Nat
  /-- fc from issue to S2 (R253): a firing holds S1 for the issue fc of its class. -/
  s2 : Nat := 1

def Instr.immWord (i : Instr) : Word :=
  match i.gParts with
  | some (op, m, g) => immOperand op.toNat m (g.w == .packed) g.x.imm
  | none => 0

def State.fireOf (s : State) (i : Instr) (tag : Tag) (took : List Entry) : Fire :=
  { tag := tag, took := took, isel := i.isel.port, imm := Instr.immWord i, tile := s.tile s.selTile, now := s.now s.sel.b, s2 := i.timing.2 }

def Fire.entry (f : Fire) (p : Port) : Option Entry := f.took.find? fun e => e.port = p

/-- A port's operand as lanes: n = 1 for a word form, 16 for a vector form (R20, R89, R113). -/
def Fire.lanes (f : Fire) (n : Nat) (p : Port) : List Word :=
  if f.isel = some p then List.replicate n f.imm
  else match f.entry p with
    | none => List.replicate n 0
    | some e => if n = 1 then [e.tok.pay.lane0] else e.tok.pay.toVec

/-- A port's operand as a word. -/
def Fire.word (f : Fire) (p : Port) : Word := nthD 0 (f.lanes 1 p) 0

/-- csr indices of the scale and seed registers (R54, R179). -/
def csrSc : Nat := 0x070
def csrSeed : Nat := 0x0C0

/-- What a csr operation makes of an RW field (R245). -/
def csrNew (op : CsrOp) (old v : Word) : Word :=
  match op with
  | .rd => old | .wr => v | .set => old ||| v | .clr => old &&& ~~~v

/-- A scale or seed register as stages in an fc see it (R59): a csr write takes effect at the end of the fc in which it is at S6,
one fc before its result is offered. -/
def Tile.regAt (t : Tile) (idx : Nat) (cur : Word) (fc : Nat) : Word :=
  match (t.hist.filter fun h => h.1 = idx ∧ h.2.2 ≥ fc).head? with
  | some h => h.2.1
  | none =>
    (t.flights.filter fun f => f.due ≤ fc).foldl (fun v f => match f.fx with
      | .csr i op x true => if i = idx then csrNew op v x else v
      | _ => v) cur

def Tile.scaleAt (t : Tile) (n fc : Nat) : Scale :=
  Scale.ofWord (t.regAt (csrSc + n) (nthD Scale.identity t.sc n).toWord fc)

def Tile.seedAt (t : Tile) (n fc : Nat) : BitVec 64 :=
  let cur : BitVec 64 := nthD 0 t.seed n
  t.regAt (csrSeed + 2 * n + 1) (cur.extractLsb' 32 32) fc ++ t.regAt (csrSeed + 2 * n) (cur.extractLsb' 0 32) fc

/-- Format and scale with which a packed port reads a token (R58, R61): S2 reads the scale (R59). -/
def Fire.encOf (f : Fire) (e : Entry) : Nat × Scale :=
  match e.enc with
  | .raw => (0, .identity)
  | .chan fmt sc => (fmt, f.tile.scaleAt sc (f.now + f.s2))
  | .ident fmt => (fmt, .identity)

/-- Format of the first packed read port in the order L, R, Q (R61). -/
def Fire.firstFmt (f : Fire) : Nat :=
  match ([Port.L, .R, .Q].filterMap fun p => f.entry p).head? with
  | some e => (f.encOf e).1
  | none => 0

/-- The decoded elements of a token (R66). -/
def decodeLanes (fmt : Nat) (sc : Scale) (ls : List Word) : List (Val × Flags) :=
  match fmtElem fmt with
  | none => []
  | some (el, k) => (elemsOf el.width k ls).map fun b => chanDecode el sc b

/-- Element count N of a packed firing (R61). -/
def Fire.count (f : Fire) : Nat := 16 * fmtK f.firstFmt

/-- A port's operand as decoded elements under W = 10; an immediate is one value for every element (R89). -/
def Fire.elems (f : Fire) (immVal : Val) (p : Port) : List (Val × Flags) :=
  if f.isel = some p then List.replicate f.count (immVal, 0)
  else match f.entry p with
    | none => []
    | some e => let (fmt, sc) := f.encOf e; decodeLanes fmt sc e.tok.pay.toVec

/-! ### Compute firings: rows 0x0 to 0x4 -/

/-- What a compute firing sends: its tag, the result for T0, a different one for T1 (unpack), its flags. -/
structure Result where
  tag : Tag
  r0 : Res
  r1 : Option Res := none
  flags : Flags := 0

def Result.outs (i : Instr) (r : Result) : List Out :=
  ([(i.t0, r.r0), (i.t1, r.r1.getD r.r0)] : List (Target × Res)).filterMap fun (x, v) =>
    if x = .none then none else some { tgt := x, tag := r.tag, res := v }

/-- A compute node (R111 to R120): waits, forwards END with the tag that endTag gives, traps STREAM_MISMATCH, or fires the
result of its operands. -/
def State.computeWith (s : State) (i : Instr) (endTag : Tag → Tag) (f : Fire → Result) : State :=
  s.atNode i fun c =>
    match c with
    | .stall r => s.setStall r
    | .mismatch tag => s.trapAt clsStreamMismatch tag 0 0
    | .fin tag level took => s.forwardEnd i tag (endTag tag) level took
    | .fire tag took =>
      let r := f (s.fireOf i tag took)
      s.tryFire i { use := fun t => t.useAll took, outs := r.outs i, flags := r.flags }

def State.compute (s : State) (i : Instr) (f : Fire → Result) : State := s.computeWith i id f

/-- Lanes of a word or vector form. -/
def laneCount (w : Shape) : Nat := if w = .word then 1 else 16

/-- A payload from lanes: a word from one lane, a vector from sixteen. -/
def payOf (w : Shape) (ls : List Word) : Payload := if w = .word then .word (nthD 0 ls 0) else .vec ls

/-- A result of the shape of W from lanes with their flags. -/
def laneResult (tag : Tag) (w : Shape) (ls : List (Word × Flags)) : Result :=
  { tag := tag.asData, r0 := .pay (payOf w (ls.map Prod.fst)), flags := flagsOr (ls.map Prod.snd) }

/-- A packed result (R61). -/
def elemResult (f : Fire) (vs : List (Val × Flags)) : Result :=
  { tag := f.tag.asData, r0 := .elems (vs.map Prod.fst) f.firstFmt, flags := flagsOr (vs.map Prod.snd) }

end Sys2Proof.Machine
end

