-- ==== Sys2Proof/Machine/IntOps.lean ====
section
/-! DEFINITION. Rows 0x0 and 0x1: integer arithmetic and logic, comparison, selection, bit fields, tags and time (04 R121 to
R126, R132). Each meaning names its exact result once; the firing rule, END, immediates and packed widening are shared. -/

namespace Sys2Proof.Machine

/-! ### Integer elements (R113, R121) -/

def intWidth : IntTy → Nat
  | .i32 | .n32 => 32 | .i16 => 16 | .i8 => 8
def intSigned : IntTy → Bool
  | .n32 => false
  | _ => true
def intElem (ty : IntTy) : Elem := .int (intSigned ty) (intWidth ty)

/-- Elements of a lane. -/
def intCount (ty : IntTy) : Nat := 32 / intWidth ty

/-- Element e of a lane, as an integer of the type. -/
def intAt (ty : IntTy) (lane : Word) (e : Nat) : Int :=
  intOf (intSigned ty) (intWidth ty) (laneElem (intWidth ty) (intCount ty) lane e)

/-- R121: the exact integer, saturated to the type or taken modulo 2^w. -/
def intFinish (ty : IntTy) (sat : Bool) (x : Int) : Nat × Flags :=
  let el := intElem ty
  if sat then
    let (y, f) := satInt el.lo el.hi x
    (intBits (intWidth ty) y, f)
  else (intBits (intWidth ty) x, 0)

/-- One lane of an integer operation. -/
def intLane (ty : IntTy) (sat : Bool) (f : Int → Int → Int → Int) (a b c : Word) : Word × Flags :=
  let rs := (List.range (intCount ty)).map fun e => intFinish ty sat (f (intAt ty a e) (intAt ty b e) (intAt ty c e))
  (BitVec.ofNat 32 (laneOf (intWidth ty) (rs.map Prod.fst)), flagsOr (rs.map Prod.snd))

/-- A lane-wise result of three operands (R113). -/
def lanewise (f : Fire) (w : Shape) (g : Word → Word → Word → Word × Flags) : Result :=
  let n := laneCount w
  let l := f.lanes n .L
  let r := f.lanes n .R
  let q := f.lanes n .Q
  laneResult f.tag w ((List.range n).map fun j => g (nthD 0 l j) (nthD 0 r j) (nthD 0 q j))

/-- An element widened to i32 (R60). -/
def widenInt (v : Val × Flags) : Int × Flags :=
  let (x, fl) := toIntSat .rne (-2147483648) 2147483647 0 0 v.1
  (x, fl ||| v.2)

/-- The i32 elements of a port under W = 10. -/
def Fire.intElems (f : Fire) (p : Port) : List (Int × Flags) := (f.elems (Val.ofInt f.imm.toInt) p).map widenInt

/-- A packed result of an integer operation on widened elements (R60, R114). -/
def packedInts (f : Fire) (g : Int → Int → Int → Int × Flags) : Result :=
  let l := f.intElems .L
  let r := f.intElems .R
  let q := f.intElems .Q
  elemResult f ((List.range f.count).map fun i =>
    let a := nthD (0, 0) l i
    let b := nthD (0, 0) r i
    let c := nthD (0, 0) q i
    let (x, fl) := g a.1 b.1 c.1
    (Val.ofInt x, fl ||| a.2 ||| b.2 ||| c.2))

/-- i32 after saturation or wrapping, as an integer. -/
def finish32 (sat : Bool) (x : Int) : Int × Flags :=
  if sat then satInt (-2147483648) 2147483647 x else (intOf true 32 (intBits 32 x), 0)

/-- The result of an integer node whose exact integer is a function of its elements (R121). -/
def intResult (n : GNode) (ty : IntTy) (sat : Bool) (f : Int → Int → Int → Int) (fr : Fire) : Result :=
  if n.w = .packed then packedInts fr fun a b c => finish32 sat (f a b c)
  else lanewise fr n.w (intLane ty sat f)

/-- The result of a node that works on the bits of 32-bit lanes and sets no flag. -/
def wordResult (n : GNode) (f : Word → Word → Word → Word) (fr : Fire) : Result :=
  lanewise fr n.w fun a b c => (f a b c, 0)

/-! ### Row 0x0 (R121) -/

def execAdd (n : GNode) (ty : IntTy) (sat : Bool) (s : State) : Answer :=
  .next (s.compute (.add n ty sat) (intResult n ty sat fun a b _ => a + b))

def execSub (n : GNode) (ty : IntTy) (sat : Bool) (s : State) : Answer :=
  .next (s.compute (.sub n ty sat) (intResult n ty sat fun a b _ => a - b))

def execMul (n : GNode) (ty : IntTy) (sat : Bool) (s : State) : Answer :=
  .next (s.compute (.mul n ty sat) (intResult n ty sat fun a b _ => a * b))

def execMulh (n : GNode) (ty : IntTy) (s : State) : Answer :=
  .next (s.compute (.mulh n ty) (intResult n ty false fun a b _ => a * b / (2 ^ intWidth ty : Nat)))

def execMad (n : GNode) (ty : IntTy) (sat : Bool) (s : State) : Answer :=
  .next (s.compute (.mad n ty sat) (intResult n ty sat fun a b c => a * b + c))

def execMin (n : GNode) (ty : IntTy) (s : State) : Answer :=
  .next (s.compute (.min n ty) (intResult n ty false fun a b _ => if b < a then b else a))

def execMax (n : GNode) (ty : IntTy) (s : State) : Answer :=
  .next (s.compute (.max n ty) (intResult n ty false fun a b _ => if a < b then b else a))

def execAbsn (n : GNode) (ty : IntTy) (sat neg : Bool) (s : State) : Answer :=
  .next (s.compute (.absn n ty sat neg) (intResult n ty sat fun a _ _ => if neg then -a else (a.natAbs : Int)))

def execAnd (n : GNode) (s : State) : Answer := .next (s.compute (.and n) (wordResult n fun a b _ => a &&& b))

def execOr (n : GNode) (s : State) : Answer := .next (s.compute (.or n) (wordResult n fun a b _ => a ||| b))

def execXor (n : GNode) (s : State) : Answer := .next (s.compute (.xor n) (wordResult n fun a b _ => a ^^^ b))

def execAndn (n : GNode) (s : State) : Answer := .next (s.compute (.andn n) (wordResult n fun a b _ => a &&& ~~~b))

/-- The shift count: R's element read as unsigned, modulo w (R121). -/
def shiftCount (ty : IntTy) (b : Int) : Nat := intBits (intWidth ty) b % intWidth ty

def execShl (n : GNode) (ty : IntTy) (sat : Bool) (s : State) : Answer :=
  .next (s.compute (.shl n ty sat) (intResult n ty sat fun a b _ => a * (2 ^ shiftCount ty b : Nat)))

def execShr (n : GNode) (ty : IntTy) (ar : Bool) (s : State) : Answer :=
  .next (s.compute (.shr n ty ar) (intResult n ty false fun a b _ =>
    (if ar then a else (intBits (intWidth ty) a : Int)) / (2 ^ shiftCount ty b : Nat)))

/-- The w bits of x rotated left by k < w places. -/
def rotBits (w k x : Nat) : Nat := (x * 2 ^ k + x / 2 ^ (w - k)) % 2 ^ w

def execRot (n : GNode) (ty : IntTy) (right : Bool) (s : State) : Answer :=
  .next (s.compute (.rot n ty right) (intResult n ty false fun a b _ =>
    let w := intWidth ty
    let k := shiftCount ty b
    (rotBits w (if right then (w - k) % w else k) (intBits w a) : Int)))

/-! ### Row 0x1: compare, select, bits (R122, R123) -/

/-- The conditions of cmp (R122). -/
def intCond (c : IntCond) (a b : Word) : Bool :=
  match c with
  | .eq => a == b
  | .ne => a != b
  | .lt => a.slt b
  | .ge => b.sle a
  | .ltu => a.ult b
  | .geu => b.ule a
  | .gt => b.slt a
  | .le => a.sle b
  | .gtu => b.ult a
  | .leu => a.ule b
  | .tst => a &&& b != 0
  | .ntst => a &&& b == 0

def boolWord (b : Bool) : Word := if b then 1 else 0

def execCmp (n : GNode) (c : IntCond) (s : State) : Answer :=
  .next (s.compute (.cmp n c) (wordResult n fun a b _ => boolWord (intCond c a b)))

def selResult (n : GNode) (fr : Fire) : Result :=
  if n.w = .packed then packedInts fr fun a b c => (if c ≠ 0 then a else b, 0)
  else wordResult n (fun a b c => if c ≠ 0 then a else b) fr

def execSel (n : GNode) (s : State) : Answer := .next (s.compute (.sel n) (selResult n))

/-- The result of a function of the bits of each element. -/
def bitsResult (n : GNode) (ty : IntTy) (f : Nat → Nat) (fr : Fire) : Result :=
  intResult n ty false (fun a _ _ => (f (intBits (intWidth ty) a) : Int)) fr

def execClz (n : GNode) (ty : IntTy) (s : State) : Answer :=
  .next (s.compute (.clz n ty) (bitsResult n ty fun u => if u = 0 then intWidth ty else intWidth ty - 1 - u.log2))

def popCount : Nat → Nat → Nat
  | 0, _ => 0
  | k + 1, u => u % 2 + popCount k (u / 2)

def execPopc (n : GNode) (ty : IntTy) (s : State) : Answer :=
  .next (s.compute (.popc n ty) (bitsResult n ty (popCount (intWidth ty))))

/-- pos and len of a bit-field control word (R123). -/
def fieldOf (r : Word) : Nat × Nat := (bits r 0 5, bits r 5 5 + 1)

def bitExtract (sx : Bool) (l r : Word) : Word :=
  let (pos, len) := fieldOf r
  let x := l.toNat / 2 ^ pos % 2 ^ len
  if sx && x.testBit (len - 1) then BitVec.ofNat 32 (x + 2 ^ 32 - 2 ^ len) else BitVec.ofNat 32 x

def execBext (n : GNode) (sx : Bool) (s : State) : Answer :=
  .next (s.compute (.bext n sx) (wordResult n fun a b _ => bitExtract sx a b))

def bitInsert (l r q : Word) : Word :=
  let (pos, len) := fieldOf r
  let mask := BitVec.ofNat 32 ((2 ^ len - 1) * 2 ^ pos)
  (l &&& ~~~mask) ||| (BitVec.ofNat 32 (q.toNat * 2 ^ pos) &&& mask)

def execBins (n : GNode) (s : State) : Answer := .next (s.compute (.bins n) (wordResult n bitInsert))

def leaShift : LeaScale → Nat
  | .x1 => 0 | .x4 => 2 | .x64 => 6 | .x1024 => 10

def execLea (n : GNode) (k : LeaScale) (s : State) : Answer :=
  .next (s.compute (.lea n k) (wordResult n fun a b _ => a + (b <<< leaShift k)))

def constWord (n : GNode) (m : ConstMode) : Word :=
  match m with
  | .sx => n.x.imm.signExtend 32
  | .zx => n.x.imm.zeroExtend 32
  | .hi => n.x.imm ++ (0 : BitVec 16)

def execConst (n : GNode) (m : ConstMode) (s : State) : Answer :=
  .next (s.compute (.const n m) (wordResult n fun _ _ _ => constWord n m))

/-- mov passes each packed element on as its exact value (R60, R123). -/
def movResult (n : GNode) (fr : Fire) : Result :=
  if n.w = .packed then elemResult fr (fr.elems (Val.ofInt fr.imm.toInt) .L) else wordResult n (fun a _ _ => a) fr

def execMov (n : GNode) (s : State) : Answer := .next (s.compute (.mov n) (movResult n))

def satRange : SatTo → Int × Int
  | .n32 => (0, 2147483647) | .i16 => (-32768, 32767) | .i8 => (-128, 127) | .n16 => (0, 65535) | .n8 => (0, 255)

def execSat (n : GNode) (dst : SatTo) (s : State) : Answer :=
  .next (s.compute (.sat n dst) fun fr => lanewise fr n.w fun a _ _ =>
    let (x, f) := satInt (satRange dst).1 (satRange dst).2 a.toInt
    (BitVec.ofInt 32 x, f))

def iotaResult (fr : Fire) : Result :=
  laneResult fr.tag .vec ((List.range 16).map fun j => (fr.word .L + BitVec.ofNat 32 j * fr.word .R, 0))

def execIota (n : GNode) (s : State) : Answer := .next (s.compute (.iota n) iotaResult)

/-! ### Conversions (R132) -/

/-- Element indices p and q of a conversion. -/
def convSrc (n : GNode) : Nat := n.imm % 4
def convDst (n : GNode) : Nat := n.imm / 4 % 4

/-- A lane with one element at a position and zero bits elsewhere. -/
def laneWith (w q x : Nat) : Word := BitVec.ofNat 32 (x % 2 ^ w * 2 ^ (w * q))

/-- Source integer type of a conversion: XMOD[1:0] with the codes of M[3:2]. -/
def convInt (n : GNode) : IntTy := IntTy.ofCode (n.x.xmod.extractLsb' 0 2)

def execIcvt (n : GNode) (dst : IntTy) (sat : Bool) (s : State) : Answer :=
  .next (s.compute (.icvt n dst sat) fun fr => lanewise fr n.w fun a _ _ =>
    let (x, f) := intFinish dst sat (intAt (convInt n) a (convSrc n))
    (laneWith (intWidth dst) (convDst n) x, f))

/-! ### Tags and time (R123 to R126) -/

def tagWord (t : Tag) : TagGet → Word
  | .iter => t.iter.zeroExtend 32
  | .colour => t.colour.zeroExtend 32
  | .path => BitVec.ofNat 32 (t.path.toNat + 2 ^ 8 * t.pdep.toNat)
  | .tag => BitVec.ofNat 32 t.toNat

def execTagget (n : GNode) (f : TagGet) (s : State) : Answer :=
  .next (s.compute (.tagget n f) fun fr => wordResult n (fun _ _ _ => tagWord fr.tag f) fr)

/-- A tag with the field that tagset selects written from R (R124). -/
def setTag (f : TagSet) (r : Word) (t : Tag) : Tag :=
  match f with
  | .iter => { t with iter := r.extractLsb' 0 16 }
  | .colour => { t with colour := r.extractLsb' 0 10 }
  | .path => { t with pdep := r.extractLsb' 8 3, path := maskPath (r.extractLsb' 0 7) (r.extractLsb' 8 3) }

def tagsetResult (n : GNode) (f : TagSet) (fr : Fire) : Result :=
  { tag := (setTag f (fr.word .R) fr.tag).asData, r0 := .pay (payOf n.w (fr.lanes (laneCount n.w) .L)) }

/-- The tag of a forwarded END: changed in the same way when R is an immediate (R124). -/
def tagsetEnd (n : GNode) (f : TagSet) (t : Tag) : Tag :=
  if n.x.isel = .r then setTag f (n.x.imm.signExtend 32) t else t

def execTagset (n : GNode) (f : TagSet) (s : State) : Answer :=
  .next (s.computeWith (.tagset n f) (tagsetEnd n f) (tagsetResult n f))

def execRdtime (n : GNode) (f : TimeSel) (s : State) : Answer :=
  .next (s.compute (.rdtime n f) fun fr => { tag := fr.tag.asData, r0 := .clock (.time f (n.w == .vec)) })

def execRdslack (n : GNode) (s : State) : Answer :=
  .next (s.compute (.rdslack n) fun fr => { tag := fr.tag.asData, r0 := .clock .slack })

end Sys2Proof.Machine
end

