-- ==== Sys2Proof/Machine/FloatOps.lean ====
section
/-! DEFINITION. Row 0x2: float arithmetic, comparison, sign, estimates and conversions (04 R127 to R132). Every form computes the exact
value and rounds it once (R62 to R65). Choices and readings: log entry 20. -/

namespace Sys2Proof.Machine

/-! ### Float elements -/

def floatFmt : FloatTy → FFmt
  | .f32 => .f32 | .bf16 => .bf16 | .f16 => .f16

/-- Element e of a lane, exactly. -/
def floatAt (f : FFmt) (lane : Word) (e : Nat) : Val := f.decode (laneElem f.width (32 / f.width) lane e)

/-- One lane of a float operation on exact values. -/
def floatLane (f : FFmt) (g : Val → Val → Val → Val × Flags) (a b c : Word) : Word × Flags :=
  let rs := (List.range (32 / f.width)).map fun e => g (floatAt f a e) (floatAt f b e) (floatAt f c e)
  (BitVec.ofNat 32 (laneOf f.width (rs.map fun r => f.encode r.1)), flagsOr (rs.map Prod.snd))

/-- The f32 value that an immediate gives every element under W = 10 (R89). -/
def Fire.immFloat (f : Fire) : Val := FFmt.f32.decode f.imm.toNat

/-- An element widened to f32 (R60). -/
def widenFloat (mode : Round) (v : Val × Flags) : Val × Flags :=
  let (x, fl) := roundDir .f32 mode v.1
  (x, fl ||| v.2)

def Fire.floatElems (f : Fire) (mode : Round) (p : Port) : List (Val × Flags) := (f.elems f.immFloat p).map (widenFloat mode)

/-- A packed result of a float operation on widened elements (R60, R114). -/
def packedFloats (f : Fire) (mode : Round) (g : Val → Val → Val → Val × Flags) : Result :=
  let l := f.floatElems mode .L
  let r := f.floatElems mode .R
  let q := f.floatElems mode .Q
  elemResult f ((List.range f.count).map fun i =>
    let a := nthD (.zero, 0) l i
    let b := nthD (.zero, 0) r i
    let c := nthD (.zero, 0) q i
    let (x, fl) := g a.1 b.1 c.1
    (x, fl ||| a.2 ||| b.2 ||| c.2))

/-- The result of a float node: g computes in the format it is given. -/
def floatResult (n : GNode) (ty : FloatTy) (mode : Round) (g : FFmt → Val → Val → Val → Val × Flags) (fr : Fire) : Result :=
  if n.w = .packed then packedFloats fr mode (g .f32) else lanewise fr n.w (floatLane (floatFmt ty) (g (floatFmt ty)))

/-- A rounding of an exact value with the flags that forming it set. -/
def rounded (f : FFmt) (mode : Round) (v : Val × Flags) : Val × Flags :=
  let (x, fl) := roundDir f mode v.1
  (x, fl ||| v.2)

/-! ### Arithmetic (R127) -/

def fmaExact (mode : Round) (a b c : Val) : Val × Flags :=
  let (p, f) := mulExact a b
  let (x, g) := addExact mode p c
  (x, f ||| g)

/-- frnd: an integral value in the mode, the sign of zero kept, NX when it differs (R127). -/
def roundIntegral (mode : Round) (v : Val) : Val × Flags :=
  match v with
  | .nan q => (.nan false, Flags.when q fNV)
  | .inf n => (.inf n, 0)
  | .num n m e =>
    let (q, inexact) := roundMag mode n m e
    (.num n q 0, Flags.when inexact fNX)

def execFadd (n : GNode) (ty : FloatTy) (rm : Round) (s : State) : Answer :=
  .next (s.compute (.fadd n ty rm) (floatResult n ty rm fun f a b _ => rounded f rm (addExact rm a b)))

def execFsub (n : GNode) (ty : FloatTy) (rm : Round) (s : State) : Answer :=
  .next (s.compute (.fsub n ty rm) (floatResult n ty rm fun f a b _ => rounded f rm (addExact rm a b.neg)))

def execFmul (n : GNode) (ty : FloatTy) (rm : Round) (s : State) : Answer :=
  .next (s.compute (.fmul n ty rm) (floatResult n ty rm fun f a b _ => rounded f rm (mulExact a b)))

def execFfma (n : GNode) (ty : FloatTy) (rm : Round) (s : State) : Answer :=
  .next (s.compute (.ffma n ty rm) (floatResult n ty rm fun f a b c => rounded f rm (fmaExact rm a b c)))

def execFrnd (n : GNode) (ty : FloatTy) (rm : Round) (s : State) : Answer :=
  .next (s.compute (.frnd n ty rm) (floatResult n ty rm fun _ a _ _ => roundIntegral rm a))

/-! ### Minimum, maximum, comparison, sign (R128 to R130) -/

/-- The lesser or greater of two values under R128; equal operands give the first. -/
def pickFloat (greater : Bool) (a b : Val) : Val × Flags :=
  let fl := a.sigFlag ||| b.sigFlag
  match a.isNan, b.isNan with
  | true, true => (.nan false, fl)
  | true, false => (b, fl)
  | false, true => (a, fl)
  | false, false =>
    let takeB := if greater then a.total b == some .lt else a.total b == some .gt
    (if takeB then b else a, fl)

def execFmin (n : GNode) (ty : FloatTy) (s : State) : Answer :=
  .next (s.compute (.fmin n ty) (floatResult n ty .rne fun _ a b _ => pickFloat false a b))

def execFmax (n : GNode) (ty : FloatTy) (s : State) : Answer :=
  .next (s.compute (.fmax n ty) (floatResult n ty .rne fun _ a b _ => pickFloat true a b))

/-- Whether a condition of fcmp holds (R129). -/
def floatCond (c : FloatCond) (a b : Val) : Bool :=
  let o := a.cmp b
  let un := o.isNone
  let eq := o == some .eq
  let lt := o == some .lt
  let gt := o == some .gt
  match c with
  | .oeq => eq
  | .one => lt || gt
  | .olt => lt
  | .oge => eq || gt
  | .ogt => gt
  | .ole => eq || lt
  | .ord => !un
  | .ueq => un || eq
  | .une => un || lt || gt
  | .ult => un || lt
  | .uge => un || eq || gt
  | .ugt => un || gt
  | .ule => un || eq || lt
  | .uno => un

/-- NV of fcmp (R129). -/
def floatCondFlags (c : FloatCond) (a b : Val) : Flags :=
  let signalling : Bool := match c with
    | .olt | .oge | .ogt | .ole => a.isNan || b.isNan
    | _ => false
  Flags.when (signalling || a.isSig || b.isSig) fNV

def fcmpResult (n : GNode) (c : FloatCond) (fr : Fire) : Result :=
  if n.w = .packed then
    packedFloats fr .rne fun a b _ => (if floatCond c a b then .one else .zero, floatCondFlags c a b)
  else lanewise fr n.w fun a b _ =>
    let x := floatAt .f32 a 0
    let y := floatAt .f32 b 0
    (boolWord (floatCond c x y), floatCondFlags c x y)

def execFcmp (n : GNode) (c : FloatCond) (s : State) : Answer := .next (s.compute (.fcmp n c) (fcmpResult n c))

/-- The sign that an operation of fsgn computes from the sign bits of L and R (R130). -/
def signOf (op : SignOp) (l r : Bool) : Bool :=
  match op with
  | .copy => r
  | .ncopy => !r
  | .xsgn => l != r
  | .abs => false

/-- fsgn on an element's bits: a NaN in L gives the canonical NaN. -/
def signElem (f : FFmt) (op : SignOp) (a b : Nat) : Nat :=
  let top (x : Nat) : Bool := x.testBit (f.width - 1)
  if (f.decode a).isNan then f.nanBits
  else a % 2 ^ (f.width - 1) + (if signOf op (top a) (top b) then 2 ^ (f.width - 1) else 0)

def fsgnResult (n : GNode) (ty : FloatTy) (op : SignOp) (fr : Fire) : Result :=
  if n.w = .packed then
    packedFloats fr .rne fun a b _ => (a.withSign (signOf op a.isNeg b.isNeg), 0)
  else lanewise fr n.w fun a b _ =>
    let f := floatFmt ty
    let k := 32 / f.width
    (BitVec.ofNat 32 (laneOf f.width ((List.range k).map fun e =>
      signElem f op (laneElem f.width k a e) (laneElem f.width k b e))), 0)

def execFsgn (n : GNode) (ty : FloatTy) (op : SignOp) (s : State) : Answer :=
  .next (s.compute (.fsgn n ty op) (fsgnResult n ty op))

/-! ### Estimates (R131) -/

def execFrcpe (n : GNode) (ty : FloatTy) (s : State) : Answer :=
  .next (s.compute (.frcpe n ty) (floatResult n ty .rne fun f a _ _ => estRcp f a))

def execFrsqe (n : GNode) (ty : FloatTy) (s : State) : Answer :=
  .next (s.compute (.frsqe n ty) (floatResult n ty .rne fun f a _ _ => estRsq f a))

def execFexp2e (n : GNode) (ty : FloatTy) (s : State) : Answer :=
  .next (s.compute (.fexp2e n ty) (floatResult n ty .rne fun f a _ _ => estExp2 f a))

def execFlog2e (n : GNode) (ty : FloatTy) (s : State) : Answer :=
  .next (s.compute (.flog2e n ty) (floatResult n ty .rne fun f a _ _ => estLog2 f a))

/-! ### Conversions (R132) -/

/-- Source float type of a conversion: XMOD[1:0] with the codes of M[3:2]; the reserved code never passes the loader. -/
def convFloat (n : GNode) : FFmt := floatFmt ((FloatTy.ofCode (n.x.xmod.extractLsb' 0 2)).getD .f32)

def execFcvt (n : GNode) (dst : FloatTy) (rm : Round) (s : State) : Answer :=
  .next (s.compute (.fcvt n dst rm) fun fr => lanewise fr n.w fun a _ _ =>
    let (x, f) := roundDir (floatFmt dst) rm (floatAt (convFloat n) a (convSrc n))
    (laneWith (floatFmt dst).width (convDst n) ((floatFmt dst).encode x), f))

def execFtoi (n : GNode) (dst : IntTy) (rm : Round) (s : State) : Answer :=
  .next (s.compute (.ftoi n dst rm) fun fr => lanewise fr n.w fun a _ _ =>
    let el := intElem dst
    let (x, f) := toIntSat rm el.lo el.hi 0 0 (floatAt (convFloat n) a (convSrc n))
    (laneWith (intWidth dst) (convDst n) (intBits (intWidth dst) x), f))

def execItof (n : GNode) (dst : FloatTy) (rm : Round) (s : State) : Answer :=
  .next (s.compute (.itof n dst rm) fun fr => lanewise fr n.w fun a _ _ =>
    let (x, f) := roundDir (floatFmt dst) rm (Val.ofInt (intAt (convInt n) a (convSrc n)))
    (laneWith (floatFmt dst).width (convDst n) ((floatFmt dst).encode x), f))

end Sys2Proof.Machine
end

