-- ==== Sys2Proof/Machine/Narrow.lean ====
section
/-! DEFINITION. Row 0x3: narrow formats, stochastic rounding, LNS, scaling, quantisation and the dot product (04 R133 to R142). Elements
are counted over the whole token (R133). Choices and readings: log entries 20, 71. -/

namespace Sys2Proof.Machine

/-- Elements of a token under a format code, as bits. -/
def rawElems (fmt : Nat) (ls : List Word) : List Nat :=
  match fmtElem fmt with
  | none => []
  | some (el, k) => elemsOf el.width k ls

/-- Source offset or position, IMM[15:8]. -/
def offsetOf (n : GNode) : Nat := n.imm / 256

/-- A result whose lanes hold elements of a format by position; n lanes. -/
def formatResult (fr : Fire) (w : Shape) (fmt : Nat) (f : Nat → Nat × Flags) : Result :=
  let n := laneCount w
  match fmtElem fmt with
  | none => { tag := fr.tag.asData, r0 := .pay (payOf w (List.replicate n 0)) }
  | some (el, k) =>
    let rs := (List.range (n * k)).map f
    { tag := fr.tag.asData, r0 := .pay (payOf w (lanesOf el.width k n (rs.map Prod.fst))), flags := flagsOr (rs.map Prod.snd) }

/-- A result whose lane j is a word. -/
def laneIndexed (fr : Fire) (w : Shape) (f : Nat → Word × Flags) : Result :=
  laneResult fr.tag w ((List.range (laneCount w)).map f)

/-- The value of an element's bits under a format; zero for the codes without plain elements. -/
def fmtValue (fmt b : Nat) : Val :=
  match fmtElem fmt with
  | none => .zero
  | some (el, _) => el.value b

/-- The bits of a value converted to a format in a mode, without a scale (R134). -/
def convertTo (fmt : Nat) (mode : Round) (v : Val) : Nat × Flags :=
  match fmtElem fmt with
  | none => (0, 0)
  | some (.flt f, _) => let (x, fl) := roundDir f mode v; (f.encode x, fl)
  | some (.int s w, _) =>
    let el : Elem := .int s w
    let (x, fl) := toIntSat mode el.lo el.hi 0 0 v
    (intBits w x, fl)

/-! ### cvtch, pack, unpack, sround (R134 to R137) -/

def cvtchResult (n : GNode) (rm : Round) (fr : Fire) : Result :=
  let src := rawElems n.xmod (fr.lanes (laneCount n.w) .L)
  formatResult fr n.w (n.imm % 32) fun i =>
    match src[offsetOf n + i]? with
    | none => (0, 0)
    | some b => convertTo (n.imm % 32) rm (fmtValue n.xmod b)

def execCvtch (n : GNode) (rm : Round) (s : State) : Answer := .next (s.compute (.cvtch n rm) (cvtchResult n rm))

/-- A lane read as the f32 or i32 that pack encodes (R135). -/
def packSource (el : Elem) (l : Word) : Val := if el.isFloat then FFmt.f32.decode l.toNat else Val.ofInt l.toInt

def packResult (n : GNode) (fr : Fire) : Result :=
  let k := laneCount n.w
  let src := fr.lanes k .L ++ fr.lanes k .R
  formatResult fr n.w n.xmod fun i =>
    match src[i]?, fmtElem n.xmod with
    | some l, some (el, _) => chanEncode el .identity (packSource el l)
    | _, _ => (0, 0)

def execPack (n : GNode) (s : State) : Answer := .next (s.compute (.pack n) (packResult n))

/-- An element widened to an f32 or i32 word (R136). -/
def widenWord (fmt b : Nat) : Word × Flags :=
  match fmtElem fmt with
  | none => (0, 0)
  | some (.flt f, _) => let (x, fl) := roundDir .f32 .rne (f.decode b); (BitVec.ofNat 32 (FFmt.f32.encode x), fl)
  | some (.int s w, _) => (BitVec.ofInt 32 (intOf s w b), 0)

def unpackLanes (n : GNode) (src : List Nat) (from_ : Nat) : List (Word × Flags) :=
  (List.range (laneCount n.w)).map fun j =>
    match src[from_ + j]? with
    | none => (0, 0)
    | some b => widenWord n.xmod b

/-- unpack (R136). Without a target T1 the elements meant for it set no flag: DESIGN CHOICE, log entry 71. -/
def unpackResult (n : GNode) (fr : Fire) : Result :=
  let k := laneCount n.w
  let src := rawElems n.xmod (fr.lanes k .L)
  let lo := unpackLanes n src (offsetOf n)
  let hi := unpackLanes n src (offsetOf n + k)
  { tag := fr.tag.asData
    r0 := .pay (payOf n.w (lo.map Prod.fst))
    r1 := some (.pay (payOf n.w (hi.map Prod.fst)))
    flags := flagsOr (lo.map Prod.snd) ||| (if n.t1 = .none then 0 else flagsOr (hi.map Prod.snd)) }

def execUnpack (n : GNode) (s : State) : Answer := .next (s.compute (.unpack n) (unpackResult n))

/-- The random bits of destination position i (R137). -/
def roundBits16 (rs : List Word) (i : Nat) : Nat :=
  let n := rs.length
  let w := (nthD 0 rs (i % n)).toNat
  if i / n % 2 = 0 then w / 2 ^ 16 else w % 2 ^ 16

def sroundResult (n : GNode) (fr : Fire) : Result :=
  let k := laneCount n.w
  let src := rawElems n.xmod (fr.lanes k .L)
  let rs := fr.lanes k .R
  formatResult fr n.w (n.imm % 32) fun i =>
    match src[offsetOf n + i]?, fmtElem (n.imm % 32) with
    | some b, some (.flt f, _) =>
      let (x, fl) := roundStoch f (fmtValue n.xmod b) (roundBits16 rs i)
      (f.encode x, fl)
    | _, _ => (0, 0)

def execSround (n : GNode) (s : State) : Answer := .next (s.compute (.sround n) (sroundResult n))

/-! ### LNS6 (R138, R139) -/

/-- LNS6 element e of a lane. -/
def lnsAt (l : Word) (e : Nat) : Nat := laneElem 6 5 l e

def lmulLane (a b : Word) : Word × Flags :=
  let rs := (List.range 5).map fun e => lnsMul (lnsAt a e) (lnsAt b e)
  (BitVec.ofNat 32 (laneOf 6 (rs.map Prod.fst)), flagsOr (rs.map Prod.snd))

def execLmul (n : GNode) (s : State) : Answer :=
  .next (s.compute (.lmul n) fun fr => lanewise fr n.w fun a b _ => lmulLane a b)

def laccLane (a b q : Word) : Word × Flags :=
  let ts := (List.range 5).map fun e => linFromLog (lnsAt a e) (lnsAt b e)
  let (x, f) := q16Sat (q.toInt + (ts.map Prod.fst).foldl (· + ·) 0)
  (BitVec.ofInt 32 x, f ||| flagsOr (ts.map Prod.snd))

def execLacc (n : GNode) (s : State) : Answer := .next (s.compute (.lacc n) fun fr => lanewise fr n.w laccLane)

/-- 2^(c/4) with a sign, rounded RNE to f32 (R139): the fraction of the exponent by two integer square roots. -/
def lnsValue (b : Nat) : Val × Flags :=
  if lnsIsZero b then (.zero, 0)
  else if lnsIsNaR b then (.nan false, fNV)
  else
    let c := lnsCode b
    let i := c / 4
    let f := (c % 4).toNat
    if f = 0 then (.num (lnsNeg b) 1 i, 0)
    else roundDir .f32 .rne (.num (lnsNeg b) (2 * isqrt (isqrt (2 ^ (f + 160))) + 1) (i - 41))

/-- RoundNE(4 log2 |x|) and whether it was exact; from floor (8 log2 |x|), whose ties never occur off a power of two. -/
def lnsCodeOf (m : Nat) (e : Int) : Int × Bool :=
  let l8 := lead (m ^ 8) (8 * e)
  ((l8 + 1) / 2, decide (m = 2 ^ m.log2))

/-- The LNS6 code of an f32 (R139). -/
def lnsEncode (v : Val) : Nat × Flags :=
  match v with
  | .nan _ => (0x30, fNV)
  | .inf _ => (0x30, fNV)
  | .num n m e =>
    if m = 0 then (0x10, 0)
    else
      let (c, exact) := lnsCodeOf m e
      if c < -15 then (0x10, fUF ||| fNX)
      else if c > 15 then (lnsBits n 15, fSat)
      else (lnsBits n c, Flags.when (!exact) fNX)

def lcvtFrom (n : GNode) (fr : Fire) : Result :=
  let src := elemsOf 6 5 (fr.lanes (laneCount n.w) .L)
  laneIndexed fr n.w fun j =>
    match src[offsetOf n + j]? with
    | none => (0, 0)
    | some b => let (x, f) := lnsValue b; (BitVec.ofNat 32 (FFmt.f32.encode x), f)

def lcvtTo (n : GNode) (fr : Fire) : Result :=
  let k := laneCount n.w
  let rs := (List.range (5 * k)).map fun i =>
    if i < offsetOf n then (0x10, (0 : Flags))
    else match (fr.lanes k .L)[i - offsetOf n]? with
      | none => (0x10, 0)
      | some l => lnsEncode (FFmt.f32.decode l.toNat)
  { tag := fr.tag.asData, r0 := .pay (payOf n.w (lanesOf 6 5 k (rs.map Prod.fst))), flags := flagsOr (rs.map Prod.snd) }

def execLcvt (n : GNode) (tolns : Bool) (s : State) : Answer :=
  .next (s.compute (.lcvt n tolns) (if tolns then lcvtTo n else lcvtFrom n))

/-! ### Scale (R140, R141) -/

/-- a × 2^n, rounded once to the type (R140). Under W = 10 an immediate at L, which R89 gives no element value in row 0x3, is the f32 whose
bits are the sign-extended IMM: DESIGN CHOICE, log entry 71. -/
def sclResult (n : GNode) (ty : FloatTy) (rm : Round) (fr : Fire) : Result :=
  if n.w = .packed then
    let l := fr.elems fr.immFloat .L
    let r := (fr.elems (Val.ofInt fr.imm.toInt) .R).map widenInt
    elemResult fr ((List.range fr.count).map fun i =>
      let a := nthD (.zero, 0) l i
      let k := nthD (0, 0) r i
      let (x, f) := rounded (floatFmt ty) rm (a.1.scale k.1, a.1.sigFlag)
      (x, f ||| a.2 ||| k.2))
  else
    lanewise fr n.w fun a b _ => floatLane (floatFmt ty) (fun x _ _ => rounded (floatFmt ty) rm (x.scale b.toInt, x.sigFlag)) a 0 0

def execScl (n : GNode) (ty : FloatTy) (rm : Round) (s : State) : Answer :=
  .next (s.compute (.scl n ty rm) (sclResult n ty rm))

/-- The scale register of qnt and dqnt, read at S2 (R59, R141). -/
def scaleOf (n : GNode) (fr : Fire) : Scale := fr.tile.scaleAt (n.imm % 16) (fr.now + 1)

def qntResult (n : GNode) (fr : Fire) : Result :=
  let ls := fr.lanes (laneCount n.w) .L
  formatResult fr n.w n.xmod fun i =>
    if i < offsetOf n then (0, 0)
    else match ls[i - offsetOf n]?, fmtElem n.xmod with
      | some l, some (el, _) => chanEncode el (scaleOf n fr) (FFmt.f32.decode l.toNat)
      | _, _ => (0, 0)

def execQnt (n : GNode) (s : State) : Answer := .next (s.compute (.qnt n) (qntResult n))

def dqntResult (n : GNode) (rm : Round) (fr : Fire) : Result :=
  let src := rawElems n.xmod (fr.lanes (laneCount n.w) .L)
  laneIndexed fr n.w fun j =>
    match src[offsetOf n + j]?, fmtElem n.xmod with
    | some b, some (el, _) =>
      let (x, f) := rounded .f32 rm (chanDecode el (scaleOf n fr) b)
      (BitVec.ofNat 32 (FFmt.f32.encode x), f)
    | _, _ => (0, 0)

def execDqnt (n : GNode) (rm : Round) (s : State) : Answer := .next (s.compute (.dqnt n rm) (dqntResult n rm))

/-! ### The tree of R68 and the dot product (R142) -/

/-- One level of the pairwise tree. -/
def treeLevel {α : Type} (op : α → α → α × Flags) : List α → List α × Flags
  | a :: b :: rest =>
    let (x, f) := op a b
    let (xs, g) := treeLevel op rest
    (x :: xs, f ||| g)
  | xs => (xs, 0)

/-- The tree over 16 lanes: four levels. -/
def tree {α : Type} (d : α) (op : α → α → α × Flags) (xs : List α) : α × Flags :=
  let (a, f1) := treeLevel op xs
  let (b, f2) := treeLevel op a
  let (c, f3) := treeLevel op b
  let (r, f4) := treeLevel op c
  (nthD d r 0, f1 ||| f2 ||| f3 ||| f4)

/-- A float node of the tree. -/
def addFloat (mode : Round) (a b : Val) : Val × Flags := rounded .f32 mode (addExact mode a b)

/-- An i32 node of the tree. -/
def addInt (sat : Bool) (a b : Int) : Int × Flags := finish32 sat (a + b)

/-- Formats of dot: IMM[4:0] for L, IMM[12:8] for R, block IMM[15:13]; width codes XMOD[5:3] and XMOD[2:0]. -/
def dotFmtL (n : GNode) : Nat := n.imm % 32
def dotFmtR (n : GNode) : Nat := n.imm / 256 % 32
def dotBlock (n : GNode) : Nat := n.imm / 8192

/-- The elements of one operand that take part: all of the narrower one, block b of the wider. -/
def dotPart (count : Nat) (b : Nat) (xs : List Val) : List Val := if xs.length = count then xs else (xs.drop (b * count)).take count

def reduceAll (fmt code : Nat) (ls : List Word) : List Val :=
  match fmtElem fmt with
  | none => []
  | some (el, k) => (elemsOf el.width k ls).map (reduceElem el code)

/-- The exact products of paired elements, with the flags of forming them. -/
def products (xs ys : List Val) : List (Val × Flags) := (xs.zip ys).map fun (x, y) => mulExact x y

/-- An exact integer out of an exact value. -/
def Val.toInt : Val → Int
  | .num n m e => let x : Int := (m * 2 ^ e.toNat : Nat); if n then -x else x
  | _ => 0

def floatLeaf (mode : Round) (ps : List (Val × Flags)) : Val × Flags :=
  let (x, f) := rounded .f32 mode (sumExact mode (ps.map Prod.fst))
  (x, f ||| flagsOr (ps.map Prod.snd))

def intLeaf (sat : Bool) (ps : List (Val × Flags)) : Int × Flags :=
  finish32 sat ((ps.map fun p => p.1.toInt).foldl (· + ·) 0)

/-- The leaves' product groups: 16 of a vector, one of a word. -/
def leafGroups (w : Shape) (ps : List (Val × Flags)) : List (List (Val × Flags)) :=
  if w = .word then [ps]
  else
    let k := ps.length / 16
    (List.range 16).map fun j => (ps.drop (j * k)).take k

def dotIsFloat (n : GNode) : Bool := match fmtElem (dotFmtL n) with
  | some (el, _) => el.isFloat
  | none => false

def dotResult (n : GNode) (q sat : Bool) (rm : Round) (fr : Fire) : Result :=
  let k := laneCount n.w
  let xs := reduceAll (dotFmtL n) (n.xmod / 8) (fr.lanes k .L)
  let ys := reduceAll (dotFmtR n) (n.xmod % 8) (fr.lanes k .R)
  let count := min xs.length ys.length
  let groups := leafGroups n.w (products (dotPart count (dotBlock n) xs) (dotPart count (dotBlock n) ys))
  let out (w : Word) (f : Flags) : Result := { tag := fr.tag.asData, r0 := .pay (.word w), flags := f }
  if dotIsFloat n then
    let leaves := groups.map (floatLeaf rm)
    let (root, f) := if n.w = .word then (nthD .zero (leaves.map Prod.fst) 0, 0)
      else tree .zero (addFloat rm) (leaves.map Prod.fst)
    let (y, g) := if q then addFloat rm root (FFmt.f32.decode (fr.word .Q).toNat) else (root, 0)
    out (BitVec.ofNat 32 (FFmt.f32.encode y)) (flagsOr (leaves.map Prod.snd) ||| f ||| g)
  else
    let leaves := groups.map (intLeaf sat)
    let (root, f) := if n.w = .word then (nthD 0 (leaves.map Prod.fst) 0, 0)
      else tree 0 (addInt sat) (leaves.map Prod.fst)
    let (y, g) := if q then addInt sat root (fr.word .Q).toInt else (root, 0)
    out (BitVec.ofInt 32 y) (flagsOr (leaves.map Prod.snd) ||| f ||| g)

def execDot (n : GNode) (q sat : Bool) (rm : Round) (s : State) : Answer :=
  .next (s.compute (.dot n q sat rm) (dotResult n q sat rm))

end Sys2Proof.Machine
end

