-- ==== Sys2Proof/Machine/Lane.lean ====
section
/-! DEFINITION. Row 0x4: reductions, permutations, scans and lane access (04 R143 to R145). Choices and readings: log entries 20, 22, 71.
-/

namespace Sys2Proof.Machine

def wordOut (fr : Fire) (r : Word × Flags) : Result := { tag := fr.tag.asData, r0 := .pay (.word r.1), flags := r.2 }
def vecOut (fr : Fire) (f : Nat → Word) : Result := { tag := fr.tag.asData, r0 := .pay (.vec ((List.range 16).map f)) }

/-- A 32-bit integer sum, saturated or wrapped. -/
def finishWord (uns sat : Bool) (x : Int) : Word × Flags :=
  let (y, f) := intFinish (if uns then .n32 else .i32) sat x
  (BitVec.ofNat 32 y, f)

/-- The sum of two lanes (R68, R143). -/
def sumLane (m : SumMode) (a b : Word) : Word × Flags :=
  match m with
  | .flt rm =>
    let (x, f) := addFloat rm (FFmt.f32.decode a.toNat) (FFmt.f32.decode b.toNat)
    (BitVec.ofNat 32 (FFmt.f32.encode x), f)
  | .int uns sat =>
    let v (x : Word) : Int := if uns then x.toNat else x.toInt
    finishWord uns sat (v a + v b)

/-- The lesser or greater of two lanes of a type; the first of equals (R143). -/
def pickLane (ty : LaneTy) (greater : Bool) (a b : Word) : Word × Flags :=
  match ty with
  | .i32 => (if (if greater then a.slt b else b.slt a) then b else a, 0)
  | .n32 => (if (if greater then a.ult b else b.ult a) then b else a, 0)
  | .f32 =>
    let (x, f) := pickFloat greater (FFmt.f32.decode a.toNat) (FFmt.f32.decode b.toNat)
    (BitVec.ofNat 32 (FFmt.f32.encode x), f)

def sumLaneTy : SumMode → LaneTy
  | .flt _ => .f32
  | .int true _ => .n32
  | .int false _ => .i32

def execRsum (n : GNode) (m : SumMode) (s : State) : Answer :=
  .next (s.compute (.rsum n m) fun fr => wordOut fr (tree 0 (sumLane m) (fr.lanes 16 .L)))

def execRmax (n : GNode) (ty : LaneTy) (s : State) : Answer :=
  .next (s.compute (.rmax n ty) fun fr => wordOut fr (tree 0 (pickLane ty true) (fr.lanes 16 .L)))

def execRmin (n : GNode) (ty : LaneTy) (s : State) : Answer :=
  .next (s.compute (.rmin n ty) fun fr => wordOut fr (tree 0 (pickLane ty false) (fr.lanes 16 .L)))

/-- A lane index taken from a word: bits [3:0] (R143). -/
def laneIx (w : Word) : Nat := w.toNat % 16

def execPerm (n : GNode) (s : State) : Answer :=
  .next (s.compute (.perm n) fun fr => vecOut fr fun j => nthD 0 (fr.lanes 16 .L) (laneIx (nthD 0 (fr.lanes 16 .R) j)))

def execBcast (n : GNode) (s : State) : Answer :=
  .next (s.compute (.bcast n) fun fr => vecOut fr fun _ => nthD 0 (fr.lanes 16 .L) (laneIx (fr.word .R)))

/-- Lane j of a lane shift or rotation by n (R143). -/
def shiftLane (rot : Bool) (ls : List Word) (n : Int) (j : Nat) : Word :=
  let k := (j : Int) - n
  if rot then nthD 0 ls (k % 16).toNat
  else if 0 ≤ k ∧ k ≤ 15 then nthD 0 ls k.toNat else 0

def execLsh (n : GNode) (rot : Bool) (s : State) : Answer :=
  .next (s.compute (.lsh n rot) fun fr => vecOut fr (shiftLane rot (fr.lanes 16 .L) (fr.word .R).toInt))

/-- The inclusive prefix in order, from the lane before (R143). -/
def scanFrom (op : Word → Word → Word × Flags) : Word → List Word → List (Word × Flags)
  | _, [] => []
  | acc, x :: xs => let (y, f) := op acc x; (y, f) :: scanFrom op y xs

/-- The operation of a scan: XMOD .max and .min, or the sum. -/
def scanOp (n : GNode) (m : SumMode) : Word → Word → Word × Flags :=
  if n.xmod = 1 then pickLane (sumLaneTy m) true else if n.xmod = 2 then pickLane (sumLaneTy m) false else sumLane m

/-- A lane passed on as it is: a NaN of f32 becomes the canonical NaN (R144), with NV when it signals (R46). -/
def laneWritten (ty : LaneTy) (a : Word) : Word × Flags :=
  match ty with
  | .f32 => let x := FFmt.f32.decode a.toNat; (if x.isNan then 0x7FC00000 else a, x.sigFlag)
  | _ => (a, 0)

/-- s0 is lane 0, a NaN of f32 in its canonical form (R46: no NaN that a node produces keeps a payload; log entry 71). XMOD .max and .min make
no use of M[1:0] (R143), which are accepted as they stand: DESIGN CHOICE, log entry 71. -/
def scanResult (n : GNode) (m : SumMode) (fr : Fire) : Result :=
  match fr.lanes 16 .L with
  | [] => laneResult fr.tag .vec []
  | x :: xs => laneResult fr.tag .vec (laneWritten (sumLaneTy m) x :: scanFrom (scanOp n m) x xs)

def execScan (n : GNode) (m : SumMode) (s : State) : Answer := .next (s.compute (.scan n m) (scanResult n m))

/-- Whether the value of lane a orders strictly above that of lane b (R144): for f32, NaN above +∞ and −0 below +0. -/
def laneAbove (ty : LaneTy) (a b : Word) : Bool :=
  match ty with
  | .i32 => b.slt a
  | .n32 => b.ult a
  | .f32 =>
    let x := FFmt.f32.decode a.toNat
    let y := FFmt.f32.decode b.toNat
    if x.isNan then !y.isNan else !y.isNan && x.total y == some .gt

/-- Lane j after the compare-exchange (R144). -/
def cmpxLane (ty : LaneTy) (d bsel : Nat) (ls : List Word) (j : Nat) : Word × Flags :=
  let low := if j.testBit d then j - 2 ^ d else j
  let a := nthD 0 ls low
  let b := nthD 0 ls (low + 2 ^ d)
  let down := decide (bsel ≤ 3) && low.testBit bsel
  let swap := if down then laneAbove ty b a else laneAbove ty a b
  laneWritten ty (if (low == j) == swap then b else a)

def execCmpx (n : GNode) (ty : LaneTy) (s : State) : Answer :=
  .next (s.compute (.cmpx n ty) fun fr =>
    laneResult fr.tag .vec ((List.range 16).map (cmpxLane ty (n.xmod % 4) (n.xmod / 8) (fr.lanes 16 .L))))

def execSplat (n : GNode) (s : State) : Answer := .next (s.compute (.splat n) fun fr => vecOut fr fun _ => fr.word .L)

def execLget (n : GNode) (s : State) : Answer :=
  .next (s.compute (.lget n) fun fr => wordOut fr (nthD 0 (fr.lanes 16 .L) (laneIx (fr.word .R)), 0))

def execLset (n : GNode) (s : State) : Answer :=
  .next (s.compute (.lset n) fun fr => vecOut fr fun j =>
    if j = laneIx (fr.word .R) then fr.word .Q else nthD 0 (fr.lanes 16 .L) j)

/-- Firings of the resident vector already done (R145): the entry is held for 16 firings, whatever its sticky count (DESIGN CHOICE, log
entry 71). -/
def wcvLane (e : Entry) : Nat := (16 - e.left % 16) % 16

def wcvResult (fr : Fire) : Result :=
  match fr.entry .L with
  | none => wordOut fr (0, 0)
  | some e =>
    let j := wcvLane e
    { tag := { fr.tag.asData with iter := fr.tag.iter * 16 + BitVec.ofNat 16 j }
      r0 := .pay (.word (nthD 0 e.tok.pay.toVec j))
      r1 := some (.pay (.word (BitVec.ofNat 32 (4 * j)))) }

def execWcv (n : GNode) (s : State) : Answer := .next (s.compute (.wcv n) wcvResult)

end Sys2Proof.Machine
end

