-- ==== Sys2Proof/Machine/Dataflow.lean ====
section
/-! DEFINITION. Row 0x5: steering, loops, streams, spawn, arbitration, random tokens and reordering (05 R147 to R181). Choices and
readings: log entries 19, 20, 21, 71. -/

namespace Sys2Proof.Machine

/-! ### Shared forms -/

/-- The payload of a port in the shape of W. -/
def Fire.pay (f : Fire) (w : Shape) (p : Port) : Payload := payOf w (f.lanes (laneCount w) p)

/-- A payload as a port of shape W holds it: a word is broadcast on arrival at a vector port (R20). -/
def shaped (w : Shape) (p : Payload) : Payload := if w = .word then .word p.lane0 else .vec p.toVec

/-- KIND of the token a forwarding node forwards (R149). -/
def Fire.kindOf (f : Fire) (p : Port) : Kind := ((f.entry p).map fun e => e.tok.tag.kind).getD .data

/-- The firing rule on a choice of ports: traps STREAM_MISMATCH, waits, or goes on. -/
def State.dispatch (s : State) (c : Choice) (onFire : Tag → List Entry → State) (onEnd : Tag → Nat → List Entry → State) :
    State :=
  match c with
  | .stall r => s.setStall r
  | .mismatch tag => s.trapAt clsStreamMismatch tag 0 0
  | .fire tag took => onFire tag took
  | .fin tag level took => onEnd tag level took

/-- As State.atNode, with both outcomes of the firing rule. -/
def State.onNode (s : State) (i : Instr) (onFire : Tag → List Entry → State) (onEnd : Tag → Nat → List Entry → State) :
    State :=
  s.atNode i fun c => s.dispatch c onFire onEnd

/-- Matching on a list of ports of the selected node. -/
def State.chooseOn (s : State) (i : Instr) (ps : List Port) : Choice :=
  let t := s.tile s.selTile
  if t.isStatic s.sel.blk then t.chooseStatic s.sel.blk s.sel.slot i ps else t.chooseTagged s.sel.blk s.sel.slot i ps

/-- The entries that a node which fires on one port at a time may take: the head in static mode, all of the port otherwise. -/
def State.candidates (s : State) (p : Port) : List Entry :=
  let t := s.tile s.selTile
  let es := t.at s.sel.blk s.sel.slot p
  if t.isStatic s.sel.blk then es.take 1 else es

/-- The earliest accepted of entries, then the lower ITER (R27). -/
def earliest : List Entry → Option Entry
  | [] => none
  | e :: es => some (es.foldl (fun a x =>
      if better (x.since, x.tok.tag.iter.toNat) (a.since, a.tok.tag.iter.toNat) then x else a) e)

/-- The pair completed earliest, then that of the lower ITER at L (R27). -/
def bestHeads : List (Entry × Entry) → Option (Entry × Entry)
  | [] => none
  | p :: ps => some (ps.foldl (fun a b =>
      if better (max b.1.since b.2.since, b.1.tok.tag.iter.toNat) (max a.1.since a.2.since, a.1.tok.tag.iter.toNat) then b else a) p)

/-- No DATA of an END's context stands at its port or is on its way there (R32 item 1). -/
def State.endReady (s : State) (p : Port) (e : Entry) : Bool :=
  let t := s.tile s.selTile
  t.isStatic s.sel.blk || !dataAt t s.sel.blk s.sel.slot p e.tok.tag.ctx

def useOne (e : Entry) : Tile → Tile := fun t => t.useAll [e]

/-! ### Steer and merge (R153 to R156, R44) -/

/-- A tag with one PATH bit appended (R44). -/
def Tag.append (t : Tag) (d : Bool) : Tag :=
  { t with path := if d then t.path ||| BitVec.ofNat 7 (2 ^ t.pdep.toNat) else t.path, pdep := t.pdep + 1 }

/-- The last PATH bit of a tag. -/
def Tag.lastBit (t : Tag) : Bool := t.path.getLsbD (t.pdep.toNat - 1)

/-- A tag with its last PATH bit stripped (R44). -/
def Tag.strip (t : Tag) : Tag := { t with path := maskPath t.path (t.pdep - 1), pdep := t.pdep - 1 }

/-- The arm a steer takes: 1 is T0, 0 is T1 (R153). -/
def steerOuts (n : GNode) (d : Bool) (tag : Tag) (p : Payload) : List Out :=
  ([if d then n.t0 else n.t1].filter fun x => x ≠ .none).map fun x => { tgt := x, tag := tag.append d, res := .pay p }

/-- The END toward each arm, with that arm's bit (R154). -/
def steerEnds (n : GNode) (tag : Tag) (level : Nat) : List Out :=
  (([(n.t0, true), (n.t1, false)] : List (Target × Bool)).filter fun x => x.1 ≠ .none).map fun x =>
    endOut (tag.append x.2) level x.1

def execSteer (n : GNode) (inv : Bool) (s : State) : Answer :=
  let i : Instr := .steer n inv
  .next (s.onNode i
    (fun tag took =>
      if tag.pdep = 7 then s.trapAt clsPathOverflow tag 0 0
      else
        let f := s.fireOf i tag took
        let d := (f.word .R != 0) != inv
        s.tryFire i { use := fun t => t.useAll took, outs := steerOuts n d { tag with kind := f.kindOf .L } (f.pay n.w .L) })
    (fun tag level took =>
      if tag.pdep = 7 then s.trapAt clsPathOverflow tag 0 0
      else s.tryFire i (s.endFiring tag took (steerEnds n tag level))))

/-- A token that stands at the wrong port of a merge, or has no bit to strip (R155). -/
def mergeBad (p : Port) (e : Entry) : Bool := e.tok.tag.pdep = 0 || e.tok.tag.lastBit != (p == .L)

/-- A pair of ENDs a merge forwards, or whose LEVELs differ (R156); of several contexts' pairs the one that R27 prefers (R151). -/
def State.mergeEnds (s : State) : Option (Entry × Entry) :=
  let ends (p : Port) : List Entry := (s.candidates p).filter fun e => e.tok.isEnd && s.endReady p e
  bestHeads ((ends .L).flatMap fun l => (ends .R).filterMap fun r =>
    if l.tok.tag.strip.ctx = r.tok.tag.strip.ctx then some (l, r) else none)

/-- The DATA token a merge fires: the one accepted earlier, L's on a tie (R155). -/
def State.mergePick (s : State) : Option Entry :=
  let of (p : Port) : Option Entry := earliest ((s.candidates p).filter fun e => !e.tok.isEnd)
  match of .L, of .R with
  | some l, some r => some (if r.since < l.since then r else l)
  | some l, none => some l
  | none, r => r

/-- DATA goes before a pair of ENDs of other contexts unless the pair was complete earlier: beyond R27 the spec gives no order between them,
and this is the model's choice (log entry 19). -/
def mergeEndFirst (e l r : Entry) : Bool := decide (max l.since r.since < e.since)

/-- A merge forwards a pair of ENDs (R156). -/
def State.mergeFin (s : State) (i : Instr) (l r : Entry) : State :=
  if l.tok.level = r.tok.level then
    s.tryFire i (s.endFiring l.tok.tag [l, r] ((tgts i).map (endOut l.tok.tag.strip l.tok.level)))
  else s.trapAt clsStreamMismatch l.tok.tag 0 0

def execMerge (n : GNode) (s : State) : Answer :=
  let i : Instr := .merge n
  .next (s.atNode i fun _ =>
    let ls := s.candidates .L
    let rs := s.candidates .R
    match (ls.filter (mergeBad .L) ++ rs.filter (mergeBad .R)).head? with
    | some e => s.trapAt clsPathOverflow e.tok.tag 0 0
    | none =>
      let data (e : Entry) : State := s.tryFire i { use := useOne e, outs := sendAll i e.tok.tag.strip (.pay (shaped n.w e.tok.pay)) }
      match s.mergePick, s.mergeEnds with
      | some e, some (l, r) => if mergeEndFirst e l r then s.mergeFin i l r else data e
      | some e, none => data e
      | none, some (l, r) => s.mergeFin i l r
      | none, none => s.setStall (if ls.isEmpty && rs.isEmpty then 0 else if ls.isEmpty then 1 else 2))

/-! ### Carry (R157 to R159) -/

/-- A feedback token as it re-enters the loop (R158). -/
def feedbackTag (inc : Bool) (t : Tag) : Tag := let y := t.strip; if inc then { y with iter := t.iter + 1 } else y

/-- LIMIT holds at a carry (R37, R158, R159): DATA at L finds the cycle full, or an END at L waits for the cycle count or for DATA of its
context. -/
def State.carryLimit (s : State) (n : GNode) (ls : List Entry) : Bool :=
  let nd := s.node s.sel
  !nd.closing && ls.any fun e =>
    if e.tok.isEnd then nd.carryCount != 0 || !s.endReady .L e else decide (n.imm % 256 ≤ nd.carryCount)

/-- The token at L that enters or closes the cycle (R158, R159): DATA while the count is below LIMIT, an END whose context has no DATA left
while it is zero. Where both stand there, the one accepted earlier goes, DATA on a tie: the spec gives no order beyond R27's, and this is the
model's choice (log entry 19). -/
def State.carryPick (s : State) (n : GNode) (ls : List Entry) : Option Entry :=
  let nd := s.node s.sel
  let data := if nd.carryCount < n.imm % 256 then earliest (ls.filter fun e => !e.tok.isEnd) else none
  let fin := if nd.carryCount = 0 then earliest (ls.filter fun e => e.tok.isEnd && s.endReady .L e) else none
  match data, fin with
  | some d, some e => some (if e.since < d.since then e else d)
  | some d, none => some d
  | none, e => e

/-- A token at Q that trapped when it came (R158, R415): it stays and traps again until the count lets it be absorbed. -/
def State.carryExit (s : State) (e : Entry) : State :=
  let nd := s.node s.sel
  if nd.carryCount ≤ nd.carryDown then s.trapAt clsStreamMismatch e.tok.tag 0 0
  else (s.modTile s.selTile (useOne e)).modNode s.sel fun x => { x with carryDown := x.carryDown + 1 }

/-- A carry fires on the token that R158 and R159 give, or holds its reason. -/
def State.carryFire (s : State) (n : GNode) (inc : Bool) : State :=
  let i : Instr := .carry n inc
  let nd := s.node s.sel
  let rs := s.candidates .R
  let ls := s.candidates .L
  let wait : Option Nat := if s.carryLimit n ls then some 14 else none
  let rEnd := (rs.filter fun e => e.tok.isEnd && s.endReady .R e).head?
  let rData := earliest (rs.filter fun e => !e.tok.isEnd)
  match rData, rEnd with
  | some e, _ =>
    if e.tok.tag.pdep = 0 then s.trapAt clsPathOverflow e.tok.tag 0 0
    else s.tryFire i { use := useOne e, outs := sendAll i (feedbackTag inc e.tok.tag) (.pay (shaped n.w e.tok.pay)), first := wait }
  | none, some e =>
    if nd.closing then
      s.tryFire i { use := fun t => t.spendAll [e], node := fun x => { x with closing := false } }
    else s.trapAt clsStreamMismatch e.tok.tag 0 0
  | none, none =>
    if nd.closing then s.setStall (if ls.isEmpty then 0 else 2)
    else
      match s.carryPick n ls with
      | some e =>
        if e.tok.isEnd then
          s.tryFire i { s.endFiring e.tok.tag [e] ((tgts i).map (endOut e.tok.tag e.tok.level)) with
                        node := fun x => { x with closing := true }, first := wait }
        else
          s.tryFire i { use := useOne e, outs := sendAll i e.tok.tag (.pay (shaped n.w e.tok.pay)),
                        node := fun x => { x with carryCount := x.carryCount + 1 }, first := wait }
      | none => s.setStall (wait.getD (if ls.isEmpty && rs.isEmpty then 0 else if ls.isEmpty then 1 else 2))

def execCarry (n : GNode) (inc : Bool) (s : State) : Answer :=
  .next (s.atNode (.carry n inc) fun _ =>
    match (s.candidates .Q).head? with
    | some e => s.carryExit e
    | none => s.carryFire n inc)

/-! ### Gate, sink, eos, isend, join, cnt (R161 to R167) -/

/-- The free-slot count of gate .count as the fc began (R162). -/
def gateFree (n : GNode) (nd : Node) : Nat := n.imm % 4096 + nd.gateBack - nd.gateTaken

def State.gatePass (s : State) (i : Instr) (n : GNode) : State :=
  s.onNode i
    (fun tag took =>
      let f := s.fireOf i tag took
      let out := if f.word .R ≠ 0 then sendAll i { tag with kind := f.kindOf .L } (.pay (f.pay n.w .L)) else []
      s.tryFire i { use := fun t => t.useAll took, outs := out })
    (fun tag level took => s.forwardEnd i tag tag level took)

/-- The firing rule on a list of ports, where a condition of the node's own rules some of the choices out: of those that are left the one
that R27 prefers goes, and with none left the node holds a reason. A choice that is ruled out has that reason true of the node, so that it
stands before those of a choice which goes but is blocked (R37): what goes is given it. -/
def State.dispatchIf (s : State) (i : Instr) (ps : List Port) (ok : Choice → Bool) (reason : Nat)
    (onFire : Option Nat → Tag → List Entry → State) (onEnd : Option Nat → Tag → Nat → List Entry → State) : State :=
  let t := s.tile s.selTile
  let c := s.chooseOn i ps
  let ready := t.taggedReady s.sel.blk s.sel.slot i ps
  let out : Option Nat := if !t.isStatic s.sel.blk && ready.any fun p => !ok p.2 then some reason else none
  if ok c then s.dispatch c (onFire out) (onEnd out)
  else if t.isStatic s.sel.blk then s.setStall reason
  else match pickBest (ready.filter fun p => ok p.2) with
    | some d => s.dispatch d (onFire out) (onEnd out)
    | none => s.setStall reason

/-- The choices that are left to a node which may fire on no DATA, or may forward no END. -/
def mayChoose (fire fin : Bool) : Choice → Bool
  | .fire _ _ => fire
  | .fin _ _ _ => fin
  | _ => true

def State.gateCount (s : State) (i : Instr) (n : GNode) : State :=
  s.atNode i fun _ => s.dispatchIf i [.L] (mayChoose (gateFree n (s.node s.sel) != 0) true) 2
    (fun out tag took =>
      let f := s.fireOf i tag took
      s.tryFire i { use := fun t => t.useAll took, outs := sendAll i { tag with kind := f.kindOf .L } (.pay (f.pay n.w .L)),
                    node := fun x => { x with gateTaken := x.gateTaken + 1 }, first := out })
    (fun out tag level took => s.tryFire i { s.endFiring tag took ((tgts i).map (endOut tag level)) with first := out })

def execGate (n : GNode) (count : Bool) (s : State) : Answer :=
  .next (if count then s.gateCount (.gate n count) n else s.gatePass (.gate n count) n)

def execSink (n : GNode) (s : State) : Answer :=
  let i : Instr := .sink n
  .next (s.onNode i
    (fun _ took => s.tryFire i { use := fun t => t.useAll took })
    (fun tag _ took => s.tryFire i (s.endFiring tag took [])))

/-- LEVEL and N of eos (R166). -/
def eosLevel (n : GNode) : Nat := n.imm % 8
def eosEvery (n : GNode) : Nat := n.imm / 16

/-- eos .emit replaces DATA with END; .count forwards DATA and makes an END in the firing after every Nth (R166). -/
def execEos (n : GNode) (count : Bool) (s : State) : Answer :=
  let i : Instr := .eos n count
  .next (s.atNode i fun c =>
    match (s.node s.sel).eosPending with
    | some tag =>
      s.tryFire i { outs := (tgts i).map (endOut tag (eosLevel n)),
                    node := fun x => { x with eosPending := none, eosCount := 0 } }
    | none => s.dispatch c
      (fun tag took =>
        let f := s.fireOf i tag took
        if count then
          let k := (s.node s.sel).eosCount + 1
          s.tryFire i { use := fun t => t.useAll took,
                        outs := sendAll i { tag with kind := f.kindOf .L } (.pay (f.pay n.w .L)),
                        node := fun x => { x with
                          eosCount := k
                          eosPending := if k = eosEvery n then some { tag with kind := .fin, iter := tag.iter + 1 } else none } }
        else s.tryFire i { use := fun t => t.useAll took, outs := (tgts i).map (endOut tag (eosLevel n)) })
      (fun tag level took =>
        s.tryFire i { s.endFiring tag took ((tgts i).map (endOut tag level)) with
                      node := fun x => { x with eosCount := 0 } }))

/-- One result for T0 and one for T1, each when its target is present. -/
def outsOf (i : Instr) (r0 r1 : Option (Tag × Payload)) : List Out :=
  ([(i.t0, r0), (i.t1, r1)] : List (Target × Option (Tag × Payload))).filterMap fun (x, r) =>
    if x = .none then none else r.map fun (tag, p) => { tgt := x, tag := tag, res := .pay p }

def execIsend (n : GNode) (s : State) : Answer :=
  let i : Instr := .isend n
  .next (s.onNode i
    (fun tag took =>
      let f := s.fireOf i tag took
      s.tryFire i { use := fun t => t.useAll took,
                    outs := outsOf i (some (tag.asData, .word 0)) (some ({ tag with kind := f.kindOf .L }, f.pay n.w .L)) })
    (fun tag level took =>
      s.tryFire i (s.endFiring tag took (outsOf i (some (tag.asData, .word (BitVec.ofNat 32 level))) none))))

/-- The tile with the DATA of the selected node's ports hidden. -/
def State.onlyEnds (s : State) : State :=
  s.modTile s.selTile fun t =>
    { t with store := t.store.filter fun e => !(e.blk == s.sel.blk && e.slot == s.sel.slot) || e.tok.isEnd }

def execJoin (n : GNode) (flush : Bool) (s : State) : Answer :=
  let i : Instr := .join n flush
  let group (tag : Tag) : List Out := sendAll i tag.asData (.pay (.word (s.node s.sel).joinGroup))
  let onEnd (tag : Tag) (level : Nat) (took : List Entry) : State :=
    let nd := s.node s.sel
    if flush && decide (nd.joinCount ≠ 0) && !nd.joinFlushed then
      s.tryFire i { outs := group tag, node := fun x => { x with joinFlushed := true, joinGroup := x.joinGroup + 1 } }
    else
      s.tryFire i { s.endFiring tag took ((tgts i).map (endOut tag level)) with
                    node := fun x => { x with joinCount := 0, joinFlushed := false } }
  .next (s.atNode i fun c =>
    if (s.node s.sel).joinFlushed then
      s.dispatch (s.onlyEnds.chooseOn i [.L]) (fun _ _ => s) onEnd
    else s.dispatch c
      (fun tag took =>
        if (s.node s.sel).joinCount + 1 = n.imm % 4096 then
          s.tryFire i { use := fun t => t.useAll took, outs := group tag,
                        node := fun x => { x with joinCount := 0, joinGroup := x.joinGroup + 1 } }
        else s.tryFire i { use := fun t => t.useAll took, node := fun x => { x with joinCount := x.joinCount + 1 } })
      onEnd)

def execCnt (n : GNode) (s : State) : Answer :=
  let i : Instr := .cnt n
  .next (s.onNode i
    (fun tag took =>
      let f := s.fireOf i tag took
      s.tryFire i { use := fun t => t.useAll took,
                    outs := outsOf i none (some ({ tag with kind := f.kindOf .L }, f.pay n.w .L)),
                    node := fun x => { x with cntCount := x.cntCount + 1 } })
    (fun tag level took =>
      s.tryFire i { s.endFiring tag took (outsOf i (some (tag.asData, .word (s.node s.sel).cntCount))
                      (some (tag, .word (BitVec.ofNat 32 level)))) with
                    node := fun x => { x with cntCount := 0 } }))

/-! ### Spawn and ret (R168 to R172) -/

def Billet.held (x : Billet) (n : Nat) : Option Colour := x.colours.find? fun c => c.n = n
def Billet.freeColours (x : Billet) : Nat := 1023 - x.colours.length
def Billet.usedOf (x : Billet) (cls : Nat) : Nat := (x.colours.filter fun c => c.cls = cls).length

/-- The entries reserved for classes deeper than d (R169). -/
def Billet.reservedBelow (x : Billet) (d : Nat) : Nat :=
  ((List.range 4).map fun e => if e > d then nthD 0 x.floors e - x.usedOf e else 0).sum

def Billet.mayDraw (x : Billet) (d : Nat) : Bool := decide (x.freeColours > x.reservedBelow d)

/-- The lowest-numbered FREE colour. -/
def Billet.lowestFree (x : Billet) : Nat :=
  (((List.range 1023).map (· + 1)).find? fun n => (x.held n).isNone).getD 0

/-- Return-queue entries of a tile in use or reserved by an issued ret (R171). -/
def Billet.retUse (x : Billet) (tile : Nat) : Nat :=
  (x.tile tile).rets.length + (x.tiles.map fun t => (t.flights.filter fun f => match f.fx with
    | .ret d _ _ _ _ => d == tile
    | _ => false).length).sum

def spawnClass (n : GNode) : Nat := n.xmod % 4

def spawnTag (c : Nat) : Tag := { colour := BitVec.ofNat 10 c }

/-- DATA of one context draws while an END of another waits for its returns, and an END whose node has nothing outstanding goes while DATA
may not draw (R172). -/
def execSpawn (n : GNode) (two : Bool) (s : State) : Answer :=
  let i : Instr := .spawn n two
  let x := s.billet s.sel.b
  .next (s.atNode i fun _ =>
    s.dispatchIf i ((s.tile s.selTile).reads s.sel.blk s.sel.slot i) (mayChoose (x.mayDraw (spawnClass n)) ((s.node s.sel).spawnOut == 0)) 7
      (fun out tag took =>
        let f := s.fireOf i tag took
        let c := x.lowestFree
        let e : Colour := ⟨c, tag, s.sel.t, spawnTarget n, s.sel.pos, spawnClass n, false⟩
        s.tryFire i { use := fun t => t.useAll took,
                      outs := outsOf i (some (spawnTag c, f.pay n.w .L)) (if two then some (spawnTag c, f.pay n.w .R) else none),
                      node := fun y => { y with spawnOut := y.spawnOut + 1 },
                      bill := fun y => { y with colours := e :: y.colours }, first := out })
      (fun out tag level took =>
        if x.retUse s.sel.t ≥ Config.returnQueue then s.setStall (out.getD 5)
        else
          let tok : Token := { tag := { tag with kind := .fin }, pay := .word (BitVec.ofNat 32 level) }
          s.tryFire i { s.endFiring tag took [] with fx := .ret s.sel.t s.sel.pos (spawnTarget n) tok none, first := out }))

def execRet (n : GNode) (s : State) : Answer :=
  let i : Instr := .ret n
  .next (s.onNode i
    (fun tag took =>
      let x := s.billet s.sel.b
      match x.held tag.colour.toNat with
      | none => s.trapAt clsColourFree tag 0 0
      | some c =>
        if tag.colour = 0 then s.trapAt clsColourFree tag 0 0
        else if x.retUse c.tile ≥ Config.returnQueue then s.setStall 5
        else
          let f := s.fireOf i tag took
          s.tryFire i { use := fun t => t.useAll took,
                        fx := .ret c.tile c.pos c.tgt { tag := c.caller.asData, pay := f.pay n.w .L } (some c.n) })
    (fun tag _ took => s.tryFire i (s.endFiring tag took [])))

/-! ### Sorted streams (R173, R174) -/

/-- Coordinate of a CV32 word (R50); an END stands above every coordinate. -/
def coordOf (e : Entry) : Nat := if e.tok.isEnd then 65536 else e.tok.pay.lane0.toNat / 65536

/-- Heads in one context at both ports: the first token of the context at each port, in arrival order. -/
def State.heads (s : State) : List (Entry × Entry) :=
  let t := s.tile s.selTile
  let ls := t.at s.sel.blk s.sel.slot .L
  let rs := t.at s.sel.blk s.sel.slot .R
  if t.isStatic s.sel.blk then
    match ls, rs with
    | l :: _, r :: _ => [(l, r)]
    | _, _ => []
  else
    let first (es : List Entry) (e : Entry) : Bool := (es.find? fun d => d.tok.tag.ctx = e.tok.tag.ctx) == some e
    (ls.filter (first ls)).filterMap fun l => (rs.find? fun r => r.tok.tag.ctx = l.tok.tag.ctx).map fun r => (l, r)

def Node.seg (n : Node) (c : BitVec 10 × BitVec 7 × BitVec 3) : Seg := (n.segs.find? fun g => g.ctx = c).getD { ctx := c }
def Node.setSeg (n : Node) (g : Seg) : Node := { n with segs := g :: n.segs.filter fun x => x.ctx ≠ g.ctx }

/-- A coordinate not above the previous one of its port (R173). -/
def notRising (prev : Option Nat) (e : Entry) : Bool := !e.tok.isEnd && prev.any fun p => decide (coordOf e ≤ p)

def advance (took : Bool) (prev : Option Nat) (e : Entry) : Option Nat := if took && !e.tok.isEnd then some (coordOf e) else prev

/-- A firing of isect (union false) or unio on a pair of heads (R174). -/
def State.streamPair (s : State) (i : Instr) (union : Bool) (l r : Entry) : State :=
  let static := (s.tile s.selTile).isStatic s.sel.blk
  let key := if static then ((0 : BitVec 10), (0 : BitVec 7), (0 : BitVec 3)) else l.tok.tag.ctx
  let g := (s.node s.sel).seg key
  let tag : Tag := { l.tok.tag with kind := .data, iter := BitVec.ofNat 16 g.pairs }
  if notRising g.prevL l || notRising g.prevR r then s.trapAt clsStreamMismatch l.tok.tag 0 0
  else if l.tok.isEnd && r.tok.isEnd then
    if l.tok.level = r.tok.level then
      s.tryFire i { use := fun t => t.spendAll [l, r], outs := (tgts i).map (endOut tag l.tok.level),
                    node := fun x => x.setSeg { ctx := key } }
    else s.trapAt clsStreamMismatch l.tok.tag 0 0
  else
    let cl := coordOf l
    let cr := coordOf r
    let useL := decide (cl ≤ cr)
    let useR := decide (cr ≤ cl)
    let emit := union || (useL && useR)
    let zero (c : Nat) : Payload := .word (BitVec.ofNat 32 (c * 65536))
    let p0 := if useL then .word l.tok.pay.lane0 else zero cr
    let p1 := if useR then .word r.tok.pay.lane0 else zero cl
    let took := (if useL then [l] else []) ++ (if useR then [r] else [])
    s.tryFire i { use := fun t => t.spendAll took,
                  outs := if emit then outsOf i (some (tag, p0)) (some (tag, p1)) else [],
                  node := fun x => x.setSeg { ctx := key, pairs := if emit then g.pairs + 1 else g.pairs,
                                              prevL := advance useL g.prevL l, prevR := advance useR g.prevR r } }

def State.stream (s : State) (i : Instr) (union : Bool) : State :=
  s.atNode i fun _ =>
    match bestHeads s.heads with
    | some (l, r) => s.streamPair i union l r
    | none =>
      let t := s.tile s.selTile
      let l := (t.at s.sel.blk s.sel.slot .L).isEmpty
      let r := (t.at s.sel.blk s.sel.slot .R).isEmpty
      s.setStall (if l && r then 0 else if l then 1 else 2)

def execIsect (n : GNode) (s : State) : Answer := .next (s.stream (.isect n) false)

def execUnio (n : GNode) (s : State) : Answer := .next (s.stream (.unio n) true)

/-! ### Porter (R175 to R177) -/

def porterArcs (n : GNode) : Nat := n.imm / 32 % 8 + 1
def porterArc (n : GNode) (i : Nat) : Nat := n.imm % 32 + i

/-- Reply channel of arc i: chO + i (R175). -/
def replyChan (n : GNode) (i : Nat) : Target :=
  match n.t1 with
  | .chan c => .chan (c + BitVec.ofNat 5 i)
  | x => x

/-- The head of an arc's channel; a channel whose comparator withholds its head offers none (R423). -/
def State.arcHead (s : State) (n : GNode) (i : Nat) : Option Token :=
  (Tbl.get (porterArc n i) (s.tile s.selTile).inCh).bind fun c =>
    if (s.withholds s.selTile (porterArc n i) c).isEmpty then c.queue.head? else none

/-- Takes the heads of arcs; those behind them have passed no comparator yet (R423). -/
def Tile.popArcs (t : Tile) (n : GNode) (is : List Nat) : Tile :=
  { t with inCh := t.inCh.map fun (c, x) =>
      (c, if is.any fun i => porterArc n i = c then { x with queue := x.queue.drop 1, passed := [] } else x) }

/-- The arcs in round-robin order after the last granted. -/
def arcOrder (arcs last : Nat) : List Nat := let st := if last ≥ arcs then 0 else last + 1; (List.range arcs).map fun k => (st + k) % arcs

/-- Grants the first arc in order whose head is DATA; ENDs are skipped (R176 item 2, R177). -/
def State.porterArcGrant (s : State) (i : Instr) (n : GNode) (heads : List (Option Token)) : State :=
  let nd := s.node s.sel
  match (arcOrder (porterArcs n) nd.lastArc).findSome? fun a =>
      (nthD none heads a).bind fun k => if k.isEnd then none else some (a, k) with
  | none => s.setStall (if heads.all Option.isNone then 0 else 2)
  | some (a, k) =>
    if nd.grants.length ≥ 32 then s.setStall 5
    else s.tryFire i { use := fun t => t.popArcs n [a],
                       outs := [{ tgt := n.t0, tag := k.tag, res := .pay (shaped n.w k.pay) }],
                       node := fun x => { x with grants := x.grants ++ [a], lastArc := a } }

/-- The grant half of a porter: a common END of every arc, or a grant (R176 item 2, R177). The one END for all arcs carries the tag of arc 0's:
their contexts are equal, and which ITER it has the spec leaves open (the model's choice, log entry 71). -/
def State.porterGrant (s : State) (i : Instr) (n : GNode) : State :=
  let arcs := porterArcs n
  let heads := (List.range arcs).map (s.arcHead n)
  let ends := heads.filterMap fun h => h.bind fun k => if k.isEnd then some k else none
  match ends with
  | e :: es =>
    if ends.length = arcs then
      if es.all fun d => d.tag.ctx == e.tag.ctx && d.level == e.level then
        s.tryFire i { use := fun t => t.popArcs n (List.range arcs), outs := [endOut e.tag e.level n.t0] }
      else s.trapAt clsStreamMismatch e.tag 0 0
    else s.porterArcGrant i n heads
  | [] => s.porterArcGrant i n heads

/-- An END at L that waits for the FIFO leaves the grants as they are; one that goes, to all reply channels at once, holds them back while one of
the channels is OFF (the model's choice, log entry 19). -/
def execPorter (n : GNode) (s : State) : Answer :=
  let i : Instr := .porter n
  .next (s.atNode i fun _ =>
    let nd := s.node s.sel
    let ls := s.candidates .L
    match earliest (ls.filter fun e => !e.tok.isEnd), (ls.filter fun e => e.tok.isEnd && s.endReady .L e).head? with
    | some e, _ =>
      (match nd.grants with
       | [] => s.trapAt clsStreamMismatch e.tok.tag 0 0
       | a :: rest =>
         let ch := replyChan n a
         let off : Bool := match ch with
           | .chan c => (s.billet s.sel.b).chanOff (s.mtCap s.sel.b) (s.now s.sel.b) s.sel.t c.toNat none
           | _ => false
         if off then s.porterGrant i n
         else s.tryFire i { use := useOne e, outs := [{ tgt := ch, tag := e.tok.tag, res := .pay (shaped n.w e.tok.pay) }],
                            node := fun x => { x with grants := rest } })
    | none, some e =>
      if nd.grants.isEmpty then
        s.tryFire i (s.endFiring e.tok.tag [e] ((List.range (porterArcs n)).map fun a => endOut e.tok.tag e.tok.level (replyChan n a)))
      else s.porterGrant i n
    | none, none => s.porterGrant i n)

/-! ### Random tokens and reordering (R178 to R181) -/

def rngResult (n : GNode) (f : Fire) : Result :=
  let seed := f.tile.seedAt (n.imm % 4) (f.now + f.s2)
  let ls := (List.range (laneCount n.w)).map fun j => randWord seed f.tag.colour f.tag.iter j
  { tag := { f.tag with kind := .rand }, r0 := .pay (payOf n.w ls) }

def execRng (n : GNode) (s : State) : Answer := .next (s.compute (.rng n) (rngResult n))

/-- The END of a reorder node's context: forwarded at next, refused below it, waiting otherwise (R181); window entry 0 is empty meanwhile, so
that the node's reason is WAIT_L (R180). -/
def State.reorderEnd (s : State) (i : Instr) (e : Entry) : State :=
  let nd := s.node s.sel
  let below := (nd.next - e.tok.tag.iter).toNat
  if below = 0 then
    s.tryFire i { use := fun t => t.spendAll [e], outs := (tgts i).map (endOut e.tok.tag e.tok.level),
                  node := fun x => { x with next := 0, ctx := none }, first := some 1 }
  else if below < 2 ^ 15 then s.trapAt clsStreamMismatch e.tok.tag 0 0
  else s.setStall 1

def execReorder (n : GNode) (s : State) : Answer :=
  let i : Instr := .reorder n
  .next (s.atNode i fun _ =>
    match Tbl.get 0 (s.node s.sel).window with
    | some tok =>
      s.tryFire i { outs := sendAll i tok.tag (.pay (shaped n.w tok.pay)),
                    node := fun x => { x with next := x.next + 1, window := (Tbl.del 0 x.window).map fun p => (p.1 - 1, p.2) } }
    | none =>
      match (s.candidates .L).find? fun e => e.tok.isEnd with
      | some e => s.reorderEnd i e
      | none => s.setStall 1)

end Sys2Proof.Machine
end

