-- ==== Sys2Proof/Machine/Deliver.lean ====
section
/-! DEFINITION. Tokens reaching ports: acceptance (R29, R36, R150, R180), results leaving S6 (R59, R118, R120), channel deliveries (R36,
R58, R423), and the registers a csr node reaches (R245). Choices and readings: log entries 8, 19, 21, 49, 55, 70, 71, 74. -/

namespace Sys2Proof.Machine

/-- A billet's units advance: a page is resident, nothing freezes it, the device is in C0 (R219, R392, R448). -/
def State.active (s : State) (b : Nat) : Bool :=
  (s.billet b).page.isSome && !(s.billet b).isFrozen && s.power == .c0

/-! ### Acceptance at a port -/

/-- Firings a token is held for, and whether it stays until an END (R29, R145). A DATA token at L of wcv is held for its 16 firings whatever
count SL gives: R29 and R145 do not say how the two go together, and this is the model's choice (log entry 71). -/
def holdCount (i : Instr) (p : Port) (tok : Token) : Nat × Bool :=
  if tok.isEnd then (1, false)
  else match i with
    | .wcv _ => if p = .L then (16, false) else (1, false)
    | _ => let c := i.sticky p; if c = 15 then (1, true) else (c + 1, false)

/-- Stores a token at a port. -/
def State.storeTok (s : State) (n : NodeAddr) (i : Instr) (p : Port) (tok : Token) (enc : Enc) : State :=
  let (left, keep) := holdCount i p tok
  let e : Entry := { blk := n.blk, slot := n.slot, port := p, tok := tok, enc := enc, left := left, keep := keep, since := s.now n.b }
  s.modTile n.tileAddr fun t => { t with store := t.store ++ [e] }

/-- A token that leaves a carry's cycle (R159): END changes nothing; a count below zero raises STREAM_MISMATCH, and the token stays at Q (R415
item 1). -/
def State.absorbCarry (s : State) (n : NodeAddr) (i : Instr) (tok : Token) : State :=
  let nd := s.node n
  if tok.isEnd then s
  else if nd.carryCount ≤ nd.carryDown then (s.storeTok n i .Q tok .raw).trap n clsStreamMismatch tok.tag 0 0
  else s.modNode n fun x => { x with carryDown := x.carryDown + 1 }

/-- A token for a reorder node (R180, R181). -/
def State.absorbReorder (s : State) (n : NodeAddr) (i : Instr) (tok : Token) : State :=
  if tok.isEnd then
    (s.storeTok n i .L tok .raw).modNode n fun x => { x with ctx := some (x.ctx.getD tok.tag.ctx) }
  else
    s.modNode n fun x => { x with ctx := some (x.ctx.getD tok.tag.ctx), window := x.window ++ [((tok.tag.iter - x.next).toNat, tok)] }

/-- A port accepts a token: it is stored, or absorbed by a node that keeps a count instead (R150). -/
def State.acceptPort (s : State) (n : NodeAddr) (p : Port) (tok : Token) (enc : Enc) : State :=
  let s := s.modTile n.tileAddr fun t => { t with accepted := (n.pos, p) :: t.accepted }
  match (s.tile n.tileAddr).instrAt n.blk n.slot with
  | none => s
  | some i =>
    match i, p with
    | .carry _ _, .Q => s.absorbCarry n i tok
    | .gate _ true, .R => if tok.isEnd then s else s.modNode n fun x => { x with gateUp := x.gateUp + 1 }
    | .reorder _, .L => s.absorbReorder n i tok
    | _, _ => s.storeTok n i p tok enc

/-! ### Registers of the csr space (R245) -/

def ctStallcnt : Nat := 0x040
def ctNodestall : Nat := 0x050
def ctFflags : Nat := 0x080
def ctOutstand : Nat := 0x0D0
def ctAccstate : Nat := 0x0D8
def ctBrkcnt : Nat := 0x0D9

/-- Operations in flight by class (R202). -/
def isLoad (i : Instr) : Bool :=
  match i with
  | .ld .. | .ldx .. | .amo .. | .wtaddr .. => true
  | _ => false
def isStore (i : Instr) : Bool :=
  match i with
  | .st .. | .stx .. | .red .. | .qput .. | .spacc .. => true
  | _ => false

/-- Accesses of a tile that have not completed, wherever they stand. -/
def Billet.pending (x : Billet) (tile : Nat) : List Acc :=
  let t := x.tile tile
  t.port ++ t.flying ++ ((x.releases.filter fun r => r.tile = tile).map Release.acc) ++
    ((x.watches.filter fun w => w.tile = tile).map Watch.acc)

def Billet.loads (x : Billet) (tile : Nat) : Nat := ((x.pending tile).filter fun a => isLoad a.instr).length
def Billet.stores (x : Billet) (tile : Nat) : Nat := ((x.pending tile).filter fun a => isStore a.instr).length
def Billet.copies (x : Billet) (tile : Nat) : Nat :=
  (x.ctxs.map fun c => (c.queue.filter fun k => k.tile = tile).length).sum

/-- Tile operations in flight: accumulations, mzeros, drains, flushes (R202, R229, R231, R234, R237). -/
def Tile.tileOps (t : Tile) : Nat :=
  t.mzeros.length + (t.nodes.map fun (_, n) =>
    (if n.accTile.isSome then 1 else 0) + (if n.drain.isSome then 1 else 0) + (if n.flush.isSome then 1 else 0)).sum

def Billet.outstand (x : Billet) (tile : Nat) : Word :=
  BitVec.ofNat 32 (2 ^ 24 * (x.tile tile).tileOps + 2 ^ 16 * x.copies tile + 2 ^ 8 * x.stores tile + x.loads tile)

/-- CT_ACCSTATE (R246). -/
def Tile.accState (t : Tile) : Word :=
  BitVec.ofNat 32 ((t.acc.zipIdx.map fun (a, j) =>
    (if a.claim.isSome then 3 else match a.st with
      | .empty => 0 | .opened => 1 | .full => 2) * 4 ^ j).sum)

/-- CT_NODESTALLn (R40): eight nodes' reasons, four bits each. -/
def Tile.nodeStall (t : Tile) (n : Nat) : Word :=
  BitVec.ofNat 32 (((List.range 8).map fun k => (t.node (8 * n + k)).stall * 16 ^ k).sum)

/-- The timeline with a number of R208. -/
def Billet.timeline (x : Billet) (tile k : Nat) : BitVec 64 :=
  if k < 8 then nthD 0 x.tlu k else if k < 12 then (nthD {} x.ctxs (k - 8)).tlc else (x.tile tile).tlm

/-- Half of a 64-bit register by the parity of its index. -/
def half (v : BitVec 64) (hi : Bool) : Word := if hi then v.extractLsb' 32 32 else v.extractLsb' 0 32

/-- The value a register reads as now (R245). -/
def State.csrRead (s : State) (a : TileAddr) (idx : Nat) : Word :=
  let x := s.billet a.b
  let t := x.tile a.t
  if idx < 0x048 then
    let k := 2 * (idx - ctStallcnt)
    nthD 0 t.stallCnt (k + 1) ++ nthD 0 t.stallCnt k
  else if idx < 0x070 then t.nodeStall (idx - ctNodestall)
  else if idx < 0x080 then (nthD Scale.identity t.sc (idx - csrSc)).toWord
  else if idx = ctFflags then t.fflags.zeroExtend 32
  else if idx < 0x0C8 then half (nthD 0 t.seed ((idx - csrSeed) / 2)) (idx % 2 == 1)
  else if idx = ctOutstand then x.outstand a.t
  else if idx = ctAccstate then t.accState
  else if idx = ctBrkcnt then t.brkCnt.zeroExtend 32
  else if idx % 2 = 1 then t.shadow
  else half (x.timeline a.t ((idx - 0x100) / 2)) false

/-- What a csr access changes besides an RW field: a read of a low half copies the high half (R209). -/
def State.csrShadow (s : State) (a : TileAddr) (idx : Nat) : State :=
  if idx ≥ 0x100 ∧ idx % 2 = 0 then
    let v := (s.billet a.b).timeline a.t ((idx - 0x100) / 2)
    s.modTile a fun t => { t with shadow := half v true }
  else s

/-- A tile's registers after a csr write. -/
def Tile.csrWrite (t : Tile) (idx : Nat) (op : CsrOp) (old v : Word) : Tile :=
  let nv := csrNew op old v
  if idx < 0x048 then
    let k := 2 * (idx - ctStallcnt)
    { t with stallCnt := if k + 1 < 15 then setNth (k + 1) (nv.extractLsb' 16 16) (setNth k (nv.extractLsb' 0 16) t.stallCnt)
                         else setNth k (nv.extractLsb' 0 16) t.stallCnt }
  else if idx < 0x070 then t
  else if idx < 0x080 then { t with sc := setNth (idx - csrSc) (Scale.ofWord nv) t.sc }
  else if idx = ctFflags then { t with fflags := w1c op t.fflags (v.extractLsb' 0 7) t.flagsNow }
  else if idx < 0x0C8 then
    let k := (idx - csrSeed) / 2
    let cur : BitVec 64 := nthD 0 t.seed k
    { t with seed := setNth k (if idx % 2 = 1 then nv ++ cur.extractLsb' 0 32 else cur.extractLsb' 32 32 ++ nv) t.seed }
  else if idx = ctBrkcnt then { t with brkCnt := nv.extractLsb' 0 16 }
  else t

/-- A csr access at the end of the fc in which its firing is at S6 (R59, R245); eff is that fc. -/
def State.csrApply (s : State) (a : TileAddr) (idx : Nat) (op : CsrOp) (v : Word) (guard : Bool) (eff : Nat) : State :=
  let old := s.csrRead a idx
  let s := s.csrShadow a idx
  if guard && op != .rd then
    s.modTile a fun t => { t.csrWrite idx op old v with hist := t.hist ++ [(idx, old, eff)] }
  else s

/-! ### Results -/

/-- The checkout time of a launch (R378). -/
def Launch.checkoutNs (l : Launch) : Option Int :=
  if l.deadline = 2 ^ 64 - 1 then none else some ((l.deadline : Int) - l.budget)

/-- rdslack's value, with the flags of its saturation (R118, R126). -/
def State.slackWord (s : State) (b : Nat) : Word × Flags :=
  let t := ((s.billet b).page.bind fun p => s.launch? p.launch).bind Launch.checkoutNs
  match t with
  | none => (0x7FFFFFFF, 0)
  | some c => let r := satInt (-2147483648) 2147483647 (c - s.ns); (BitVec.ofInt 32 r.1, r.2)

/-- A time or slack as S4 samples it (R125, R126). -/
def State.sample (s : State) (b : Nat) (c : Clock) : Payload × Flags :=
  match c with
  | .time f vec =>
    let lo := half s.dtb.ns false
    let hi := half s.dtb.ns true
    let sub : Word := s.dtb.sub.zeroExtend 32
    (if vec then .vec ([lo, hi, sub] ++ List.replicate 13 0)
     else .word (match f with
      | .lo => lo | .hi => hi | .sub => sub), 0)
  | .slack => let r := s.slackWord b; (.word r.1, r.2)

/-- Exact elements in a format's lanes (R61, R66). -/
def encodeElems (fmt : Nat) (sc : Scale) (vs : List Val) : Payload × Flags :=
  match fmtElem fmt with
  | none => (.vec (List.replicate 16 0), 0)
  | some (el, k) =>
    let rs := vs.map (chanEncode el sc)
    (.vec (lanesOf el.width k 16 (rs.map Prod.fst)), flagsOr (rs.map Prod.snd))

/-- One result at its target: the token as the target receives it, its encoding there, the flags of S6 (R59, R61). -/
def State.encodeOut (s : State) (a : TileAddr) (due : Nat) (o : Out) : Token × Enc × Flags :=
  match o.res with
  | .pay p => (⟨o.tag, p⟩, .raw, 0)
  | .clock c => let r := s.sample a.b c; (⟨o.tag, r.1⟩, .raw, r.2)
  | .elems vs fmt =>
    match o.tgt with
    | .chan n =>
      let t := s.tile a
      let c := (Tbl.get n.toNat t.outCh).getD {}
      let (p, fl) := encodeElems c.fmt (t.scaleAt c.scx (due - 1)) vs
      (⟨o.tag, p⟩, .raw, fl)
    | _ =>
      let (p, fl) := encodeElems fmt .identity vs
      (⟨o.tag, p⟩, .ident fmt, fl)

/-- Offers one result to its target; a channel's result enters the egress pool (R268). -/
def State.offerOut (s : State) (a : TileAddr) (blk due : Nat) (o : Out) : State :=
  let (tok, enc, fl) := s.encodeOut a due o
  let s := s.modTile a fun t => { t with fflags := t.fflags ||| fl, flagsNow := t.flagsNow ||| fl }
  match o.tgt with
  | .none => s
  | .port sl p => s.acceptPort ⟨a.b, a.t, blk, sl.toNat⟩ p tok enc
  | .chan n => s.modTile a fun t => { t with pool := t.pool ++ [{ ch := n.toNat, tok := tok, row := o.row }] }

def State.offerOuts (s : State) (a : TileAddr) (blk due : Nat) : List Out → State
  | [] => s
  | o :: os => (s.offerOut a blk due o).offerOuts a blk due os

/-- hset and hclr on an entry (R239): the enable bit, and a pending token placed where none is, or discarded. -/
def Handler.change (set en pend : Bool) (tag : Tag) (h : Handler) : Handler :=
  { h with
    en := if en then set else h.en
    fresh := h.fresh || (pend && set && h.pend.isNone)
    pend := if !pend then h.pend else if set then some (h.pend.getD { tag := { tag with kind := .ctrl } }) else none }

/-- What a firing does when its result leaves S6 (R171, R238, R239): a return, a raise, or a change of a handler entry. A csr access has
been made at the end of the fc before (State.csrEnd). -/
def State.flightFx (s : State) (a : TileAddr) (f : Flight) : State × List Out :=
  match f.fx with
  | .nothing => (s, f.outs)
  | .csr .. => (s, f.outs)
  | .ret tile pos tgt tok colour =>
    let due := if tile = a.t then s.now a.b else s.now a.b + 2
    let s := s.modTile ⟨a.b, tile⟩ fun t => { t with rets := insertBy RetTok.due ⟨pos, tgt, tok, due⟩ t.rets }
    let s := match colour.bind fun c => (s.billet a.b).held c with
      | none => s
      | some c =>
        (s.modBillet a.b fun x => { x with colours := x.colours.map fun y => if y.n = c.n then { y with freed := true } else y })
          |>.modTile ⟨a.b, c.tile⟩ fun t => t.modNode c.pos fun n => { n with spawnOut := n.spawnOut - 1 }
    (s, f.outs)
  | .raise e tok => (s.ctrlArrive a.b e tok, f.outs)
  | .handler e set en pend tag =>
    (s.modBillet a.b fun x => { x with handlers := modNth (Handler.change set en pend tag) e x.handlers }, f.outs)

/-- The csr access of a firing that is at S6 in this fc: its result is the value before the write. -/
def State.csrFlight (s : State) (a : TileAddr) (f : Flight) : State :=
  match f.fx with
  | .csr idx op v guard =>
    if f.due ≤ s.now a.b + 1 then
      let old := s.csrRead a idx
      (s.csrApply a idx op v guard (s.now a.b)).modTile a fun t => { t with flights := t.flights.map fun g =>
        if g = f then { f with fx := .nothing, outs := f.outs.map fun o => { o with res := .pay (.word old) } } else g }
    else s
  | _ => s

/-- The csr accesses of a tile's firings at S6, at the end of the fc, after its counters have counted (R38, R59, R245). -/
def State.csrEnd (s : State) (a : TileAddr) : State := (s.tile a).flights.foldl (fun s f => s.csrFlight a f) s

def Flight.isEnd (f : Flight) : Bool := f.outs.any fun o => o.tag.kind == .fin

/-- A loose result goes to its targets in an fc that no reserved result occupies, when its channels are not OFF, and neither it
nor an END of its node passes the other (R32, R36, R268). In static mode the results of one node leave in the order of its firings: R313
forbids what any other order would lead to, and no rule states the order itself (log entry 71). -/
def State.looseReady (s : State) (a : TileAddr) (before : List Flight) (f : Flight) : Bool :=
  let x := s.billet a.b
  let t := x.tile a.t
  let now := s.now a.b
  (before.all fun g => !(g.blk == f.blk && g.slot == f.slot) || !(g.isEnd || f.isEnd || t.isStatic f.blk)) &&
    f.outs.all fun o => match o.tgt with
      | .port sl p => !(t.accepted.contains (posOf f.blk sl.toNat, p)) && !(t.dueTaken f.blk sl.toNat p now)
      | .chan n => !(x.chanOff (s.mtCap a.b) now a.t n.toNat o.row)
      | .none => true

/-- Whether a flight's result leaves in this fc. -/
def State.ready (s : State) (a : TileAddr) (before : List Flight) (f : Flight) : Bool :=
  decide (f.due ≤ s.now a.b) && f.hold.isNone && (!f.loose || s.looseReady a before f)

/-- The first flight whose result leaves in this fc, with the flights left. -/
def State.nextFlight (s : State) (a : TileAddr) : List Flight → List Flight → Option (Flight × List Flight)
  | _, [] => none
  | before, f :: fs =>
    if s.ready a before f then some (f, before ++ fs) else s.nextFlight a (before ++ [f]) fs

/-- A firing's result leaves S6 and is offered to its targets; its flags are set (R118, R120). -/
def State.offerFlight (s : State) (a : TileAddr) (f : Flight) (rest : List Flight) : State :=
  let s := s.modTile a fun t => { t with flights := rest, fflags := t.fflags ||| f.flags, flagsNow := t.flagsNow ||| f.flags }
  let (s, outs) := s.flightFx a f
  s.offerOuts a f.blk f.due outs

def execPipelineResultOffer (a : TileAddr) (s : State) : Answer :=
  .next (if s.active a.b then
    match s.nextFlight a [] (s.tile a).flights with
    | some (f, rest) => s.offerFlight a f rest
    | none => s
  else s)

/-- Gives a held flight its result: it leaves as soon as it may (R187). -/
def Tile.fillFlight (t : Tile) (id : Nat) (tag : Tag) (p : Payload) : Tile :=
  { t with flights := t.flights.map fun f =>
      if f.hold = some id then { f with hold := none, outs := f.outs.map fun o => { o with tag := tag, res := .pay p } } else f }

/-- Sends the result an operation waited for: it fills its flight, which is offered at once when its fc has come. -/
def State.deliver (s : State) (a : TileAddr) (id : Nat) (tag : Tag) (p : Payload) : State :=
  let s := s.modTile a fun t => t.fillFlight id tag p
  match s.nextFlight a [] (s.tile a).flights with
  | some (f, rest) => if f.loose then s.offerFlight a f rest else s
  | none => s

/-! ### Channel delivery -/

def Break.hit (k : Break) : Break := { k with hits := if k.hits = 0xFFFF then k.hits else k.hits + 1, en := k.en && !k.once }

/-- A match: the token is withheld, HITS counts, the launch takes a debug stop that reports the comparator. The debug function's own
copy of the breakpoint follows. -/
def State.breakHit (s : State) (b : Nat) (k : Break) : State :=
  match (s.billet b).page with
  | none => s
  | some p =>
    let s := s.modBillet b fun x => { x with breaks := x.breaks.map fun y => if y.idx = k.idx then y.hit else y }
    let s := { s with brkStore := s.brkStore.map fun (e : Nat × Nat × Break) =>
        if e.1 = p.cid ∧ e.2.1 = p.page ∧ e.2.2.idx = k.idx then (e.1, e.2.1, e.2.2.hit) else e }
    s.stopAt p.launch b (.comparator b k.idx)

def InChan.enc (c : InChan) : Enc := if c.shape = .packed then .chan c.fmt c.scx else .raw

/-- Whether a port takes a channel's head in this fc (R34, R36). -/
def Tile.takes (t : Tile) (now blk slot : Nat) (p : Port) (tag : Tag) : Bool :=
  t.portSpace blk slot p tag == .ok && !(t.accepted.contains (posOf blk slot, p)) && !(t.dueTaken blk slot p now)

/-- Delivers a channel's head to its destination port. A porter takes the heads of its arcs itself (R176). -/
def State.deliverHead (s : State) (a : TileAddr) (ch : Nat) (c : InChan) (tok : Token) (rest : List Token) : State :=
  let t := s.tile a
  let porter := match t.instrAt c.dblk c.dslot with
    | some (.porter _) => c.dport == .R
    | _ => false
  if porter || c.delivered then s
  else if t.takes (s.now a.b) c.dblk c.dslot c.dport tok.tag then
    let s := s.modTile a fun t => { t with inCh := Tbl.put ch { c with queue := rest, delivered := true, passed := [] } t.inCh }
    s.acceptPort ⟨a.b, a.t, c.dblk, c.dslot⟩ c.dport tok c.enc
  else s

def execChannelDelivery (a : TileAddr) (ch : Nat) (s : State) : Answer :=
  .next (if s.active a.b then
    match Tbl.get ch (s.tile a).inCh with
    | none => s
    | some c =>
      match c.queue with
      | [] => s
      | tok :: rest =>
        match s.withholds a ch c with
        | k :: _ => s.breakHit a.b k
        | [] => s.deliverHead a ch c tok rest
  else s)

end Sys2Proof.Machine
end

