-- ==== Sys2Proof/Machine/MemNodes.lean ====
section
/-! DEFINITION. Row 0x6 at issue: loads, stores, atomics, fences, waits, timelines, prefetches, copies and caravans (06 R183 to R216).
What the memory port, the wait slots, the watch units and the copy engine then do is in Machine/MemEvents.lean and
Machine/CopyEvents.lean. Choices and readings: log entries 15, 22, 62, 71, 73. -/

namespace Sys2Proof

/-- Access size in bytes (R188). -/
def Access.bytes : Access → Nat
  | .word => 4 | .vec => 64 | .half => 2 | .byte => 1

/-- Scope of an XG node whose XMOD[2:0] names it (R205, R207, R208). -/
def GNode.scope (g : GNode) : Scope := (Scope.ofCode (g.x.xmod.extractLsb' 0 3)).getD .tile

/-- The address fields of an access: space, window, access size. -/
def Instr.place (i : Instr) : Space × Nat × Nat :=
  match i with
  | .ld n sp _ | .st n sp _ | .ldx n sp _ | .stx n sp _ | .amo n sp _ _ | .red n sp _ _ => (sp, n.xm.win.toNat, n.w.bytes)
  | .prf n => (.glb, n.xm.win.toNat, 64)
  | .wtaddr n g _ => (if g then .glb else .scr, n.xmod / 8, 4)
  | _ => (.scr, 0, 4)

end Sys2Proof

namespace Sys2Proof.Machine

/-! ### Guards, END and chains -/

/-- The guard's word, when the page names port Q (R184). -/
def State.guardOf (s : State) (i : Instr) (f : Fire) : Option Word :=
  if ((s.tile s.selTile).reads s.sel.blk s.sel.slot i).contains .Q then some (f.word .Q) else none

/-- The guard is true or absent (R22, R184). -/
def State.guardTrue (s : State) (i : Instr) (f : Fire) : Bool := (s.guardOf i f).all fun w => w != 0

/-- A node of row 0x6 or a row 0x7 release: its data firings, with its ENDs forwarded in a free fc (R36, R186). -/
def State.onLoose (s : State) (i : Instr) (onFire : Fire → State) : State :=
  s.onNode i (fun tag took => onFire (s.fireOf i tag took))
    (fun tag level took => s.tryFire i { s.endFiring tag took ((tgts i).map (endOut tag level)) with loose := true })

/-- The key under which a chained node performs; in static mode firings are counted (R193). -/
def Tile.chainKey (t : Tile) (blk : Nat) (tag : Tag) : Key := if t.isStatic blk then ⟨0, 0, 0, 0⟩ else tag.key

/-- The predecessor has performed for this instance (R193). -/
def Tile.chainOpen (t : Tile) (blk : Nat) (m : MNode) (tag : Tag) : Bool :=
  decide (m.xm.pred.toNat ≥ 62) || (t.node (posOf blk m.xm.pred.toNat)).performed.contains (t.chainKey blk tag)

def removeOne (k : Key) : List Key → List Key
  | [] => []
  | x :: xs => if x = k then xs else x :: removeOne k xs

/-- The node's issue uses its predecessor's performance. -/
def Tile.usePlace (t : Tile) (blk : Nat) (m : MNode) (tag : Tag) : Tile :=
  if m.xm.pred.toNat ≥ 62 then t
  else t.modNode (posOf blk m.xm.pred.toNat) fun n => { n with performed := removeOne (t.chainKey blk tag) n.performed }

/-- A chained node has performed for an instance: its successor may issue. -/
def Tile.addPlace (t : Tile) (blk slot : Nat) (m : MNode) (tag : Tag) : Tile :=
  if m.xm.succ.toNat ≥ 62 then t
  else t.modNode (posOf blk slot) fun n => { n with performed := n.performed ++ [t.chainKey blk tag] }

/-- A node whose place in its chain has come fires with k; it holds CHAIN otherwise. -/
def State.chained (s : State) (m : MNode) (tag : Tag) (k : State) : State :=
  if (s.tile s.selTile).chainOpen s.sel.blk m tag then k else s.setStall 8

/-- A firing under a false guard (R185): what it sends, and its place in the chain as a no-op. -/
def State.noOpFiring (s : State) (i : Instr) (f : Fire) (m : Option MNode) (p : Option Payload) : Firing :=
  let place (t : Tile) : Tile := match m with
    | none => t
    | some m => (t.usePlace s.sel.blk m f.tag).addPlace s.sel.blk s.sel.slot m f.tag
  { use := fun t => place (t.useAll f.took), loose := true, outs := (p.map fun p => sendAll i f.tag.asData (.pay p)).getD [] }

def State.noOp (s : State) (i : Instr) (f : Fire) (m : Option MNode) (p : Option Payload) : State := s.tryFire i (s.noOpFiring i f m p)

/-! ### Addresses (R188, R189) -/

/-- Bounds of an access of size bytes at an effective offset (R188). -/
def Billet.inBounds (x : Billet) (cap : Nat) (sp : Space) (win off size : Nat) : Bool :=
  decide (off < 2 ^ 32) &&
  match sp with
  | .scr => decide (off < 2 ^ 23) && decide (off % 2 ^ 20 + size ≤ cap)
  | .glb => (Tbl.get win x.windows).any fun w => decide (off + size ≤ w.2)
  | .ring => decide (off < 2 ^ 24) &&
      (Tbl.get (off / 2 ^ 20) x.rings).any fun r => decide (off / 1024 % 1024 < r.slots)

/-- The trap that checks 1 and 2 of R189 raise: BOUNDS, then MISALIGN. -/
def Billet.addrTrap (x : Billet) (cap : Nat) (sp : Space) (win off size : Nat) : Option Nat :=
  if !x.inBounds cap sp win off size then some clsBounds
  else if off % size ≠ 0 then some clsMisalign
  else none

/-- DETAIL of an address trap (R411): lane in [3:0], space in [5:4]. -/
def addrDetail (lane : Nat) (sp : Space) : Nat := lane + 16 * sp.code.toNat

/-- Effective offset of an address word, with a signed displacement in units of an access size (R188). A sum below 0 stands as
its 64-bit two's complement, which lies above every bound. -/
def effOffset (m : MNode) (size : Nat) (w : Word) : Nat :=
  (BitVec.ofInt 64 ((w.toNat : Int) + m.xm.disp.toInt * (size : Int))).toNat

/-! ### Into the memory port (R187) -/

def Billet.counterFull (x : Billet) (tile : Nat) (i : Instr) : Bool :=
  (isLoad i && decide (x.loads tile ≥ 64)) || (isStore i && decide (x.stores tile ≥ 64))

/-- Watch units in use, armed or reserved by an issued wtaddr (R187, R205). -/
def Billet.watchUse (x : Billet) : Nat :=
  x.watches.length + (x.tiles.map fun t => ((t.port ++ t.flying).filter fun a => match a.instr with
    | .wtaddr .. => true
    | _ => false).length).sum

/-- Issues an access: checks 1 and 2 where R189 makes them at issue, an entry of the port buffer, a result that waits. -/
def State.issueAcc (s : State) (i : Instr) (f : Fire) (m : Option MNode) (outs : List Out) (a : Acc) (bad : Option (Nat × Nat)) :
    State :=
  let x := s.billet s.sel.b
  let t := x.tile s.sel.t
  let full := decide (t.port.length ≥ Config.portBuffer)
  if full && (t.port.head?.any fun h => h.held) then s.setStall 9
  else
    let watch := match i with
      | .wtaddr .. => decide (x.watchUse ≥ Config.watchUnits)
      | _ => false
    let fr : Firing :=
      { use := fun t => match m with
          | none => t.useAll f.took
          | some m => (t.useAll f.took).usePlace s.sel.blk m f.tag
        outs := outs, busy := full || x.counterFull s.sel.t i || watch, loose := true, hold := some x.nextId
        bill := fun y => { y with nextId := x.nextId + 1 } }
    s.whenFree i fr (match bad with
      | some (cls, off) => s.trapSelected cls f.tag (addrDetail 0 i.place.1) off
      | none => (s.commit i fr).modTile s.selTile fun t => { t with port := t.port ++ [a] })

/-- An access of the selected node, with its lanes and data. -/
def State.newAcc (s : State) (i : Instr) (f : Fire) (todo : List (Nat × Nat)) (data : Payload) : Acc :=
  { id := (s.billet s.sel.b).nextId, blk := s.sel.blk, slot := s.sel.slot, instr := i, tag := f.tag, issue := f.now,
    todo := todo, data := data }

/-- The trap at issue of a single access. -/
def State.addrBad (s : State) (i : Instr) (off : Nat) : Option (Nat × Nat) :=
  let (sp, win, size) := i.place
  ((s.billet s.sel.b).addrTrap (s.mtCap s.sel.b) sp win off size).map fun c => (c, off)

/-- The payload of a result that is zero under a false guard (R185). -/
def zeroPay (vec : Bool) : Payload := if vec then .vec (List.replicate 16 0) else .word 0

/-- ld, st, amo and red: one access at L + DISP × s. -/
def State.single (s : State) (i : Instr) (m : MNode) (vec : Bool) (data : Fire → Payload) : State :=
  s.onLoose i fun f => s.chained m f.tag
    (if !s.guardTrue i f then s.noOp i f (some m) (some (zeroPay vec))
     else
       let off := effOffset m m.w.bytes (f.word .L)
       s.issueAcc i f (some m) (sendAll i f.tag.asData (.pay (zeroPay vec))) (s.newAcc i f [(0, off)] (data f)) (s.addrBad i off))

/-- ldx and stx: one access per enabled lane; their checks are made at the port (R189). -/
def State.lanewiseAcc (s : State) (i : Instr) (m : MNode) (vec : Bool) (data : Fire → Payload) : State :=
  s.onLoose i fun f => s.chained m f.tag
    (let mask : Word := (s.guardOf i f).getD 0xFFFF
     let on := (List.range 16).filter fun j => mask.getLsbD j
     if on.isEmpty then s.noOp i f (some m) (some (zeroPay vec))
     else
       let ls := f.lanes 16 .L
       let todo := on.map fun j => (j, effOffset m m.w.bytes (nthD 0 ls j))
       s.issueAcc i f (some m) (sendAll i f.tag.asData (.pay (zeroPay vec))) (s.newAcc i f todo (data f)) none)

/-- A port's payload for a shape of access: a vector for W = 01, a word otherwise. -/
def Fire.accData (f : Fire) (vec : Bool) : Payload := if vec then .vec (f.lanes 16 .R) else .word (f.word .R)

def execLd (n : MNode) (sp : Space) (o : Order) (s : State) : Answer :=
  .next (s.single (.ld n sp o) n (n.w == .vec) fun _ => .word 0)

def execSt (n : MNode) (sp : Space) (o : Order) (s : State) : Answer :=
  .next (s.single (.st n sp o) n false fun f => f.accData (n.w == .vec))

def execLdx (n : MNode) (sp : Space) (o : Order) (s : State) : Answer :=
  .next (s.lanewiseAcc (.ldx n sp o) n true fun _ => zeroPay true)

def execStx (n : MNode) (sp : Space) (o : Order) (s : State) : Answer :=
  .next (s.lanewiseAcc (.stx n sp o) n false fun f => f.accData true)

/-- amo.cas reads R as a vector, whatever W (R199). -/
def execAmo (n : MNode) (sp : Space) (o : Order) (op : AtomOp) (s : State) : Answer :=
  .next (s.single (.amo n sp o op) n (n.w == .vec) fun f => f.accData (n.w == .vec || op == .cas))

def execRed (n : MNode) (sp : Space) (o : Order) (op : AtomOp) (s : State) : Answer :=
  .next (s.single (.red n sp o op) n false fun f => f.accData (n.w == .vec))

/-! ### Releases (R196, R197, R207) -/

/-- Issues a release that does not pass the memory port: its result waits for RELEASE_COMPLETE. -/
def State.issueRelease (s : State) (i : Instr) (f : Fire) (m : Option MNode) (sc : Scope) (p : Payload) : State :=
  let x := s.billet s.sel.b
  let a := s.newAcc i f [] p
  s.tryFire i
    { use := fun t => match m with
        | none => t.useAll f.took
        | some m => (t.useAll f.took).usePlace s.sel.blk m f.tag
      outs := sendAll i f.tag.asData (.pay p), loose := true, hold := some x.nextId
      bill := fun y => { y with nextId := x.nextId + 1, releases := y.releases ++ [⟨s.sel.t, a, sc⟩] } }

/-- fence (R197): an acquire completes with its invalidations (R295); a release waits for RELEASE_COMPLETE. -/
def execFence (n : MNode) (o : Order) (s : State) : Answer :=
  let i : Instr := .fence n o
  .next (s.onLoose i fun f => s.chained n f.tag
    (let p : Payload := if n.w = .vec then .vec (f.lanes 16 .L) else .word (f.word .L)
     if !s.guardTrue i f then s.noOp i f (some n) (some p)
     else if o = .acq then
       let fr : Firing :=
         { use := fun t => ((t.useAll f.took).usePlace s.sel.blk n f.tag).addPlace s.sel.blk s.sel.slot n f.tag
           outs := sendAll i f.tag.asData (.pay p), loose := true }
       s.whenFree i fr ((s.commit i fr).acquireCaches s.sel.b n.xm.scope)
     else s.issueRelease i f (some n) n.xm.scope p))

def execTlinc (n : GNode) (s : State) : Answer :=
  let i : Instr := .tlinc n
  .next (s.onLoose i fun f =>
    if s.guardTrue i f then s.issueRelease i f none n.scope (.word 0)
    else s.noOp i f none (some (.word (half ((s.billet s.sel.b).timeline s.sel.t (n.imm % 8)) false))))

/-! ### Waits (R204, R205, R208) -/

def execWtaddr (n : GNode) (glb : Bool) (c : WatchCond) (s : State) : Answer :=
  let i : Instr := .wtaddr n glb c
  .next (s.onLoose i fun f =>
    if !s.guardTrue i f then s.noOp i f none (some (.word 0))
    else
      let off := (f.word .L).toNat
      s.issueAcc i f none (sendAll i f.tag.asData (.pay (.word 0))) (s.newAcc i f [(0, off)] (.word (f.word .R))) (s.addrBad i off))

/-- waitq and tlwait occupy a wait slot; tlwait delivers its L token with its KIND (R208). -/
def State.issueWait (s : State) (i : Instr) (w : Shape) (kind : Fire → Kind) : State :=
  s.onLoose i fun f =>
    let x := s.billet s.sel.b
    let p := f.pay w .L
    let slot : WaitSlot := { id := x.nextId, blk := s.sel.blk, slot := s.sel.slot, instr := i,
                             tok := { tag := { f.tag with kind := kind f }, pay := p }, issue := f.now }
    s.tryFire i
      { use := fun t => let t := t.useAll f.took; { t with slots := t.slots ++ [slot] }
        outs := sendAll i f.tag.asData (.pay p), loose := true, hold := some x.nextId
        busy := decide ((x.tile s.sel.t).slots.length ≥ Config.waitSlots)
        bill := fun y => { y with nextId := x.nextId + 1 } }

def execWaitq (n : GNode) (s : State) : Answer := .next (s.issueWait (.waitq n) n.w fun _ => .data)

def execTlwait (n : GNode) (s : State) : Answer := .next (s.issueWait (.tlwait n) .word fun f => f.kindOf .L)

/-- prf (R201): a hint through the port; it is in no chain and raises no trap. -/
def execPrf (n : MNode) (s : State) : Answer :=
  let i : Instr := .prf n
  .next (s.onLoose i fun f =>
    if !s.guardTrue i f then s.noOp i f none none
    else s.issueAcc i f none [] (s.newAcc i f [(0, effOffset n 64 (f.word .L))] (.word 0)) none)

/-! ### Copies (R210, R211, R213) -/

/-- Word k of a descriptor. -/
def dw (d : List Word) (k : Nat) : Word := nthD 0 d k
def descCtx (d : List Word) : Nat := bits (dw d 10) 24 2
def descFill (d : List Word) : Bool := (dw d 11).getLsbD 0

/-- A reserved value or field, or a zero size, in a copy descriptor (R210, R211 step 1). -/
def descBad (d : List Word) (ring : Bool) : Bool :=
  let w := dw d 10
  dw d 2 == 0 || bits (dw d 3) 16 16 == 0 || bits (dw d 3) 0 16 == 0 ||
  bits w 29 3 != 0 || bits w 21 3 != 0 || bits w 13 3 != 0 || bits w 5 3 != 0 ||
  decide (bits w 26 3 > 4) || bits w 16 2 == 2 || decide (bits w 8 2 > (if ring then 0 else 1)) ||
  decide (bits w 0 2 > 1) || bits (dw d 11) 1 31 != 0 || (d.drop 12).any (· != 0) ||
  (ring && bits (dw d 1) 4 28 != 0)

/-- Bytes of a copy. -/
def descBytes (d : List Word) : Nat := (dw d 2).toNat * bits (dw d 3) 0 16 * bits (dw d 3) 16 16

/-- The ring a cpyr names, when the page declares it and the sizes are whole (R211, R213). -/
def Billet.ringOfDesc (x : Billet) (d : List Word) : Option Nat :=
  let r := (dw d 1).toNat
  if (Tbl.get r x.rings).isSome ∧ (dw d 2).toNat % 64 = 0 ∧ descBytes d % 1024 = 0 then some r else none

/-- cpy and cpyr at issue (R211 steps 1 and 2): BOUNDS on a bad descriptor, otherwise a number and a place in the context. The ADDR and
DETAIL of that BOUNDS record, which the spec does not give, are 0: DESIGN CHOICE, log entry 71. -/
def State.issueCopy (s : State) (i : Instr) (ring : Bool) : State :=
  s.onLoose i fun f =>
    let x := s.billet s.sel.b
    let d := f.lanes 16 .L
    let c : CopyCtx := nthD {} x.ctxs (descCtx d)
    if !s.guardTrue i f then s.noOp i f none (some (.word (half c.last false)))
    else
      let k := c.last + 1
      let rg := if ring then x.ringOfDesc d else none
      let cp : Copy := { num := k, tile := s.sel.t, blk := s.sel.blk, slot := s.sel.slot, tag := f.tag, desc := d, ring := rg }
      let fr : Firing :=
        { use := fun t => t.useAll f.took
          outs := sendAll i f.tag.asData (.pay (.word (half k false))), loose := true
          busy := decide (x.copies s.sel.t ≥ 32)
          bill := fun y => { y with ctxs := modNth (fun c => { c with last := k, queue := c.queue ++ [cp] }) (descCtx d) y.ctxs } }
      s.whenFree i fr (if descBad d ring || (ring && rg.isNone) then s.trapSelected clsBounds f.tag 0 0 else s.commit i fr)

def execCpy (n : GNode) (s : State) : Answer := .next (s.issueCopy (.cpy n) false)

def execCpyr (n : GNode) (s : State) : Answer := .next (s.issueCopy (.cpyr n) true)

/-! ### Caravans (R214 to R216) -/

/-- The launch and page of a billet. -/
def State.owner (s : State) (b : Nat) : Option (Launch × Nat) :=
  (s.billet b).page.bind fun p => (s.launch? p.launch).map fun l => (l, p.page)

/-- A caravan of the billet's graph. -/
def State.caravan? (s : State) (b k : Nat) : Option Caravan := (s.owner b).bind fun o => o.1.caravans[k]?

def State.modCaravan (s : State) (b k : Nat) (f : Caravan → Caravan) : State :=
  match s.owner b with
  | none => s
  | some (l, _) => s.modLaunch l.id fun l => { l with caravans := modNth f k l.caravans }

/-- A token as a caravan slot (R215): TAGLO, TAGHI, SHAPE, zeros, PAYLOAD. -/
def Token.toSlot (t : Token) : List Byte :=
  let p := bytesOfWords (match t.pay with
    | .word w => [w]
    | .vec ls => ls)
  (bytesOf 5 t.tag.toNat ++ [if t.pay.isVec then 1 else 0] ++ List.replicate 58 0 ++ p ++ List.replicate 60 0).take 128

/-- The token of a caravan slot; none where its tag breaks R15. -/
def tokenOfSlot (bs : List Byte) : Option Token :=
  match Tag.ofNat (natOf (bs.take 5)) with
  | none => none
  | some tag =>
    let p := bs.drop 64
    if !tag.legal then none
    else some { tag := tag, pay := if (nthD 0 bs 5).getLsbD 0 then .vec (wordsOfBytes 16 p) else .word (wordOfBytes (p.take 4)) }

/-- Credits a qput node has taken (R216): its tokens in the caravan and on their way to it. -/
def Billet.creditsTaken (x : Billet) (page tile pos : Nat) (c : Caravan) : Nat :=
  (c.toks.filter fun k => k.page = page ∧ k.tile = tile ∧ k.pos = pos).length +
    ((x.pending tile).filter fun a => posOf a.blk a.slot = pos).length

/-- qput writes its token with tag and KIND unchanged, an END as an ordinary entry (R186, R216). -/
def State.putToken (s : State) (i : Instr) (n : GNode) (f : Fire) (p : Payload) : State :=
  let x := s.billet s.sel.b
  match s.owner s.sel.b, s.caravan? s.sel.b (n.imm % 256) with
  | some (_, page), some c =>
    if x.creditsTaken page s.sel.t s.sel.pos c ≥ c.slots then s.setStall 5
    else s.issueAcc i f none [] (s.newAcc i f [] p) none
  | _, _ => s

def execQput (n : GNode) (s : State) : Answer :=
  let i : Instr := .qput n
  .next (s.onNode i
    (fun tag took =>
      let f := s.fireOf i tag took
      if s.guardTrue i f then s.putToken i n { f with tag := { tag with kind := f.kindOf .L } } (f.pay n.w .L) else s.noOp i f none none)
    (fun tag level took =>
      s.putToken i n (s.fireOf i { tag with kind := .fin } took) (.word (BitVec.ofNat 32 level))))

/-- qget (R216): fires on a filled head slot, with the stored tag and KIND; a vector slot read as a word is STREAM_MISMATCH, a stored tag
that breaks R15 an uncorrectable error of the GDDR 7 that holds the slot. -/
def execQget (n : GNode) (s : State) : Answer :=
  let i : Instr := .qget n
  .next (s.atNode i fun _ =>
    match (s.caravan? s.sel.b (n.imm % 256)).bind fun c => c.toks.head? with
    | none => s.setStall 0
    | some k =>
      match tokenOfSlot k.slot with
      | none => s.ueBillet s.sel.b 8 0
      | some tok =>
        if n.w = .word ∧ tok.pay.isVec = true then s.trapAt clsStreamMismatch tok.tag 0 0
        else
          let p : Payload := if tok.isEnd then tok.pay else shaped n.w tok.pay
          let fr : Firing := { outs := sendAll i tok.tag (.pay p), loose := true }
          s.whenFree i fr ((s.commit i fr).modCaravan s.sel.b (n.imm % 256) fun c => { c with toks := c.toks.drop 1 }))

end Sys2Proof.Machine
end

