-- ==== Sys2Proof/Machine/MemEvents.lean ====
section
/-! DEFINITION. The memory port, accesses in flight, releases, watch units, wait slots and sparse-update units (06 R189 to R208, 09 R291
to R303, 07 R236, R243, R244). Choices and readings: log entries 18, 22, 23, 44, 47, 63, 65, 67, 71, 74. -/

namespace Sys2Proof

/-- Scope of an access or release. -/
def Instr.scope (i : Instr) : Scope :=
  match i.mnode with
  | some m => m.xm.scope
  | none => match i with
    | .wtaddr n _ _ | .tlinc n | .tlwait n => n.scope
    | .chk .. | .halt .. => .system
    | _ => .tile

def Instr.order (i : Instr) : Order :=
  match i with
  | .ld _ _ o | .st _ _ o | .ldx _ _ o | .stx _ _ o | .amo _ _ o _ | .red _ _ o _ | .fence _ o => o
  | .wtaddr .. | .tlwait .. => .acq
  | .tlinc .. | .chk .. | .halt .. => .rel
  | _ => .plain

def Order.acquires : Order → Bool
  | .acq | .acqrel => true
  | _ => false
def Order.releases : Order → Bool
  | .rel | .acqrel => true
  | _ => false

/-- Whether an access writes. -/
def Instr.writes (i : Instr) : Bool :=
  match i with
  | .st .. | .stx .. | .amo .. | .red .. => true
  | _ => false

def Instr.perLane (i : Instr) : Bool :=
  match i with
  | .ldx .. | .stx .. => true
  | _ => false

/-- Whether an access binds or writes a place at a time, its value held with it until it is sent: ld, ldx, stx (R191). -/
def Instr.binds (i : Instr) : Bool :=
  match i with
  | .ld .. | .ldx .. | .stx .. => true
  | _ => false

/-- Operation, whether it covers a granule, whether it may be merged, of an amo or red. -/
def Instr.atom (i : Instr) : Option (AtomOp × Bool × Bool) :=
  match i with
  | .amo n _ _ op => some (op, n.w == .vec, false)
  | .red n _ _ op => some (op, n.w == .vec, true)
  | .spacc _ => some (.fadd, false, true)
  | _ => none

end Sys2Proof

namespace Sys2Proof.Machine

/-! ### The result of an access -/

/-- A performed node's chain place (R193). -/
def State.placeOf (s : State) (a : TileAddr) (acc : Acc) : State :=
  match acc.instr.mnode with
  | none => s
  | some m => s.modTile a fun t => t.addPlace acc.blk acc.slot m acc.tag

/-- An access has performed: its chain successor may issue, its acquire invalidates (R295), its result goes out. -/
def State.finish (s : State) (a : TileAddr) (acc : Acc) (p : Payload) : State :=
  let s := if acc.instr.order.acquires then s.acquireCaches a.b acc.instr.scope else s
  (s.placeOf a acc).deliver a acc.id acc.tag.asData p

/-- The word or vector of bytes read (R191). -/
def payOfBytes (w : Access) (bs : List Byte) : Payload :=
  if w = .vec then .vec (wordsOfBytes 16 bs) else .word (wordOfBytes bs)

/-- The low bytes of a payload that a store writes (R191). -/
def bytesOfPay (w : Access) (p : Payload) : List Byte :=
  if w = .vec then bytesOfWords p.toVec else bytesOf w.bytes p.lane0.toNat

def firstLoc (acc : Acc) : Loc := match acc.locs with
  | (_, l) :: _ => l
  | [] => .scr 0

/-- What of an access performs next as one event: one lane of an ldx or stx (R191, R192). -/
def Acc.next (acc : Acc) : Acc := if acc.instr.perLane then { acc with locs := acc.locs.take 1 } else acc

/-- Reads n bytes at a place; for a frozen billet, whose L1 stands, from the level below it (R219). -/
def State.bindLoc (s : State) (b : Nat) (sc : Scope) (l : Loc) (n : Nat) : List Byte × State :=
  match l with
  | .scr _ => s.readLoc b sc false l n
  | .glb pa u =>
    let p := pathOf (s.billet b).hasL1 false u sc pa
    s.globalRead b (if (s.billet b).isFrozen && p == .l1 then .side else p) pa n

/-- Performs the next event of a ld, ldx or stx: the value read stays with the access until its last lane has performed. -/
def State.performLane (s : State) (b : Nat) (acc : Acc) : Acc × State :=
  match acc.locs with
  | [] => (acc, s)
  | (j, l) :: rest =>
    let done : Acc := { acc with locs := rest }
    let sc := acc.instr.scope
    match acc.instr with
    | .ld n _ _ =>
      let (bs, s) := s.bindLoc b sc l n.w.bytes
      ({ done with data := payOfBytes n.w bs }, s)
    | .ldx n _ _ =>
      let (bs, s) := s.bindLoc b sc l n.w.bytes
      ({ done with data := .vec (setNth j (wordOfBytes bs) acc.data.toVec) }, s)
    | .stx n _ _ => (done, s.writeLoc b sc false l (bytesOf n.w.bytes (nthD 0 acc.data.toVec j).toNat))
    | _ => (done, s)

/-- The result of a ld, ldx or stx whose lanes have all performed. -/
def Acc.result (acc : Acc) : Payload :=
  match acc.instr with
  | .stx .. => .word 0
  | _ => acc.data

/-! ### The memory port (R188 to R190) -/

/-- What checks 3 and 4 of R189 find for an offset whose bounds hold. -/
inductive Placed
  | ok (l : Loc) (s : State)
  | held (va : Nat)
  | perm (addr : Nat) (s : State)
  /-- The address lies on a side that is ISOLATED. -/
  | lost (s : State)

def State.locate (s : State) (b cid : Nat) (sp : Space) (win off : Nat) (write : Bool) : Placed :=
  let x := s.billet b
  match sp with
  | .scr =>
    let m := off / 2 ^ 20
    if (nthD {} x.mtiles m).role = .addr then .ok (.scr (scrKey b m (off % 2 ^ 20))) s else .perm off s
  | .ring =>
    match Tbl.get (off / 2 ^ 20) x.rings with
    | some r => .ok (.scr (scrKey b r.mtile (r.base * 1024 + off % 2 ^ 20))) s
    | none => .perm off s
  | .glb =>
    let va := ((Tbl.get win x.windows).getD (0, 0)).1 + off
    match s.translateAt b cid va write with
    | none => if decide (sideOf b = 0) && s.walkCut cid va then .lost s else .held va
    | some (l, s) =>
      if write && !l.w then .perm va s
      else if s.outOfReach b l.pa then .lost s
      else .ok (.glb l.pa l.uncached) s

/-- How the port leaves an access. -/
inductive PortEnd
  | done
  | held (va lane : Nat)
  | trap (cls lane addr : Nat)
  | lost

/-- Translates and checks the remaining lanes of an access in ascending order. -/
def State.portLanes (s : State) (b cid : Nat) (acc : Acc) : List (Nat × Nat) → State × Acc × PortEnd
  | [] => (s, { acc with todo := [] }, .done)
  | (j, off) :: rest =>
    let (sp, win, size) := acc.instr.place
    let bad := if acc.instr.perLane then (s.billet b).addrTrap (s.mtCap b) sp win off size else none
    match bad with
    | some cls => (s, { acc with todo := (j, off) :: rest }, .trap cls j off)
    | none =>
      match s.locate b cid sp win off acc.instr.writes with
      | .held va => (s, { acc with todo := (j, off) :: rest }, .held va j)
      | .perm addr s => (s, { acc with todo := (j, off) :: rest }, .trap clsPermission j addr)
      | .lost s => (s, acc, .lost)
      | .ok l s => s.portLanes b cid { acc with locs := acc.locs ++ [(j, l)] } rest

/-- A trap on an issued access (R415 item 2): the access is gone and sends nothing. -/
def State.trapAccess (s : State) (a : TileAddr) (acc : Acc) (cls lane addr : Nat) : State :=
  let s := s.modTile a fun t =>
    let t := { t with flights := t.flights.filter fun f => f.hold ≠ some acc.id }
    t.modNode (posOf acc.blk acc.slot) fun n => { n with trapped := n.trapped ++ [t.chainKey acc.blk acc.tag] }
  s.trap ⟨a.b, a.t, acc.blk, acc.slot⟩ cls acc.tag (addrDetail lane acc.instr.place.1) addr

def State.setHead (s : State) (a : TileAddr) (acc : Acc) : State :=
  s.modTile a fun t => { t with port := acc :: t.port.drop 1 }

def State.popPort (s : State) (a : TileAddr) : State := s.modTile a fun t => { t with port := t.port.drop 1 }

/-- The XLATE record of a held access (R190): one for each granule and context until the driver answers (R416). -/
def State.noteXlate (s : State) (p : Resident) (n : NodeAddr) (tag : Tag) (lane : Nat) (write : Bool) (va : Nat) : State :=
  if (s.ctx p.cid).xlate.contains (va / 65536) then s
  else
    let s := s.modCtx p.cid fun c => { c with xlate := c.xlate ++ [va / 65536] }
    s.noteRecord p.launch (trapInfo p n clsXlate tag (lane + (if write then 16 else 0)) va)

/-- Holds an access at the head of its port (R190). -/
def State.holdAccess (s : State) (a : TileAddr) (acc : Acc) (p : Resident) (va lane : Nat) : State :=
  (s.setHead a { acc with held := true }).noteXlate p ⟨a.b, a.t, acc.blk, acc.slot⟩ acc.tag lane acc.instr.writes va

/-- The sparse-update unit of a place (R200): an M-tile's, or the home slice's. -/
def unitOf : Loc → Nat
  | .scr k => k / 2 ^ 20
  | .glb pa _ => 2 ^ 20 + (match homeOf pa with
    | some sd => 2 ^ 10 * sd + Config.l2Slice (lineOf pa)
    | none => 2 ^ 12)

def State.unitUse (s : State) (u : Nat) : Nat := (s.sparse.filter fun o => unitOf o.loc = u).length

/-- Sends an operation to its unit; none when the unit holds 64. -/
def State.toUnit (s : State) (a : TileAddr) (acc : Acc) : Option State :=
  let l := firstLoc acc
  if s.unitUse (unitOf l) ≥ Config.sparseOps then none
  else
    let s := s.modTile a fun t => { t with flying := t.flying ++ [{ acc with atUnit := true }] }
    some { s with sparse := s.sparse ++ [{ tile := a, acc := acc.id, instr := acc.instr, loc := l, data := acc.data, pos := posOf acc.blk acc.slot }] }

/-- prf (R201): brings the line into the level its scope names; any failure drops it. -/
def State.prefetch (s : State) (b cid : Nat) (n : MNode) (off : Nat) : State :=
  let win := n.xm.win.toNat
  if !(s.billet b).inBounds (s.mtCap b) .glb win off 1 then s
  else
    match s.locate b cid .glb win (off / 64 * 64) false with
    | .ok (.glb pa u) s =>
      if u || (homeOf pa).isNone then s
      else
        if n.xm.scope = .billet ∧ (s.billet b).hasL1 = true then s.fillL1 b pa
        else s.fillSide (s.cidOf b) (sideOf b) (lineOf pa * Config.lineBytes) Config.lineBytes
    | _ => s

/-- The head of the port, once translated and checked, goes where its kind takes it. -/
def State.portDone (s : State) (a : TileAddr) (acc : Acc) : State :=
  if acc.instr.order.releases then
    (s.popPort a).modBillet a.b fun x => { x with releases := x.releases ++ [⟨a.t, acc, acc.instr.scope⟩] }
  else
    match acc.instr with
    | .amo .. | .red .. =>
      (match (s.popPort a).toUnit a acc with
       | some s => s
       | none => s.setHead a acc)
    | _ => (s.popPort a).modTile a fun t => { t with flying := t.flying ++ [acc] }

/-- Processes the head of a tile's port buffer. A lane that traps waits until the lanes below it have performed (R189). -/
def State.portAccess (s : State) (a : TileAddr) : State :=
  match (s.tile a).port, (s.billet a.b).page with
  | acc :: _, some p =>
    if acc.held then s
    else
      match acc.instr with
      | .prf n => (s.popPort a).prefetch a.b p.cid n (acc.todo.map Prod.snd).sum
      | _ =>
        match s.portLanes a.b p.cid acc acc.todo with
        | (s, acc, .done) => s.portDone a acc
        | (s, acc, .held va lane) => s.holdAccess a acc p va lane
        | (s, acc, .trap cls lane addr) =>
          if acc.locs.isEmpty then (s.popPort a).trapAccess a acc cls lane addr else s.setHead a acc
        | (s, _, .lost) => s.remoteLost a.b
  | _, _ => s

def execMemoryPortAccess (a : TileAddr) (s : State) : Answer :=
  .next (if s.active a.b then s.portAccess a else s)

/-- The virtual address a held access waits for. -/
def Billet.heldVa (x : Billet) (a : Acc) : Option Nat :=
  match a.todo with
  | (_, off) :: _ => if a.held then some (((Tbl.get a.instr.place.2.1 x.windows).getD (0, 0)).1 + off) else none
  | [] => none

/-- PERMISSION at the node of a held access that the driver has aborted, once its lower lanes have performed (R189, R370). -/
def State.abortAccess (s : State) (a : TileAddr) (acc : Acc) : State :=
  match (s.billet a.b).heldVa acc, acc.todo with
  | some va, (lane, _) :: _ => if acc.locs.isEmpty then (s.popPort a).trapAccess a acc clsPermission lane va else s
  | _, _ => s

/-- One wake token releases one retry (R190). -/
def execAccessRetry (a : TileAddr) (s : State) : Answer :=
  .next (if s.active a.b then
    match (s.tile a).port with
    | acc :: _ =>
      if !(acc.held && acc.wake) then s
      else if acc.aborted then s.abortAccess a acc
      else (s.setHead a { acc with held := false, wake := false }).portAccess a
    | [] => s
  else s)

/-! ### Performing (R191 to R205, R216, R291 to R296) -/

/-- Two places in one aligned 64-byte granule. -/
def sameGranule : Loc → Loc → Bool
  | .scr a, .scr b => a / 64 == b / 64
  | .glb a _, .glb b _ => a / 64 == b / 64
  | _, _ => false

/-- R296, R216 and R226: an earlier access of the same node to the same granule, or an earlier qput or row write of it, has not performed. -/
def waitsBehind (before : List Acc) (acc : Acc) : Bool :=
  before.any fun e => e.blk == acc.blk && e.slot == acc.slot &&
    (match acc.instr with
     | .qput _ | .rpush _ => true
     | _ => e.locs.any fun l => acc.locs.any fun k => sameGranule l.2 k.2)

/-- The condition of wtaddr (R205). -/
def watchHolds (c : WatchCond) (x r : Word) : Bool :=
  match c with
  | .eq => x == r | .ne => x != r | .ges => !(x - r).msb | .tst => x &&& r != 0

/-- Performs an access that has left the port, other than a ld, ldx or stx, and sends its result. -/
def State.performAcc (s : State) (a : TileAddr) (acc : Acc) : State :=
  let sc := acc.instr.scope
  match acc.instr with
  | .st n _ _ => (s.writeLoc a.b sc false (firstLoc acc) (bytesOfPay n.w acc.data)).finish a acc (.word 0)
  | .amo .. | .red .. => match acc.reply with
    | some p => s.finish a acc p
    | none => s
  | .wtaddr _ _ c =>
    let (w, s) : Word × State := match acc.reply with
      | some p => (p.lane0, s)
      | none => let r := s.readLoc a.b sc false (firstLoc acc) 4; (wordOfBytes r.1, r.2)
    if watchHolds c w acc.data.lane0 then s.finish a acc (.word w)
    else s.modBillet a.b fun x => { x with watches := x.watches ++ [⟨a.t, { acc with reply := none }, firstLoc acc, false, s.now a.b + 1024⟩] }
  | .rpush _ => (s.writeLoc a.b .billet false (firstLoc acc) (bytesOfWords acc.data.toVec)).finish a acc (.word 0)
  | .qput n =>
    match s.owner a.b with
    | none => s
    | some (_, page) =>
      s.modCaravan a.b (n.imm % 256) fun c =>
        { c with toks := c.toks ++ [⟨page, a.t, posOf acc.blk acc.slot, Token.toSlot ⟨acc.tag, acc.data⟩⟩] }
  | _ => s

/-- A qput's slot is there (R216). -/
def State.slotFree (s : State) (b : Nat) (i : Instr) : Bool :=
  match i with
  | .qput n => (s.caravan? b (n.imm % 256)).any fun c => decide (c.toks.length < c.slots)
  | _ => true

/-- The structure code of a line: where the reading side finds it. -/
def State.lineCode (s : State) (side pa : Nat) : Nat :=
  if (Cache.ofLine (s.side side).rdc (lineOf pa)).isEmpty = false then 3
  else if s.sides.any fun d => d.hasL2 (lineOf pa) then 2
  else 8

/-- A line holds an error that its later reads return again, and that queues its page for retirement. -/
def State.badLine (s : State) (pa : Nat) : State :=
  { s with badLines := if s.badLines.contains (lineOf pa) then s.badLines else s.badLines ++ [lineOf pa] }

/-- The first of some places that lies in a line in error. -/
def State.badAmong (s : State) (ls : List Loc) : Option Nat := ls.findSome? fun l => match l with
  | .glb pa _ => if s.badLines.contains (lineOf pa) then some pa else none
  | .scr _ => none

/-- A line that an access reads holds an uncorrectable error, which a UE reports first (R419). -/
def State.readsBad (s : State) (acc : Acc) : Bool :=
  (match acc.instr with
   | .st .. | .stx .. | .qput .. | .rpush .. => false
   | _ => acc.reply.isNone) && acc.locs.any fun l => match l.2 with
    | .glb pa _ => s.badLines.contains (lineOf pa)
    | .scr _ => false

/-- An access issued in fc n completes, and its result leaves S6, no earlier than fc n + 6 (R187). -/
def Acc.ripe (acc : Acc) (now : Nat) : Bool := decide (acc.issue + 6 ≤ now)

/-- The kth access that may perform, with those that left the port before it: one in flight, or behind them the head of the port whose
lower lanes stand translated below one that is held or traps. -/
def Tile.performing (t : Tile) (k : Nat) : Option (List Acc × Acc) :=
  if k < t.flying.length then t.flying[k]?.map fun acc => (t.flying.take k, acc)
  else if k = t.flying.length then (t.port.head?.filter fun acc => acc.instr.perLane && !acc.locs.isEmpty).map fun acc => (t.flying, acc)
  else none

/-- The kth such access goes on as another. -/
def Tile.putPerforming (t : Tile) (k : Nat) (acc : Acc) : Tile :=
  if k < t.flying.length then { t with flying := setNth k acc t.flying } else { t with port := acc :: t.port.drop 1 }

/-- Whether the next event of an access has to wait. -/
def State.nextWaits (s : State) (before : List Acc) (acc : Acc) : Bool := waitsBehind before acc.next || s.readsBad acc.next

/-- Performs up to a number of events of an access, in ascending lane order. -/
def State.performLanes (s : State) (b : Nat) (before : List Acc) : Nat → Acc → Acc × State
  | 0, acc => (acc, s)
  | n + 1, acc =>
    if acc.locs.isEmpty || s.nextWaits before acc then (acc, s)
    else
      let (acc, s) := s.performLane b acc
      s.performLanes b before n acc

/-- Performs a free number of an access's events, at least one. -/
def State.performSome (s : State) (b : Nat) (before : List Acc) (acc : Acc) : Acc × State :=
  let (r, s) := s.draw
  s.performLanes b before (1 + r % acc.locs.length) acc

/-! ### Releases (R196) -/

/-- Nothing that the billet issued in an earlier fc is still to perform (R196, R303). -/
def Billet.releaseReady (x : Billet) (r : Release) : Bool :=
  (List.range 8).all fun t => (x.pending t).all fun a => a.id == r.acc.id || decide (a.issue ≥ r.acc.issue)

/-- A billet stands frozen, at power, with its requests where they stand (R219). -/
def State.standsFrozen (s : State) (b : Nat) : Bool :=
  (s.billet b).isFrozen && s.power == .c0 && (s.billet b).frozen.all fun f => f != .clock && f != .power

/-- A reply can reach a frozen billet for the next event of a read, or for a wtaddr: nothing of the line stands in the billet's L1. -/
def State.replyComes (s : State) (b : Nat) (acc : Acc) : Bool :=
  (match acc.instr with
   | .ld .. | .ldx .. => true
   | .wtaddr .. => acc.reply.isNone
   | _ => false) &&
  match acc.locs with
  | (_, .glb pa _) :: _ => ((s.billet b).l1.ofLine (lineOf pa)).isEmpty
  | _ => false

/-- Whether the kth access may perform an event now: its billet runs, or its reply arrives during a freeze (R219); a lane of a release
only once the release may (R196). -/
def State.mayPerform (s : State) (a : TileAddr) (k : Nat) (acc : Acc) : Bool :=
  (s.active a.b || (s.standsFrozen a.b && s.replyComes a.b acc)) &&
    (decide (k < (s.tile a).flying.length) || !acc.instr.order.releases || (s.billet a.b).releaseReady ⟨a.t, acc, acc.instr.scope⟩)

/-- Performs what it may of the kth access of a tile. A ld, ldx or stx whose last lane has performed sends its result when its billet
runs: a reply that comes during a freeze waits with it, and so does that of a wtaddr (R219). -/
def State.accessStep (s : State) (a : TileAddr) (k : Nat) (before : List Acc) (acc : Acc) : State :=
  if acc.instr.binds then
    let s := if acc.instr.order.releases then s.releaseCaches a.b acc.instr.scope else s
    let (acc, s) := s.performSome a.b before acc
    if acc.locs.isEmpty && decide (k < (s.tile a).flying.length) && s.active a.b then
      (s.modTile a fun t => { t with flying := t.flying.eraseIdx k }).finish a acc acc.result
    else s.modTile a fun t => t.putPerforming k acc
  else if (s.billet a.b).isFrozen then
    let (bs, s) := s.bindLoc a.b acc.instr.scope (firstLoc acc) 4
    s.modTile a fun t => t.putPerforming k { acc with reply := some (.word (wordOfBytes bs)) }
  else (s.modTile a fun t => { t with flying := t.flying.eraseIdx k }).performAcc a acc

def execAccessComplete (a : TileAddr) (k : Nat) (s : State) : Answer :=
  .next (match (s.tile a).performing k with
    | none => s
    | some (before, acc) =>
      if acc.atUnit || !s.mayPerform a k acc || !acc.ripe (s.now a.b) || s.nextWaits before acc || !s.slotFree a.b acc.instr then s
      else s.accessStep a k before acc)

def ChkFlag.bits : ChkFlag → BitVec 3
  | .done => 1 | .partially => 2 | .none => 4

/-- A chk of the launch stands among what takes effect in this fc. -/
def State.chkDue (s : State) (r : RecId) : Bool := s.due.any fun e => match e with
  | .chk q _ _ => q == r
  | _ => false

/-- A chk performs (R244): its node learns whether it is the launch's first; it takes effect at the end of the fc (R387). -/
def State.performChk (s : State) (a : TileAddr) (acc : Acc) (f : ChkFlag) : State :=
  match s.owner a.b with
  | none => s
  | some (l, _) =>
    let first := l.chk.isNone && !s.chkDue l.id
    let s := s.finish a acc (.word (if first then 0 else 1))
    { s with due := s.due ++ [.chk l.id (ChkFlag.bits f) acc.data.lane0] }

/-- A halt performs (R243); it takes effect at the end of the fc. -/
def State.performHalt (s : State) (b : Nat) : State :=
  match s.owner b with
  | none => s
  | some (l, _) => { s with due := s.due ++ [.halt l.id] }

/-- What a release does once its condition holds and its caches are written back. -/
def State.performRelease (s : State) (b : Nat) (r : Release) (back : State) : State :=
  let a : TileAddr := ⟨b, r.tile⟩
  match r.acc.instr with
  | .amo .. | .red .. => (s.toUnit a r.acc).getD back
  | .fence .. => s.finish a r.acc r.acc.data
  | .tlinc n =>
    let k := n.imm % 8
    let v : BitVec 64 := nthD 0 (s.billet b).tlu k + 1
    (s.modBillet b fun x => { x with tlu := setNth k v x.tlu }).finish a r.acc (.word (half v false))
  | .chk _ f => s.performChk a r.acc f
  | .halt _ => s.performHalt b
  | .stx .. =>
    let (acc, s) := s.performSome b [] r.acc
    if acc.locs.isEmpty then s.finish a acc (.word 0)
    else s.modBillet b fun x => { x with releases := x.releases ++ [{ r with acc := acc }] }
  | _ => s.performAcc a r.acc

def execReleaseComplete (b k : Nat) (s : State) : Answer :=
  .next (if s.active b then
    match takeNth k (s.billet b).releases with
    | none => s
    | some (r, rest) =>
      if (s.billet b).releaseReady r && r.acc.ripe (s.now b) then
        let s' := (s.releaseCaches b r.scope).modBillet b fun x => { x with releases := rest }
        s'.performRelease b r s
      else s
  else s)

/-! ### Watch units and wait slots -/

/-- A place read at its home, past every cache (R205). -/
def State.atHome (s : State) (l : Loc) (n : Nat) : List Byte :=
  match l with
  | .scr k => Memory.reads s.scr k n
  | .glb pa _ => s.homeReads pa n

def execWatchReread (b u : Nat) (s : State) : Answer :=
  .next (if s.active b then
    match takeNth u (s.billet b).watches with
    | none => s
    | some (w, rest) =>
      if (w.hit || decide (w.next ≤ s.now b)) && (s.badAmong [w.loc]).isNone then
        let v := wordOfBytes (s.atHome w.loc 4)
        let c : WatchCond := match w.acc.instr with
          | .wtaddr _ _ c => c
          | _ => .eq
        if watchHolds c v w.acc.data.lane0 then
          (s.modBillet b fun x => { x with watches := rest }).finish ⟨b, w.tile⟩ w.acc (.word v)
        else s.modBillet b fun x => { x with watches := setNth u { w with hit := false, next := s.now b + 1024 } x.watches }
      else s
  else s)

/-- The condition of a waitq or tlwait (R204, R208). -/
def State.waitHolds (s : State) (a : TileAddr) (w : WaitSlot) : Bool :=
  let x := s.billet a.b
  match w.instr with
  | .waitq n =>
    let lim (k v : Nat) : Bool := let l := n.imm / 16 ^ k % 16; l == 15 || decide (v ≤ l)
    lim 0 (x.loads a.t) && lim 1 (x.stores a.t) && lim 2 (x.copies a.t) && lim 3 (x.tile a.t).tileOps
  | .tlwait n => !(half (x.timeline a.t (n.imm % 16)) false - w.tok.pay.lane0).msb
  | _ => false

def execWaitSlotDeliver (a : TileAddr) (k : Nat) (s : State) : Answer :=
  .next (if s.active a.b then
    match takeNth k (s.tile a).slots with
    | none => s
    | some (w, rest) =>
      if decide (w.issue + 6 ≤ s.now a.b) && s.waitHolds a w then
        let s := s.modTile a fun t => { t with slots := rest }
        let s := match w.instr with
          | .tlwait n => s.acquireCaches a.b n.scope
          | _ => s
        s.deliver a w.id w.tok.tag w.tok.pay
      else s
  else s)

/-! ### Sparse-update units (R198 to R200, R236, R302) -/

def f32Of (w : Word) : Val := FFmt.decode .f32 w.toNat
def f32Bits (v : Val) : Word := BitVec.ofNat 32 (FFmt.encode .f32 v)

/-- The new word of an atomic (R198); cas keeps the old word when it differs from the comparand. -/
def atomWord (op : AtomOp) (o v c : Word) : Word :=
  match op with
  | .swap => v
  | .add => o + v
  | .and => o &&& v
  | .or => o ||| v
  | .xor => o ^^^ v
  | .smin => if v.toInt < o.toInt then v else o
  | .smax => if o.toInt < v.toInt then v else o
  | .umin => if v < o then v else o
  | .umax => if o < v then v else o
  | .cas => if o = c then v else o
  | .fadd => f32Bits (roundDir .f32 .rne (sumExact .rne [f32Of o, f32Of v]).1).1
  | .fmin => f32Bits (pickFloat false (f32Of o) (f32Of v)).1
  | .fmax => f32Bits (pickFloat true (f32Of o) (f32Of v)).1

/-- A word after a group of equal operations: fadd adds the exact sum once (R200), the others apply one by one. -/
def groupWord (op : AtomOp) (o : Word) (vs : List Word) : Word :=
  if op = .fadd then f32Bits (roundDir .f32 .rne (sumExact .rne (f32Of o :: vs.map f32Of)).1).1
  else vs.foldl (fun w v => atomWord op w v 0) o

/-- The words an operation touches, by lane, as operands. -/
def SparseOp.lane (o : SparseOp) (vec : Bool) (j : Nat) : Word := if vec then nthD 0 o.data.toVec j else o.data.lane0

/-- An unmerged, unreordered unit (R283): ORD of its M-tile's role word. -/
def State.unitOrd (s : State) (o : SparseOp) : Bool :=
  match o.loc, o.coord with
  | _, some (m, _) => (nthD {} (s.billet o.tile.b).mtiles m).ord
  | .scr k, none => (nthD {} (s.billet (k / 2 ^ 23)).mtiles (k / 2 ^ 20 % 8)).ord
  | _, none => false

/-- Two operations at one location: a granule, or one entry of a SPACC M-tile. -/
def SparseOp.meets (o p : SparseOp) : Bool :=
  match o.coord, p.coord with
  | none, none => sameGranule o.loc p.loc
  | some a, some b => o.tile.b == p.tile.b && a == b
  | _, _ => false

/-- An earlier operation of the same memory node: the two keep their order at a granule (R296). -/
def SparseOp.precedes (p o : SparseOp) : Bool := o.coord.isNone && p.tile == o.tile && p.pos == o.pos

/-- The unit of an operation, SPACC tiles by their M-tile. -/
def SparseOp.unit (o : SparseOp) : Nat :=
  match o.coord with
  | some (m, _) => o.tile.b * 8 + m
  | none => unitOf o.loc

/-- A flush of a SPACC M-tile that began no later than an access's issue: the access is applied after it (R237). -/
def Billet.flushing (x : Billet) (m issue : Nat) : Bool :=
  x.tiles.any fun t => t.nodes.any fun (pos, n) => n.flush.any fun f => decide (f.issue ≤ issue) &&
    (match t.instrAt (pos / 64) (pos % 64) with
     | some (.spflush g _) => g.xmod % 8 == m
     | _ => false)

/-- R187 for an operation at its unit. -/
def State.opRipe (s : State) (o : SparseOp) : Bool :=
  ((s.tile o.tile).flying.find? fun a => a.id = o.acc).any fun a => a.ripe (s.now o.tile.b)

/-- A spacc waits for a flush of its M-tile. -/
def State.behindFlush (s : State) (o : SparseOp) : Bool :=
  match o.coord with
  | none => false
  | some (m, _) => ((s.tile o.tile).flying.find? fun a => a.id = o.acc).any fun a => (s.billet o.tile.b).flushing m a.issue

/-- An operation on a global line goes on at its unit while its billet is frozen (R219). -/
def State.unitGoesOn (s : State) (o : SparseOp) : Bool :=
  s.standsFrozen o.tile.b && o.coord.isNone && (match o.loc with
    | .glb .. => true
    | .scr _ => false)

/-- Whether an operation may be applied, with those that arrived before it and are not of its group (R200, R302). -/
def State.mayApply (s : State) (before : List SparseOp) (o : SparseOp) : Bool :=
  match o.instr.atom with
  | none => false
  | some (_, _, merge) =>
    (s.active o.tile.b && s.opRipe o && !s.behindFlush o || s.unitGoesOn o) && (s.badAmong [o.loc]).isNone &&
    (if s.unitOrd o then before.all fun p => p.unit != o.unit
     else before.all fun p => !p.meets o || (merge && (p.instr.atom.any fun q => q.2.2) && !p.precedes o))

/-- A group is one operation, or merged reductions of one place, operation and size. -/
def State.groupOk (s : State) (os : List SparseOp) : Bool :=
  match os with
  | [] => false
  | [_] => true
  | o :: rest =>
    !s.unitOrd o && (o.instr.atom.any fun q => q.2.2) &&
      rest.all fun p => p.instr.atom == o.instr.atom && p.loc == o.loc && p.coord == o.coord && p.tile.b == p.tile.b

/-- The result of an operation goes to its node, or waits for a frozen billet to run again (R219). -/
def State.sparseDone (s : State) (o : SparseOp) (p : Payload) : State :=
  match takeFirst (fun a => a.id = o.acc) (s.tile o.tile).flying with
  | none => s
  | some (acc, rest) =>
    if (s.billet o.tile.b).isFrozen then
      s.modTile o.tile fun t => { t with flying := { acc with atUnit := false, locs := [], reply := some p } :: rest }
    else (s.modTile o.tile fun t => { t with flying := rest }).finish o.tile acc p

def State.sparseAll (s : State) (p : SparseOp → Payload) : List SparseOp → State
  | [] => s
  | o :: os => (s.sparseDone o (p o)).sparseAll p os

/-- x × a of a spacc, exact, with its flags (R46, R236): the f16 in the low half of the CV32 word, the f32 beside it. -/
def spaccProduct (d : Payload) : Val × Flags :=
  mulExact (FFmt.decode .f16 ((nthD 0 d.toVec 0).toNat % 65536)) (f32Of (nthD 0 d.toVec 1))

/-- The flags of an operation's firing join those it sets as its result leaves S6 (R56, R118). -/
def State.opFlags (s : State) (o : SparseOp) (fl : Flags) : State :=
  s.modTile o.tile fun t =>
    if t.flights.any fun f => f.hold == some o.acc then
      { t with flights := t.flights.map fun f => if f.hold = some o.acc then { f with flags := f.flags ||| fl } else f }
    else { t with fflags := t.fflags ||| fl, flagsNow := t.flagsNow ||| fl }

/-- Applies a group of spacc operations to an entry (R236). Each sets in its tile the flags of its product and of the group's sum: that a
merged sum sets its flags in every tile that gave it an operand is the model's choice (log entry 71). -/
def State.applySpacc (s : State) (b m c : Nat) (os : List SparseOp) : State :=
  let old := Tbl.get c (nthD {} (s.billet b).mtiles m).spacc
  let ps := os.map fun o => (o, spaccProduct o.data)
  let (sum, f1) := sumExact .rne ((old.map f32Of).toList ++ ps.map fun p => p.2.1)
  let (v, f2) := roundDir .f32 .rne sum
  let s := ps.foldl (fun s p => s.opFlags p.1 (p.2.2 ||| f1 ||| f2)) s
  s.modBillet b fun x => { x with mtiles := modNth (fun (t : MTile) => { t with spacc := Tbl.put c (f32Bits v) t.spacc }) m x.mtiles }

/-- Skips the caches of every issuing billet for the operations' line (R292); what a frozen billet's L1 holds stands (R219). -/
def State.skipAll (s : State) : List SparseOp → State
  | [] => s
  | o :: os => (if (s.billet o.tile.b).isFrozen then s else (s.readLoc o.tile.b .device true o.loc 1).2).skipAll os

/-- A place written at its home. -/
def State.putAtHome (s : State) (cid : Nat) (l : Loc) (bs : List Byte) : State :=
  match l with
  | .scr k => ({ s with scr := Memory.writes s.scr k bs } : State).touch l
  | .glb pa _ => s.homeWrites cid pa bs

/-- Applies a group of atomics at the home. -/
def State.applyAtoms (s : State) (o : SparseOp) (op : AtomOp) (vec : Bool) (os : List SparseOp) : State :=
  let n := if vec then 16 else 1
  let s := s.skipAll os
  let old := wordsOfBytes n (s.atHome o.loc (4 * n))
  let new := (List.range n).map fun j =>
    if op = .cas then atomWord .cas (nthD 0 old j) (nthD 0 o.data.toVec 0) (nthD 0 o.data.toVec 1)
    else groupWord op (nthD 0 old j) (os.map fun p => p.lane vec j)
  let s := s.putAtHome (s.cidOf o.tile.b) o.loc (bytesOfWords new)
  s.sparseAll (fun p => match p.instr with
    | .amo .. => if vec then .vec old else .word (nthD 0 old 0)
    | _ => .word 0) os

/-- The operations at positions of the list, in order, each with those before it that are not of the group. -/
def groupOf (ops : List SparseOp) (group : List Nat) : List (SparseOp × List SparseOp) :=
  let ixs := ops.zipIdx
  (ixs.filter fun p => group.contains p.2).map fun p =>
    (p.1, (ixs.filter fun q => q.2 < p.2 ∧ group.contains q.2 = false).map Prod.fst)

def execSparseUpdateApply (group : List Nat) (s : State) : Answer :=
  let g : List (SparseOp × List SparseOp) := groupOf s.sparse group
  let os := g.map Prod.fst
  .next (if s.groupOk os && (g.all fun p => s.mayApply p.2 p.1) then
    let s' := { s with sparse := (s.sparse.zipIdx.filter fun (p : SparseOp × Nat) => group.contains p.2 = false).map Prod.fst }
    match os with
    | [] => s
    | o :: _ =>
      match o.coord, o.instr.atom with
      | some (m, c), _ => (s'.applySpacc o.tile.b m c os).sparseAll (fun _ => .word 0) os
      | none, some (op, vec, _) => s'.applyAtoms o op vec os
      | none, none => s
  else s)

end Sys2Proof.Machine
end

