-- ==== Sys2Proof/Machine/CopyEvents.lean ====
section
/-! DEFINITION. The copy engine and the filling of ring tiles (06 R211 to R213, 07 R225, R226, 09 R301). Choices and readings: log entries
44, 62, 71. -/

namespace Sys2Proof.Machine

/-! ### Descriptor fields (R210) -/

def Copy.total (c : Copy) : Nat := descBytes c.desc
def Copy.scope (c : Copy) : Scope := (Scope.ofCode ((dw c.desc 10).extractLsb' 26 3)).getD .tile
def Copy.node (c : Copy) (b : Nat) : NodeAddr := ⟨b, c.tile, c.blk, c.slot⟩

/-- Offset of byte k of a copy from a base and strides (R211 step 3). -/
def byteOffset (d : List Word) (base row plane : Nat) (k : Nat) : Int :=
  let sx := (dw d 2).toNat
  let sy := bits (dw d 3) 0 16
  ((dw d base).toNat : Int) + (k % sx : Nat) + (k / sx % sy : Nat) * (dw d row).toInt + (k / (sx * sy) : Nat) * (dw d plane).toInt

def Copy.src (c : Copy) (k : Nat) : Int := byteOffset c.desc 0 4 6 k
def Copy.dst (c : Copy) (k : Nat) : Int := byteOffset c.desc 1 5 7 k

/-- Space and window of the source, the destination or the signal. -/
def copySpace (d : List Word) (sp win : Nat) : Space × Nat :=
  (if bits (dw d 10) sp 2 = 1 then .glb else .scr, bits (dw d 10) win 3)

/-- No earlier byte of a copy goes into a byte's destination granule. -/
def Copy.opens (c : Copy) (k : Nat) : Bool := (List.range k).all fun j => c.dst j / 64 != c.dst k / 64

/-- The bytes of the next destination granule: all those of the copy that go into it, whichever rows and planes they belong to (R211 step
5). Granules are taken by their first bytes. -/
def Copy.piece (c : Copy) : List Nat :=
  match c.ring with
  | some _ => ((List.range 64).map fun i => c.done + i).filter fun k => k < c.total
  | none => (List.range c.total).filter fun k => decide (c.done ≤ k) && c.dst k / 64 == c.dst c.done / 64

/-- The byte from which a copy goes on when its next granule has moved. -/
def Copy.after (c : Copy) : Nat :=
  match c.ring with
  | some _ => c.done + c.piece.length
  | none => ((List.range c.total).find? fun k => decide (c.done < k) && c.opens k).getD c.total

/-! ### Placing a byte -/

/-- What the engine meets at a byte. -/
inductive CopyStop
  | held (va : Nat) (write : Bool)
  | trap (cls addr : Nat) (sp : Space)
  | lost
  /-- A source line in error (R419). -/
  | bad (pa : Nat)

/-- Places one byte of a copy (R188, R212). -/
def State.placeByte (s : State) (b cid : Nat) (sp : Space) (win : Nat) (off : Int) (write : Bool) : Except (State × CopyStop) (Loc × State) :=
  let o := off.toNat
  if off < 0 || !(s.billet b).inBounds (s.mtCap b) sp win o 1 then .error (s, .trap clsBounds (off % 2 ^ 64).toNat sp)
  else match s.locate b cid sp win o write with
    | .ok l s => .ok (l, s)
    | .held va => .error (s, .held va write)
    | .perm addr s => .error (s, .trap clsPermission addr sp)
    | .lost s => .error (s, .lost)

def State.placeBytes (s : State) (b cid : Nat) (sp : Space) (win : Nat) (write : Bool) :
    List Int → Except (State × CopyStop) (List Loc × State)
  | [] => .ok ([], s)
  | off :: rest =>
    match s.placeByte b cid sp win off write with
    | .error e => .error e
    | .ok (l, s) =>
      match s.placeBytes b cid sp win write rest with
      | .error e => .error e
      | .ok (ls, s) => .ok (l :: ls, s)

def State.readLocs (s : State) (b : Nat) (sc : Scope) : List Loc → List Byte × State
  | [] => ([], s)
  | l :: ls =>
    let (v, s) := s.readLoc b sc false l 1
    let (vs, s) := s.readLocs b sc ls
    (v ++ vs, s)

def State.writeLocs (s : State) (b : Nat) (sc : Scope) : List (Loc × Byte) → State
  | [] => s
  | (l, v) :: rest => (s.writeLoc b sc false l [v]).writeLocs b sc rest

/-! ### The engine -/

def State.modCopyCtx (s : State) (b c : Nat) (f : CopyCtx → CopyCtx) : State :=
  s.modBillet b fun x => { x with ctxs := modNth f c x.ctxs }

/-- Changes the copy a context runs. -/
def State.modCopy (s : State) (b c : Nat) (f : Copy → Copy) : State :=
  s.modCopyCtx b c fun x => { x with queue := modNth f 0 x.queue }

/-- A copy stops at a granule: held for the driver, or trapped, or met by an uncorrectable error, against its slot and gone from its context
(R212, R419). The copies behind it go on, so TLC may pass its number (log entry 62). -/
def State.copyStops (s : State) (b c : Nat) (k : Copy) (p : Resident) (e : CopyStop) : State :=
  match e with
  | .held va write => (s.modCopy b c fun k => { k with held := some va, wake := false }).noteXlate p (k.node b) k.tag 0 write va
  | .trap cls addr sp =>
    (s.modCopyCtx b c fun x => { x with queue := x.queue.drop 1 }).trap (k.node b) cls k.tag (addrDetail 0 sp) addr
  | .lost => s.remoteLost b
  | .bad pa =>
    let s := s.modCopyCtx b c fun x => { x with queue := x.queue.drop 1 }
    (s.badLine pa).ueBillet b (s.lineCode (sideOf b) pa) pa k.tile (posOf k.blk k.slot) (some k.tag)

/-- The tail tile of a ring that a filler may write (R225). -/
def Ring.mayFill (r : Ring) (filler : Nat × Nat) : Bool :=
  !r.full.contains r.tail && (r.claim.isNone || r.claim == some filler)

/-- The copy's filler name for a ring's CLAIM. -/
def copyFiller (c : Nat) : Nat × Nat := (8 + c, 0)

/-- A context has a granule to move. -/
def Billet.copyReady (x : Billet) (c : Nat) : Bool :=
  match (nthD {} x.ctxs c).queue with
  | [] => false
  | k :: _ => (k.held.isNone || k.wake) && decide (k.done < k.total) && decide ((nthD {} x.ctxs c).moved = 0) &&
    (match k.ring with
     | none => true
     | some r => (Tbl.get r x.rings).any fun g => g.mayFill (copyFiller c) && !(k.done % 1024 == 0 && g.claim == some (copyFiller c)))

/-- The first context with a granule, round-robin after the last that moved; two granules move in one fc (R211 step 4). -/
def Billet.nextCopy (x : Billet) : Option Nat :=
  if (x.ctxs.map CopyCtx.moved).sum ≥ 2 then none
  else ((List.range 4).map fun i => (x.rrCopy + 1 + i) % 4).find? x.copyReady

/-- The source bytes of a piece: the fill pattern by destination offset, or read at the copy's scope. -/
def State.copySource (s : State) (b cid : Nat) (k : Copy) (ks : List Nat) : Except (State × CopyStop) (List Byte × State) :=
  if descFill k.desc then
    let w := dw k.desc 0
    .ok (ks.map fun (i : Nat) => w.extractLsb' (8 * ((if k.ring.isSome then Int.ofNat i else k.dst i) % 4).toNat) 8, s)
  else
    let (sp, win) := copySpace k.desc 0 2
    match s.placeBytes b cid sp win false (ks.map k.src) with
    | .error e => .error e
    | .ok (ls, s) => match s.badAmong ls with
      | some pa => .error (s, .bad pa)
      | none => .ok (s.readLocs b k.scope ls)

/-- The destination bytes of a piece. -/
def State.copyDest (s : State) (b cid : Nat) (k : Copy) (ks : List Nat) : Except (State × CopyStop) (List Loc × State) :=
  match k.ring.bind fun r => Tbl.get r (s.billet b).rings with
  | some g => .ok (ks.map fun i => .scr (scrKey b g.mtile (g.base * 1024 + g.tail * 1024 + i % 1024)), s)
  | none =>
    let (sp, win) := copySpace k.desc 8 10
    s.placeBytes b cid sp win true (ks.map k.dst)

/-- Moves the next granule of a context's copy as one write. Where both of its ends fail, the destination's failure is the one reported: the
spec does not say which, DESIGN CHOICE, log entry 71. -/
def State.moveGranule (s : State) (b c : Nat) (k : Copy) (p : Resident) : State :=
  let ks := k.piece
  match s.copyDest b p.cid k ks with
  | .error (s, e) => s.copyStops b c k p e
  | .ok (dst, s) =>
    match s.copySource b p.cid k ks with
    | .error (s, e) => s.copyStops b c k p e
    | .ok (vs, s) =>
      let s := s.writeLocs b k.scope (dst.zip vs)
      let s := s.modCopy b c fun k => { k with done := k.after, held := none, wake := false }
      let s := s.modCopyCtx b c fun x => { x with moved := 1 }
      s.modBillet b fun x =>
        { x with rrCopy := c, rings := x.rings.map fun (n, g) => (n, if k.ring = some n then { g with claim := some (copyFiller c) } else g) }

def execCopyGranuleMove (b ctx : Nat) (s : State) : Answer :=
  .next (if s.active b && (s.billet b).nextCopy == some ctx then
    match (nthD {} (s.billet b).ctxs ctx).queue, (s.billet b).page with
    | k :: _, some p =>
      if k.aborted then s.copyStops b ctx k p (.trap clsPermission (k.held.getD 0) .glb) else s.moveGranule b ctx k p
    | _, _ => s
  else s)

/-- A copy's rows are all in tiles that have been marked FULL. -/
def Billet.copyDrained (x : Billet) (c : Nat) (k : Copy) : Bool :=
  match k.ring with
  | none => true
  | some r => (Tbl.get r x.rings).all fun g => g.claim != some (copyFiller c)

/-- TLC becomes the copy's number and the context goes on to its next copy (R211 step 7). -/
def State.copyDone (s : State) (b c : Nat) (k : Copy) : State :=
  s.modCopyCtx b c fun x => { x with tlc := k.num, queue := x.queue.drop 1 }

/-- Writes the signal as a release at the copy's scope (R211 step 6): caches are written back, but it does not wait for the billet's memory
nodes, which the copy engine does not know (log entry 62). -/
def State.copySignal (s : State) (b c : Nat) (k : Copy) (p : Resident) : State :=
  let (sp, win) := copySpace k.desc 16 18
  let off := (dw k.desc 8).toNat
  match (s.billet b).addrTrap (s.mtCap b) sp win off 4 with
  | some cls => s.copyStops b c k p (.trap cls off sp)
  | none =>
    match s.locate b p.cid sp win off true with
    | .held va => s.copyStops b c k p (.held va true)
    | .perm addr s => s.copyStops b c k p (.trap clsPermission addr sp)
    | .lost s => s.remoteLost b
    | .ok l s => ((s.releaseCaches b k.scope).writeLoc b k.scope false l (bytesOfWord (dw k.desc 9))).copyDone b c k

def execCopyComplete (b ctx : Nat) (s : State) : Answer :=
  .next (if s.active b then
    match (nthD {} (s.billet b).ctxs ctx).queue, (s.billet b).page with
    | k :: _, some p =>
      if (k.held.isSome && !k.wake) || decide (k.done < k.total) || !(s.billet b).copyDrained ctx k then s
      else if k.aborted then s.copyStops b ctx k p (.trap clsPermission (k.held.getD 0) .glb)
      else if bits (dw k.desc 10) 16 2 = 3 then s.copyDone b ctx k
      else s.copySignal b ctx k p
    | _, _ => s
  else s)

/-! ### Ring tiles (R225) -/

/-- The tail tile becomes FULL, CLAIM clears and TAIL advances. -/
def Ring.filled (g : Ring) : Ring :=
  { g with full := g.full ++ [g.tail], claim := none, tail := (g.tail + 1) % g.slots }

/-- The filler that holds CLAIM has written its last row. -/
def Billet.fillDone (x : Billet) (r : Nat) (g : Ring) : Bool :=
  match g.claim with
  | none => false
  | some (t, pos) =>
    if t ≥ 8 then
      (nthD {} x.ctxs (t - 8)).queue.head?.any fun k => k.ring = some r && k.done % 1024 == 0
    else decide (((x.tile t).node pos).rpushRow = 16) && (x.tile t).flying.all fun a => posOf a.blk a.slot != pos

def execRingTileFilled (b ring : Nat) (s : State) : Answer :=
  .next (if s.active b then
    match Tbl.get ring (s.billet b).rings with
    | none => s
    | some g =>
      if (s.billet b).fillDone ring g then
        let s := s.modBillet b fun x => { x with rings := Tbl.put ring g.filled x.rings }
        match g.claim with
        | some (t, pos) => if t ≥ 8 then s else s.modTile ⟨b, t⟩ fun x => x.modNode pos fun n => { n with rpushRow := 0 }
        | none => s
      else s
  else s)

end Sys2Proof.Machine
end

