-- ==== Sys2Proof/Machine/Geometry.lean ====
section
/-! DEFINITION. Places and one-way times (00 R3, 08 R265, R266). Choices and readings: log entries 34, 45, 51, 74. -/

namespace Sys2Proof.Machine

/-- Column and row of a billet in its layer (R3). -/
def bxOf (b : Nat) : Nat := b % 4
def byOf (b : Nat) : Nat := b / 4 % 4

/-- Whether a site holds a C-tile; the others hold M-tiles (R3). -/
def siteIsC (x y : Nat) : Bool := (x + y) % 2 == 0

/-- The number of a site's tile among the C-tiles, or the M-tiles, of its billet: row-major, two of each kind in a row (R3). -/
def siteTile (x y : Nat) : Nat := y % 4 * 2 + x % 4 / 2

/-- The site of a C-tile, or an M-tile, of a billet (R3). -/
def tileSite (b : Nat) (isC : Bool) (n : Nat) : Nat × Nat :=
  let y := byOf b * 4 + n / 2
  (bxOf b * 4 + n % 2 * 2 + (if y % 2 == 0 && isC || y % 2 == 1 && !isC then 0 else 1), y)

def natDist (a b : Nat) : Nat := (a - b) + (b - a)

/-- Distance in a layer. -/
def meshDist (x1 y1 x2 y2 : Nat) : Nat := natDist x1 x2 + natDist y1 y2

/-- One-way time from routers, vertical crossings and UCIe crossings (R265). -/
def oneWayOf (h v u : Nat) : Nat := 2 * h + v + 24 * u

/-- Routers on a cross-side path through the link of a row: link A joins row 1, link B row 2 (R265). -/
def crossHops (s d row : Nat) : Nat :=
  let ax (side : Nat) : Nat := if side = 0 then 3 else 0
  meshDist (bxOf s) (byOf s) (ax (sideOf s)) row + 1 + layerOf s + 1 + layerOf d +
    meshDist (ax (sideOf d)) row (bxOf d) (byOf d)

/-- One-way time between two billets (R265); a path within one billet has H = 1. -/
def oneWay (s d : Nat) : Nat :=
  if sideOf s = sideOf d then
    let v := natDist (layerOf s) (layerOf d)
    oneWayOf (meshDist (bxOf s) (byOf s) (bxOf d) (byOf d) + v + 1) v 0
  else
    oneWayOf (max (crossHops s d 1) (crossHops s d 2)) (layerOf s + layerOf d) 1

/-- Routers a route passes on its way to the spare row, at an end in a C-tile whose site is remapped (R432); an end in a router or a table of
the billet passes none. -/
def State.spareHops (s : State) (b : Nat) : Option Nat → Nat
  | none => 0
  | some t =>
    if (s.side (sideOf b)).sitemap.any fun m => m.1 / 16 == layerOf b && m.1 % 2 == 0 && m.2 == tileSite b true t then 4 - byOf b else 0

/-- One-way time between two billets with what sparing of the C-tiles at its ends adds (R265, R432). -/
def State.oneWay (s : State) (a b : Nat) (ta tb : Option Nat := none) : Nat :=
  Machine.oneWay a b + 2 * (s.spareHops a ta + s.spareHops b tb)

/-- The largest one-way time between a billet and any L2 slice of a side (R266). -/
def State.sliceTime (s : State) (b side : Nat) (t : Option Nat := none) : Nat :=
  (s.slicePlaces side).foldl (fun m p => max m (s.oneWay b p t)) 0

/-- The numbers from one to another, without the first. -/
def walkTo (a c : Nat) : List Nat :=
  if a ≤ c then (List.range (c - a)).map fun i => a + 1 + i else (List.range (a - c)).map fun i => a - 1 - i

def billetAt (side layer bx by_ : Nat) : Nat := 64 * side + 16 * layer + 4 * by_ + bx

/-- The billets of a layer that a path enters, x first, then y (R265). -/
def meshPath (side layer x y x2 y2 : Nat) : List Nat :=
  ((walkTo x x2).map fun c => billetAt side layer c y) ++ (walkTo y y2).map fun r => billetAt side layer x2 r

/-- The billets a path enters, in order; across the sides, by the link that joins a row (R265). -/
def pathTo (row s d : Nat) : List Nat :=
  if sideOf s = sideOf d then
    meshPath (sideOf s) (layerOf s) (bxOf s) (byOf s) (bxOf d) (byOf d) ++
      (walkTo (layerOf s) (layerOf d)).map fun l => billetAt (sideOf s) l (bxOf d) (byOf d)
  else
    let ax (side : Nat) : Nat := if side = 0 then 3 else 0
    let sx := ax (sideOf s)
    let dx := ax (sideOf d)
    meshPath (sideOf s) (layerOf s) (bxOf s) (byOf s) sx row ++ ((walkTo (layerOf s) 0).map fun l => billetAt (sideOf s) l sx row) ++
      [billetAt (sideOf d) 0 dx row] ++ ((walkTo 0 (layerOf d)).map fun l => billetAt (sideOf d) l dx row) ++
      meshPath (sideOf d) (layerOf d) dx row (bxOf d) (byOf d)

/-- A UCIe link carries routes. -/
def Link.carries (k : Link) : Bool := !k.lost && k.running.isNone

/-- The link of a route to the other side (R265): A where the destination has by 0 or 1, else B; the other one while that is lost or
retraining. -/
def State.crossLink (s : State) (d : Nat) : LinkKind :=
  let a := (s.link ⟨.ucieA, 0, 0, 0⟩).carries
  let b := (s.link ⟨.ucieB, 0, 0, 0⟩).carries
  if byOf d ≤ 1 then (if a || !b then .ucieA else .ucieB) else (if b || !a then .ucieB else .ucieA)

/-- The billets that a flit on its way between two billets enters now. -/
def State.path (s : State) (a b : Nat) : List Nat := pathTo (if s.crossLink b = .ucieA then 1 else 2) a b

/-- The two UCIe links have one name each. -/
def linkKey (l : LinkId) : LinkId :=
  match l.kind with
  | .ucieA => ⟨.ucieA, 0, 0, 0⟩
  | .ucieB => ⟨.ucieB, 0, 0, 0⟩
  | _ => l

/-- The billets at the lower and the higher coordinate of a mesh link: port 16 x billet of the layer + router port, +x, +y, -x, -y
(log entry 45). -/
def meshEnds (l : LinkId) : Nat × Nat :=
  let b := l.side * 64 + l.layer * 16 + l.port / 16 % 16
  match l.port % 16 with
  | 0 => (b, b + 1)
  | 1 => (b, b + 4)
  | 2 => (b - 1, b)
  | _ => (b - 4, b)

/-- A step from one billet's router to the next goes over a link, where a step to the other side takes a kind of link. -/
def onLink (l : LinkId) (cross : LinkKind) (a b : Nat) : Bool :=
  match l.kind with
  | .mesh => (a, b) == meshEnds l || (b, a) == meshEnds l
  | .vertical => sideOf a == l.side && sideOf b == l.side && min (layerOf a) (layerOf b) == l.layer && max (layerOf a) (layerOf b) == l.layer + 1
  | k => sideOf a != sideOf b && cross == k

/-- A flit from one billet to another goes over a link (R265). -/
def State.flitCrosses (s : State) (l : LinkId) (a b : Nat) : Bool :=
  let hops := a :: s.path a b
  (hops.zip (hops.drop 1)).any fun h => onLink l (s.crossLink b) h.1 h.2

/-- PACE (R266): the smallest p of 1, 2, 4, 8 and 16 with ceil(RTT / p) at most 12. -/
def paceOf (rtt : Nat) : Nat := if rtt ≤ 12 then 1 else if rtt ≤ 24 then 2 else if rtt ≤ 48 then 4 else if rtt ≤ 96 then 8 else 16

/-! ### Edges of a launch -/

def Launch.edge? (l : Launch) (id : Nat) : Option Edge := l.edges.find? fun e => e.id = id

def State.modEdge (s : State) (r : RecId) (id : Nat) (f : Edge → Edge) : State :=
  s.modLaunch r fun l => { l with edges := l.edges.map fun e => if e.id = id then f e else e }

/-- The edge a route of a billet's page names. -/
def State.edgeOf (s : State) (b id : Nat) : Option (Launch × Edge) :=
  (s.billet b).page.bind fun p => (s.launch? p.launch).bind fun l => (l.edge? id).map fun e => (l, e)

/-- The home side of a page (R214, R344). -/
def Launch.homeSide (l : Launch) (page : Nat) : Nat := ((l.pages.zip l.graph.pages)[page]?.map fun p => p.2.side).getD 0

/-- The side that holds an edge's waystation or edge caravan (R351, R354). -/
def Launch.storeSide (l : Launch) (e : Edge) : Nat := if e.st = .caravan then e.home else l.homeSide e.cons

/-- The C-tile in which a token of an edge ends; one for a handler entry ends in the billet's table. -/
def Edge.endTile (e : Edge) (entry : Option Nat) : Option Nat := if entry.isSome then none else some e.ctile

/-- One-way time of a route of a billet now, from a C-tile of it (R265, R266). -/
def State.routeTime (s : State) (b : Nat) (r : Route) (t : Option Nat := none) : Nat :=
  match r.detour with
  | some (d, tile, _) => s.oneWay b d t (some tile)
  | none =>
  match r.kind with
  | .edge =>
    (match s.edgeOf b r.edge with
     | none => 0
     | some (l, e) => if e.st = .direct then s.oneWay b e.dest t (some e.ctile) else s.sliceTime b (l.storeSide e) t)
  | .handler =>
    if r.remote then
      (match s.edgeOf b r.edge with
       | none => 0
       | some (l, e) => if e.st = .direct then s.oneWay b e.dest t else s.sliceTime b (l.storeSide e) t)
    else s.oneWay b b t
  | .loc => s.oneWay b b t (some r.tile)
  | _ => 0

/-- The routes of a steering set. -/
def Billet.setRoutes (x : Billet) (set : Nat) : List Route := (nthD [] x.steer set).map fun k => nthD {} x.routes k

/-- One-way time of an output channel: the largest of its destinations (R266). -/
def State.chanTime (s : State) (b : Nat) (r : Route) (t : Option Nat := none) : Nat :=
  match r.kind with
  | .steer => ((s.billet b).setRoutes r.set).foldl (fun m q => max m (s.routeTime b q t)) 0
  | _ => s.routeTime b r t

/-- The C-tiles whose output channels name a route, themselves or in a steering set. -/
def Billet.routeTiles (x : Billet) (k : Nat) : List Nat :=
  (List.range x.tiles.length).filter fun t => (x.tile t).outCh.any fun q => q.2.route == k ||
    (let r : Route := nthD {} x.routes q.2.route; r.kind == .steer && (nthD [] x.steer r.set).contains k)

/-- The largest one-way time of a route over the C-tiles that use it. -/
def State.longest (s : State) (b k : Nat) (r : Route) : Nat :=
  ((s.billet b).routeTiles k).foldl (fun m t => max m (s.chanTime b r (some t))) (s.chanTime b r)

/-- An edge channel (R266): its route, or a destination of its steering set, is an EDGE route. -/
def Billet.edgeChan (x : Billet) (r : Route) : Bool :=
  match r.kind with
  | .edge => true
  | .steer => (x.setRoutes r.set).any fun q => q.kind == .edge
  | _ => false

end Sys2Proof.Machine
end

