-- ==== Sys2Proof/Machine/Fabric.lean ====
section
/-! DEFINITION. The fabric (08 R262 to R268, R279, R286): injection, off signals, arrival at a billet with the generation check (13 R352),
the boundary guard (R357, R358), the stores of edges (R350, R351, R354) and redelivery. Choices and readings: log entries 15, 30, 34, 51,
58, 61, 64, 70, 73. -/

namespace Sys2Proof.Machine

/-! ### Stores of edges (R351, R354) -/

/-- Waystation slots of a side's L2 pool: its share of the ways of each slice that is left, 8 MiB of 128 bytes in all (R281, R351). -/
def State.poolSlots (s : State) (side : Nat) : Nat := Config.l2Sets * Config.poolWays * (s.slicePlaces side).length
/-- Slots of an edge caravan (R354). -/
def edgeCaravanSlots : Nat := 256

def Edge.held (e : Edge) : Nat := e.toks.length + e.early.length

/-- Pool slots of a side that waystations hold. -/
def State.poolUsed (s : State) (side : Nat) : Nat :=
  (s.launches.map fun (l : Launch) => ((l.edges.filter fun e => e.st != .caravan && l.homeSide e.cons == side).map
    fun (e : Edge) => e.held - e.spilled).sum).sum

/-- Page-store bytes a context may still take (R341). -/
def State.storeLeft (s : State) (cid : Nat) : Nat := (s.ctx cid).qstore.toNat * 65536 - (s.ctx cid).storeUsed

/-- The store of an edge has room for a token. -/
def State.storeRoom (s : State) (l : Launch) (e : Edge) : Bool :=
  if e.st = .caravan then decide (e.held < edgeCaravanSlots)
  else decide (s.poolUsed (l.homeSide e.cons) < s.poolSlots (l.homeSide e.cons)) || decide (128 ≤ s.storeLeft l.cid)

/-- SEQ of the first token that stands in order. -/
def Edge.first (e : Edge) : BitVec 16 := e.nextIn - BitVec.ofNat 16 e.toks.length

/-- The store of an edge takes a token of a SEQ: a token that waits there for earlier ones leaves a caravan slot for the next in order, and
one that had left the store toward an evicted page comes back into it in any case (log entry 30). -/
def State.storeTakes (s : State) (l : Launch) (e : Edge) (seq : BitVec 16) : Bool :=
  (seq - e.first).msb || s.storeRoom l e && (seq == e.nextIn || e.st != .caravan || decide (e.held + 1 < edgeCaravanSlots))

/-- A token takes its SEQ position at either end of those that stand in order, or waits for its neighbours (R350). -/
def Edge.place (e : Edge) (seq : BitVec 16) (k : EdgeTok) : Option Edge :=
  if seq = e.nextIn then some { e with nextIn := e.nextIn + 1, toks := e.toks ++ [k] }
  else if seq = e.first - 1 ∧ seq - e.out < e.first - e.out then some { e with toks := k :: e.toks }
  else none

/-- Moves the tokens that waited for their neighbours into their places. -/
def Edge.settle : Nat → Edge → Edge
  | 0, e => e
  | n + 1, e =>
    match takeFirst (fun (p : BitVec 16 × EdgeTok) => (e.place p.1 p.2).isSome) e.early with
    | none => e
    | some (p, rest) => Edge.settle n { (e.place p.1 p.2).getD e with early := rest }

/-- A token takes its SEQ position in the edge's store (R350). -/
def Edge.put (e : Edge) (seq : BitVec 16) (k : EdgeTok) : Edge :=
  match e.place seq k with
  | some e => Edge.settle e.early.length e
  | none => { e with early := e.early ++ [(seq, k)] }

/-- Places a token in the store; a waystation slot beyond the pool is taken from the page store. -/
def State.storePut (s : State) (l : Launch) (e : Edge) (seq : BitVec 16) (k : EdgeTok) : State :=
  let spill := e.st != .caravan && decide (s.poolUsed (l.homeSide e.cons) ≥ s.poolSlots (l.homeSide e.cons))
  let s := s.modEdge l.id e.id fun x => x.put seq { k with spill := spill }
  if spill then s.modCtx l.cid fun c => { c with storeUsed := c.storeUsed + 128 } else s

/-- DATA tokens in the store, as WCOUNT counts them (R343, R349). -/
def Edge.dataCount (e : Edge) : Nat := ((e.toks ++ e.early.map Prod.snd).filter fun k => k.tok.tag.kind == .data).length

/-- The store holds an END (R349). -/
def Edge.parkEnd (e : Edge) : Bool := (e.toks ++ e.early.map Prod.snd).any fun k => k.tok.tag.kind == .fin

def EdgeState.code : EdgeState → Nat
  | .direct => 0 | .waystation => 1 | .caravan => 2

/-- The 64-bit entry of the edge table (R349); the waystation's handle is a free value. -/
def Edge.word (e : Edge) (r : RecId) : BitVec 64 :=
  BitVec.ofNat 64 (e.st.code + 2 ^ 2 * (e.dest % 128) + 2 ^ 9 * e.gen.toNat + 2 ^ 17 * e.seq.toNat + 2 ^ 33 * min e.dataCount 4095 +
    (if e.parkEnd then 2 ^ 45 else 0) + 2 ^ 46 * (Config.wayHandle r.queue r.slot e.id).toNat)

/-! ### Injection (R267, R268, R279, R286) -/

def State.sendFlit (s : State) (f : Flit) : State := { s with flits := s.flits ++ [f] }

/-- The fc of the flit's sender, in which its due is counted. -/
def State.flitNow (s : State) (f : Flit) : Nat := s.now f.src.b

/-- The destination an injection takes (R268, R279): the index of its view and its route; none where the view is asserted. -/
def Billet.pick (x : Billet) (c : OutChan) (row : Option Nat) : Option (Nat × Route) :=
  let r := nthD {} x.routes c.route
  let free (d : Nat) (q : Route) : Option (Nat × Route) := if c.view d then none else some (d, q)
  if r.detour.isSome then free 0 r
  else match r.kind with
  | .handler => if c.ctrlOut then none else some (0, r)
  | .steer => row.bind fun d => (nthD [] x.steer r.set)[d]?.bind fun k => free d (nthD {} x.routes k)
  | .loc =>
    if c.split then
      let float := (x.floatFor r).bind fun k => x.floats[k]?.bind fun f => free (k + 1) { r with tile := f.tile }
      if c.altFloat then float.orElse fun _ => free 0 r else (free 0 r).orElse fun _ => float
    else free 0 r
  | .none => none
  | .edge => free 0 r

/-- Sends a token over an edge (R349, R350): with the next SEQ and the GEN of the edge's entry. -/
def State.sendEdge (s : State) (a : TileAddr) (ch : Nat) (r : Route) (l : Launch) (e : Edge) (tok : Token) : State :=
  let dest : FlitDest := match r.detour with
    | some (d, t, c) => .chan d t c
    | none => if e.st = .direct then .chan e.dest e.ctile e.cch else .store
  (s.modEdge l.id e.id fun x => { x with seq := x.seq + 1 }).sendFlit
    { src := a, ch := ch, dest := dest, edge := some e.id, gen := e.gen, seq := e.seq, cid := l.cid, launch := l.id, tok := tok,
      entry := if r.kind = .handler ∧ r.detour.isNone = true then some r.entry else none, due := s.now a.b + s.routeTime a.b r (some a.t) }

/-- Sends a token along a route of its billet. -/
def State.sendRoute (s : State) (a : TileAddr) (ch : Nat) (p : Resident) (r : Route) (tok : Token) : State :=
  let within (dest : FlitDest) (b : Nat) : State := s.sendFlit
    { src := a, ch := ch, dest := dest, gen := (s.billet b).gen, cid := p.cid, launch := p.launch, tok := tok,
      due := s.now a.b + s.routeTime a.b r (some a.t) }
  let edge : State := match s.edgeOf a.b r.edge with
    | some (l, e) => s.sendEdge a ch r l e tok
    | none => s
  let crosses := r.kind == .edge || (r.kind == .handler && r.remote)
  match r.detour, r.kind with
  | some (d, t, c), _ => if crosses then edge else within (.chan d t c) d
  | none, .loc => within (.chan a.b r.tile r.ch) a.b
  | none, .handler => if crosses then edge else within (.handler a.b r.entry) a.b
  | none, _ => if crosses then edge else s

/-- The channel after an injection: its next fc by PACE, the alternation of a split, a CTRL token on its way. -/
def OutChan.sent (c : OutChan) (now d : Nat) (alt : Bool) (handler : Bool) : OutChan :=
  { c with nextFc := now + c.pace, altFloat := alt && d == 0, ctrlOut := handler }

/-- Injects a token into the route its channel picks, if its view and PACE allow it; none where they do not. -/
def State.injectTok (s : State) (a : TileAddr) (ch : Nat) (c : OutChan) (p : Resident) (k : PoolTok) : Option State :=
  let x := s.billet a.b
  (x.pick c k.row).map fun (d, r) =>
    let s := s.modTile a fun t => { t with
      injected := t.injected + 1
      rrInject := ch
      outCh := Tbl.put ch (c.sent (s.now a.b) d (x.floatFor (nthD {} x.routes c.route)).isSome (r.kind == .handler && r.detour.isNone)) t.outCh }
    s.sendRoute a ch p r k.tok

/-- The earliest token of a channel in the pool, removed. -/
def Tile.poolHead (t : Tile) (ch : Nat) : Option (PoolTok × List PoolTok) := takeFirst (fun p => p.ch == ch) t.pool

/-- The pool's head of a channel enters the FIFO M-tile that serves it, while it has an entry (R286). -/
def State.fifoFill (s : State) (a : TileAddr) (ch m : Nat) : State :=
  let x := s.billet a.b
  if (nthD {} x.mtiles m).fifo.length ≥ s.mtCap a.b / 128 then s
  else match (x.tile a.t).poolHead ch with
    | none => s
    | some (k, rest) =>
      (s.modTile a fun t => { t with pool := rest }).modBillet a.b fun x =>
        { x with mtiles := modNth (fun (y : MTile) => { y with fifo := y.fifo ++ [k.tok] }) m x.mtiles }

/-- A FIFO M-tile sends its head along the channel's route, and takes the pool's head (R286). -/
def State.injectFifo (s : State) (a : TileAddr) (ch m : Nat) (c : OutChan) (p : Resident) (may : Bool) : State :=
  let s := match (nthD {} (s.billet a.b).mtiles m).fifo with
    | [] => s
    | tok :: rest =>
      (match (if may then s.injectTok a ch c p { ch := ch, tok := tok } else none) with
       | none => s
       | some s => s.modBillet a.b fun x => { x with mtiles := modNth (fun (y : MTile) => { y with fifo := rest }) m x.mtiles })
  s.fifoFill a ch m

def State.injectPool (s : State) (a : TileAddr) (ch : Nat) (c : OutChan) (p : Resident) : State :=
  match (s.tile a).poolHead ch with
  | none => s
  | some (k, rest) =>
    match s.injectTok a ch c p k with
    | none => s
    | some s => s.modTile a fun t => { t with pool := rest }

def execOutputInject (a : TileAddr) (ch : Nat) (s : State) : Answer :=
  .next (if s.active a.b then
    match Tbl.get ch (s.tile a).outCh, (s.billet a.b).page with
    | some c, some p =>
      let may := decide ((s.tile a).injected < 2) && decide (c.nextFc ≤ s.now a.b)
      (match (s.billet a.b).fifoOf a.t ch with
       | some m => s.injectFifo a ch m c p may
       | none => if may then s.injectPool a ch c p else s)
    | _, _ => s
  else s)

/-! ### Off signals (R267) -/

/-- The side whose fc a signal's due counts. -/
def State.signalSide (s : State) (k : SignalTo) : Nat :=
  match k with
  | .out a _ _ => sideOf a.b
  | .drain r e => ((s.launch? r).bind fun l => (l.edge? e).map fun e => l.homeSide e.cons).getD 0
  | .arg r _ _ _ => ((s.launch? r).map Launch.side).getD 0

/-- A sender's view becomes what a signal says. -/
def State.setView (s : State) (k : SignalTo) (v : Bool) : State :=
  match k with
  | .out a ch d => s.modTile a fun t =>
      (match Tbl.get ch t.outCh with
       | none => t
       | some c => { t with outCh := Tbl.put ch { c with views := Tbl.put d v c.views } t.outCh })
  | .drain r e => s.modEdge r e fun x => { x with view := v }
  | .arg r page tile ch => s.modLaunch r fun l =>
      { l with argView := (page, tile, ch, v) :: l.argView.filter fun q => !(q.1 == page && q.2.1 == tile && q.2.2.1 == ch) }

def execOffSignalViewUpdate (k : Nat) (s : State) : Answer :=
  .next (match takeNth k s.signals with
    | none => s
    | some (g, rest) =>
      if g.due ≤ (s.side (s.signalSide g.hearer)).fc then { s with signals := rest }.setView g.hearer g.val else s)

/-- Senders of an input channel within its own billet, by their view of it. -/
def Billet.localSenders (x : Billet) (b tile ch : Nat) : List SignalTo :=
  x.tiles.zipIdx.flatMap fun (t, ti) => t.outCh.flatMap fun (n, c) =>
    let r := nthD {} x.routes c.route
    let hits (q : Route) : Bool := q.kind == .loc && q.detour.isNone && q.tile == tile && q.ch == ch
    let homes := if r.detour.isSome then [] else match r.kind with
      | .loc => if hits r then [0] else []
      | .steer => ((nthD [] x.steer r.set).zipIdx.filter fun p => hits (nthD {} x.routes p.1)).map Prod.snd
      | _ => []
    let floats := if c.split && r.detour.isNone then
        ((List.range x.floats.length).filter fun k => match x.floats[k]? with
          | some f => f.tile == tile && r.ch == ch
          | none => false).map (· + 1)
      else []
    (homes ++ floats).map fun d => SignalTo.out ⟨b, ti⟩ n d

/-! ### Arrival (R272, R350, R352) -/

/-- The billet a flit is bound for. -/
def FlitDest.billet : FlitDest → Option Nat
  | .chan b _ _ => some b
  | .handler b _ => some b
  | .store => none

/-- A flit is held while its sender's or its destination's billet is frozen (R392). -/
def State.flitHeld (s : State) (f : Flit) : Bool :=
  (s.billet f.src.b).isFrozen || (f.dest.billet.any fun b => (s.billet b).isFrozen)

/-- A flit leaves the fabric; the links it went over have carried a good one (R418). -/
def State.dropFlit (s : State) (k : Nat) : State :=
  let crossed (l : LinkId) : Bool := (s.flits[k]?).any fun f => f.dest.billet.any fun b => s.flitCrosses l f.src.b b
  { s with flits := s.flits.eraseIdx k, links := s.links.map fun p => (p.1, if crossed p.1 then { p.2 with crcFails := 0 } else p.2) }

/-- A billet between the record of its page and the end of its generation flush. -/
def Billet.genFlush (x : Billet) : Bool := x.evict.any fun e => e.phase == .flush

/-- A flit whose GEN is not that of its destination (R352). -/
def State.flitLate (s : State) (f : Flit) : Bool :=
  f.dest.billet.any fun b => f.gen != (s.billet b).gen || (s.billet b).genFlush

/-- The sender of the one HANDLER route that names an entry across an edge (R337 check 0x6): its channel waits for the token. -/
def State.ctrlSender (s : State) (l : Launch) (edge entry : Nat) : Option (TileAddr × Nat) :=
  (l.edge? edge).bind fun e => (l.placeOf e.prod).bind fun b =>
    let x := s.billet b
    (x.tiles.zipIdx.flatMap fun (t, ti) => t.outCh.filterMap fun (n, c) =>
      let r := nthD {} x.routes c.route
      if r.kind = .handler ∧ r.remote ∧ r.edge = edge ∧ r.entry = entry then some ((⟨b, ti⟩ : TileAddr), n) else none).head?

/-- A CTRL flit joins the arrivals of its billet. -/
def State.arriveCtrl (s : State) (b e : Nat) (tok : Token) (src : Option (TileAddr × Nat)) : State :=
  s.modBillet b fun x => { x with arrivals := x.arrivals ++ [{ entry := e, tok := { tok with tag := { tok.tag with kind := .ctrl } }, src := src }] }

/-- A token enters an input channel: a use of its page (R344). -/
def State.enqueue (s : State) (b tile ch : Nat) (tok : Token) : State :=
  (s.modBillet b fun x => { x with lastUse := s.now b }).modTile ⟨b, tile⟩ fun t => match Tbl.get ch t.inCh with
    | none => t
    | some c => { t with inCh := Tbl.put ch { c with queue := c.queue ++ [tok] } t.inCh }

/-- The SEQ a consumer channel expects; none where the channel is not the consumer of the flit's edge. -/
def State.seqWanted (s : State) (f : Flit) (b tile ch : Nat) : Option (BitVec 16) :=
  (f.edge.bind fun id => (s.launch? f.launch).bind fun l => l.edge? id).bind fun e =>
    if e.ctile = tile ∧ e.cch = ch ∧ e.dest = b then
      (Tbl.get ch (s.tile ⟨b, tile⟩).inCh).map fun c => BitVec.ofNat 16 c.seqNext
    else none

/-- A flit of a channel enters its queue, or its handler entry, and the edge's SEQ goes on. -/
def State.takeFlit (s : State) (f : Flit) (b tile ch : Nat) (counts : Bool) : State :=
  let s := if counts then s.modTile ⟨b, tile⟩ fun t => (match Tbl.get ch t.inCh with
      | none => t
      | some c => { t with inCh := Tbl.put ch { c with seqNext := c.seqNext + 1 } t.inCh })
    else s
  match f.entry, f.edge, s.launch? f.launch with
  | some e, some id, some l => s.arriveCtrl b e f.tok (s.ctrlSender l id e)
  | _, _, _ => s.enqueue b tile ch f.tok

/-- What the ingress does with a flit that has arrived. -/
def State.ingress (s : State) (k : Nat) (f : Flit) : State :=
  match f.dest with
  | .store =>
    (match (f.edge.bind fun id => (s.launch? f.launch).bind fun l => (l.edge? id).map fun e => (l, e)) with
     | none => s.dropFlit k
     | some (l, e) =>
       if e.st = .direct then { s.dropFlit k with late := s.late ++ [f] }
       else if !s.storeTakes l e f.seq then s
       else (s.dropFlit k).storePut l e f.seq { tok := f.tok, entry := f.entry })
  | .handler b e => (s.dropFlit k).arriveCtrl b e f.tok (some (f.src, f.ch))
  | .chan b tile ch =>
    if f.src.b ≠ b ∧ f.checked = false then s
    else match s.seqWanted f b tile ch with
      | some q => if q = f.seq then (s.dropFlit k).takeFlit f b tile ch true else s
      | none => (s.dropFlit k).takeFlit f b tile ch false

def execFlitIngress (k : Nat) (s : State) : Answer :=
  .next (match s.flits[k]? with
    | none => s
    | some f =>
      if s.flitHeld f || decide (s.flitNow f < f.due) then s
      else if s.flitLate f then
        (if f.edge.isSome then { s.dropFlit k with late := s.late ++ [f] } else s.dropFlit k)
      else s.ingress k f)

/-! ### Boundary guards (R357, R358) -/

/-- The guard's test of a flit at the egress toward a neighbour (R357). -/
def State.guardPass (s : State) (f : Flit) (nb dest : Nat) : Bool :=
  let owns (b : Nat) : Bool := (s.billet b).page.any fun p => p.cid == f.cid
  owns nb || (nb != dest && owns dest)

/-- The record of the first drop in a launch (R358). -/
def guardInfo (p : Resident) (f : Flit) (nb : Nat) : FaultInfo :=
  { cls := clsGuard, cid := f.cid, baddr := f.src.b, tile := f.src.t, page := p.page, detail := f.ch, addr := nb,
    rslot := f.launch.slot, queue := f.launch.queue }

/-- A dropped flit: counted at its sender; the first of its launch writes a GUARD record (R358). -/
def State.guardDropped (s : State) (k : Nat) (f : Flit) (nb : Nat) : State :=
  let s := (s.dropFlit k).modBillet f.src.b fun x =>
    { x with guardDrop := if x.guardDrop = 0xFFFFFFFF then x.guardDrop else x.guardDrop + 1 }
  match s.launch? f.launch, (s.billet f.src.b).page with
  | some l, some p =>
    if l.guarded then s
    else (s.modLaunch l.id fun x => { x with guarded := true }).noteRecord l.id (guardInfo p f nb)
  | _, _ => s

def execBoundaryGuard (k nb : Nat) (s : State) : Answer :=
  .next (match s.flits[k]? with
    | none => s
    | some f =>
      match f.dest.billet with
      | none => s
      | some d =>
        if f.checked || s.flitHeld f || d == f.src.b then s
        else if s.flitLate f then
          (if f.edge.isSome then { s.dropFlit k with late := s.late ++ [f] } else s.dropFlit k)
        else if s.guardPass f nb d then
          (if nb = d then { s with flits := modNth (fun (g : Flit) => { g with checked := true }) k s.flits } else s)
        else s.guardDropped k f nb)

/-! ### Redelivery (R352) -/

/-- Sends a token from the Front Desk or an edge's store into the edge's consumer channel (R266, R351). -/
def State.sendIn (s : State) (from_ : Nat) (time : Nat) (l : Launch) (e : Edge) (seq : BitVec 16) (k : EdgeTok) : State :=
  (s.modEdge l.id e.id fun x => { x with nextFc := (s.side (sideOf from_)).fc + paceOf (2 * time) }).sendFlit
    { src := ⟨from_, 0⟩, ch := 0, dest := .chan e.dest e.ctile e.cch, edge := some e.id, gen := (s.billet e.dest).gen, seq := seq,
      cid := l.cid, launch := l.id, tok := k.tok, entry := k.entry, due := (s.side (sideOf from_)).fc + time, checked := true }

/-- Redelivers a late flit through its edge's current entry, from the Front Desk of the side that serves the launch's queue. -/
def State.redeliver (s : State) (side : Nat) (f : Flit) (rest : List Flit) : State :=
  match (f.edge.bind fun id => (s.launch? f.launch).bind fun l => (l.edge? id).map fun e => (l, e)) with
  | none => { s with late := rest }
  | some (l, e) =>
    let desk := deskOf side
    if e.st = .direct then
      if e.view || (s.billet e.dest).isFrozen || decide (e.nextFc > (s.side side).fc) then s
      else { s with late := rest }.sendIn desk (s.oneWay desk e.dest none (e.endTile f.entry)) l e f.seq { tok := f.tok, entry := f.entry }
    else { s with late := rest }.sendFlit
      { f with src := ⟨desk, 0⟩, dest := .store, due := (s.side side).fc + s.sliceTime desk (l.storeSide e), checked := true }

/-- The side whose Front Desk injects a late flit (R266). -/
def State.lateSide (s : State) (f : Flit) : Nat := ((s.launch? f.launch).map Launch.side).getD 0

def execFrontDeskRedeliver (side : Nat) (s : State) : Answer :=
  .next (match takeFirst (fun (f : Flit) => s.lateSide f == side) s.late with
    | none => s
    | some (f, rest) => s.redeliver side f rest)

/-! ### Draining a store into its consumer (R351) -/

/-- Flits on their way to an edge's store. -/
def State.storeFlits (s : State) (r : RecId) (id : Nat) : Bool :=
  (s.flits ++ s.late).any fun f => f.launch == r && f.edge == some id && f.dest == .store

/-- The destination index of an edge's channel: its place in a steering set, or 0. -/
def Billet.edgeView (x : Billet) (e : Edge) : Nat :=
  let r : Route := (Tbl.get e.pch (x.tile e.ptile).outCh).elim {} fun c => nthD {} x.routes c.route
  if r.kind = .steer then
    (((nthD [] x.steer r.set).zipIdx.find? fun p => (nthD {} x.routes p.1).edge == e.id).map Prod.snd).getD 0
  else 0

/-- The route of an edge's channel, or the member of its steering set that the edge's tokens take, is overridden (R405). -/
def Billet.edgeDetoured (x : Billet) (e : Edge) : Bool :=
  let r : Route := (Tbl.get e.pch (x.tile e.ptile).outCh).elim {} fun c => nthD {} x.routes c.route
  r.detour.isSome || (r.kind == .steer && (x.setRoutes r.set).any fun q => q.edge == e.id && q.detour.isSome)

/-- The view that an edge's producer has of it; none where an override has taken the channel elsewhere. -/
def State.producerView (s : State) (l : Launch) (e : Edge) : Option SignalTo :=
  (l.placeOf e.prod).bind fun b =>
    if (s.billet b).edgeDetoured e then none else some (.out ⟨b, e.ptile⟩ e.pch ((s.billet b).edgeView e))

/-- The producer's view becomes asserted when an edge changes state, until a signal of the new state arrives; signals of the
old state that are on their way are void (R267). -/
def State.assertProducer (s : State) (l : Launch) (e : Edge) : State :=
  match s.producerView l e with
  | none => s
  | some v => { s.setView v true with signals := s.signals.filter fun g => g.hearer != v }

/-- EDGE_STATE_CHANGE to DIRECT or CARAVAN once the store has drained (R351, R354). -/
def State.edgeSettled (s : State) (l : Launch) (e : Edge) : State :=
  match l.placeOf e.prod, l.placeOf e.cons with
  | some p, some c =>
    if sideOf p = sideOf c then
      let s := s.modEdge l.id e.id fun x => { x with st := .direct, dest := c, gen := (s.billet c).gen, off := true, reserved := false }
      let s := if e.reserved then s.modCtx l.cid fun x => { x with storeUsed := x.storeUsed - 32768 } else s
      ((s.assertProducer l e).modBillet p fun x => { x with steward := true }).modBillet c fun x => { x with steward := true }
    else if e.st ≠ .waystation ∨ e.tried then s
    else if 32768 ≤ s.storeLeft l.cid then
      let s := s.modEdge l.id e.id fun x => { x with st := .caravan, dest := c, gen := (s.billet c).gen, reserved := true, home := sideOf c }
      let s := s.modCtx l.cid fun x => { x with storeUsed := x.storeUsed + 32768 }
      (s.modBillet p fun x => { x with steward := true }).modBillet c fun x => { x with steward := true }
    else s.modEdge l.id e.id fun x => { x with tried := true }
  | _, _ => s

/-- The consumer's billet takes tokens of a store: its gates are open and nothing evicts or freezes it. -/
def State.drainOpen (s : State) (b : Nat) : Bool :=
  let x := s.billet b
  s.active b && x.evict.isNone && (match x.load with
    | none => true
    | some l => l.phase == .running)

/-- Takes the next token of a store, whose own slot is free again; one whose tag breaks R15 is an uncorrectable error of the GDDR 7 or
L2 that holds the slot, and goes no further (log entry 73). -/
def State.drainTok (s : State) (l : Launch) (e : Edge) (k : EdgeTok) (rest : List EdgeTok) : State :=
  let home := l.storeSide e
  let seq := e.first
  let s := s.modEdge l.id e.id fun x => { x with toks := rest, out := seq + 1 }
  let s := if k.spill then s.modCtx l.cid fun c => { c with storeUsed := c.storeUsed - 128 } else s
  if !k.tok.tag.legal then s.ueBillet e.dest (if e.st = .caravan then 8 else 2) 0
  else s.sendIn (deskOf home) (s.sliceTime e.dest home (e.endTile k.entry)) l e seq k

def execWaystationDrain (r : RecId) (edge : Nat) (s : State) : Answer :=
  .next (match s.launch? r with
    | none => s
    | some l =>
      match l.edge? edge with
      | none => s
      | some e =>
        if e.st = .direct then s
        else match l.placeOf e.cons with
          | none => s
          | some c =>
            if !s.drainOpen c then s
            else match e.toks with
              | [] => if e.early.isEmpty && e.out == e.nextIn && e.nextIn == e.seq && !s.storeFlits r edge then s.edgeSettled l e else s
              | k :: rest =>
                if e.first != e.out || e.view || decide (e.nextFc > (s.side (l.storeSide e)).fc) then s
                else s.drainTok l { e with dest := c } k rest)

/-! ### Return queues (R171) -/

/-- Whether a return target accepts a token in this fc, as a channel head's would (R36). -/
def State.retTakes (s : State) (a : TileAddr) (r : RetTok) : Bool :=
  let x := s.billet a.b
  let t := x.tile a.t
  match r.tgt with
  | .none => true
  | .port sl p => t.takes (s.now a.b) (r.pos / 64) sl.toNat p r.tok.tag
  | .chan c => !(x.chanOff (s.mtCap a.b) (s.now a.b) a.t c.toNat none)

/-- A returned payload as its target takes it: lane 0 of a vector at a word channel (R171); a word port takes lane 0 as it reads. -/
def Tile.retPay (t : Tile) (tgt : Target) (p : Payload) : Payload :=
  match tgt with
  | .chan c => if (Tbl.get c.toNat t.outCh).any fun k => k.shape == .word then .word p.lane0 else p
  | _ => p

def execReturnQueueDeliver (a : TileAddr) (s : State) : Answer :=
  .next (if s.active a.b then
    match (s.tile a).rets with
    | [] => s
    | r :: rest =>
      if decide (r.due ≤ s.now a.b) && s.retTakes a r then
        (s.modTile a fun t => { t with rets := rest }).offerOut a (r.pos / 64) (s.now a.b)
          { tgt := r.tgt, tag := r.tok.tag, res := .pay ((s.tile a).retPay r.tgt r.tok.pay) }
      else s
  else s)

end Sys2Proof.Machine
end

