-- ==== Sys2Proof/Machine/NodeChecks.lean ====
section
/-! DEFINITION. The loader's checks of one node's own fields, beyond what decoding refuses (03 R85 to R92, and the W, XMOD, IMM, T0 and T1
cells of R111 to R145, R147, R149, R183, R194, R198, R201, R205 to R208, R216, R221), and the shapes of its arcs (R20). Choices and
readings: log entry 71. -/

namespace Sys2Proof

/-! ### Targets (R85, R115, R147, R183, R221) -/

/-- What an opcode asks of T0 and T1: required, optional, absent, or a channel. -/
inductive Want | some_ | opt | none_ | chan
  deriving DecidableEq, Repr

def Want.ok (w : Want) (t : Target) : Bool :=
  match w, t with
  | .opt, _ => true
  | .some_, .none => false
  | .some_, _ => true
  | .none_, .none => true
  | .none_, _ => false
  | .chan, .chan _ => true
  | .chan, _ => false

/-- T0 and T1 as the opcode's row describes them. A spawn with two parameters may leave T1 out, and its argument R then goes nowhere: the
row says neither that T1 must stand nor that it may not, and this is the model's choice (log entry 71). -/
def Instr.wants (i : Instr) : Want × Want :=
  match i with
  | .sink .. | .ret .. | .prf .. | .qput .. | .mma .. | .trap .. | .halt .. => (.none_, .none_)
  | .spawn _ two => (.some_, if two then .opt else .none_)
  | .porter .. => (.some_, .chan)
  | .st .. | .stx .. | .tlinc .. | .cpy .. | .cpyr .. | .mzero .. | .rpush .. | .spacc .. | .hset .. | .hclr .. | .chk ..
  | .csr .. => (.opt, .opt)
  | .red .. => (.opt, .opt)
  | .mdrain .. => (.chan, .none_)
  | .raise n => (if n.t0 = .none then .none_ else .chan, .none_)
  | _ => (.some_, .opt)

/-- R85: T1 without T0, or twice the same port or channel. -/
def targetsOk (t0 t1 : Target) : Bool := t1 == .none || (t0 != .none && t0 != t1)

/-! ### XMOD and IMM -/

/-- What an opcode makes of its XG word: XMOD, IMM, and whether an immediate may replace a port. -/
structure XRule where
  xmod : Nat → Bool := fun x => x == 0
  imm : Nat → Bool := fun x => x == 0
  isel : Bool := true
  /-- The IMM cell holds of an immediate operand too (R133). -/
  cell : Bool := false

def isZero (x : Nat) : Bool := x == 0
def anyImm (_ : Nat) : Bool := true
def below (n x : Nat) : Bool := decide (x < n)

/-- Element counts of the conversion types of R132. -/
def intTyCount (c : Nat) : Nat := if c < 2 then 1 else if c = 2 then 2 else 4
def fltTyCount (c : Nat) : Nat := if c = 0 then 1 else 2

/-- IMM of a conversion (R132): source index below the source's count, position below the destination's. -/
def cvtImm (src dst : Nat) (x : Nat) : Bool :=
  decide (x % 4 < src) && decide (x / 4 % 4 < dst) && decide (x < 16)

/-- Formats narrower than 32 bits that pack and unpack take (R133). -/
def packFmt (f : Nat) : Bool := (decide (1 ≤ f) && decide (f ≤ 5)) || (decide (8 ≤ f) && decide (f ≤ 13))

/-- A format of integers, or of floats (R52). -/
def isIntFmt (f : Nat) : Bool := decide (6 ≤ f) && decide (f ≤ 13)
def isFltFmt (f : Nat) : Bool := decide (f ≤ 5)

/-- Element count of a format in a token (R61, R133). -/
def fmtCount (vec : Bool) (f : Nat) : Nat := Machine.fmtK f * (if vec then 16 else 1)

/-- IMM of dot (R133, R142). -/
def dotImm (sat : Bool) (rm : Round) (x : Nat) : Bool :=
  let fl := x % 32
  let fr := x / 256 % 32
  let b := x / 8192
  let nl := Machine.fmtK fl
  let nr := Machine.fmtK fr
  let ratio := if nl ≥ nr then nl / nr else nr / nl
  x / 32 % 8 == 0 && decide (fl ≤ 13) && decide (fr ≤ 13) && (isIntFmt fl == isIntFmt fr) &&
    (if isIntFmt fl then !sat || rm == .rne else !sat) && decide (b < ratio)

/-- A register of the csr space (R245). -/
def csrIndex (x : Nat) : Bool :=
  (decide (0x040 ≤ x) && decide (x ≤ 0x047)) || (decide (0x050 ≤ x) && decide (x ≤ 0x080)) || (decide (0x0C0 ≤ x) && decide (x ≤ 0x0C7)) ||
    x == 0x0D0 || x == 0x0D8 || x == 0x0D9 || (decide (0x100 ≤ x) && decide (x ≤ 0x119))

/-- XMOD and IMM of an opcode (R123, R132, R133, R143, R144, R147, R204 to R208, R216, R221). -/
def Instr.xRule (i : Instr) : XRule :=
  let xm := (i.gParts.map fun p => (p.2.2.xg.map fun x => x.xmod.toNat).getD 0).getD 0
  match i with
  | .const .. => { imm := anyImm, isel := false }
  | .icvt _ d _ => { xmod := below 4, imm := cvtImm (intTyCount (xm % 4)) (intTyCount d.code.toNat), isel := false }
  | .fcvt _ d _ => { xmod := below 3, imm := cvtImm (fltTyCount (xm % 4)) (fltTyCount d.code.toNat), isel := false }
  | .ftoi _ d _ => { xmod := below 3, imm := cvtImm (fltTyCount (xm % 4)) (intTyCount d.code.toNat), isel := false }
  | .itof _ d _ => { xmod := below 4, imm := cvtImm (intTyCount (xm % 4)) (fltTyCount d.code.toNat), isel := false }
  | .cvtch .. => { xmod := below 14, imm := fun x => below 14 (x % 32) && isZero (x / 32 % 8), isel := false }
  | .pack .. => { xmod := packFmt, cell := true }
  | .lmul .. | .lacc .. => { cell := true }
  | .unpack .. => { xmod := packFmt, imm := fun x => isZero (x % 256), isel := false }
  | .sround .. => { xmod := below 6, imm := fun x => decide (1 ≤ x % 32) && decide (x % 32 ≤ 5) && isZero (x / 32 % 8), isel := false }
  | .lcvt .. => { imm := fun x => isZero (x % 256), isel := false }
  | .qnt .. | .dqnt .. => { xmod := isIntFmt, imm := fun x => isZero (x / 16 % 16), isel := false }
  | .dot _ _ s r => { xmod := anyImm, imm := dotImm s r, isel := false }
  | .scan .. => { xmod := below 3 }
  | .cmpx .. => { xmod := fun x => isZero (x / 4 % 2) }
  | .carry .. => { imm := fun x => decide (1 ≤ x) && below 256 x, isel := false }
  | .gate _ c => { imm := fun x => if c then decide (1 ≤ x) && below 4096 x else isZero x, isel := false }
  | .eos _ c => { imm := fun x => decide (1 ≤ x % 8) && isZero (x / 8 % 2) && (if c then decide (1 ≤ x / 16) else isZero (x / 16)), isel := false }
  | .join .. => { imm := fun x => decide (1 ≤ x) && below 4096 x, isel := false }
  | .spawn .. => { xmod := below 4, imm := fun x => below 512 x && (Target.ofCode (BitVec.ofNat 9 x)).any (· != .none), isel := false }
  | .porter .. => { imm := fun x => below 256 x && decide (x % 32 + x / 32 ≤ 31), isel := false }
  | .rng .. => { imm := below 4, isel := false }
  | .steer .. | .merge .. | .sink .. | .isend .. | .ret .. | .cnt .. | .isect .. | .unio .. | .reorder .. => { isel := false }
  | .wtaddr _ g _ => { xmod := fun x => decide (x % 8 ≤ 4) && (g || isZero (x / 8)) }
  | .waitq .. => { imm := anyImm, isel := false }
  | .tlinc .. => { xmod := below 5, imm := below 8, isel := false }
  | .tlwait .. => { xmod := below 5, imm := below 13, isel := false }
  | .cpy .. | .cpyr .. => { isel := false }
  | .qput .. | .qget .. => { imm := below 256, isel := false }
  | .mzero .. | .mdrain .. => { imm := fun x => decide (1 ≤ x) && below 256 x, isel := false }
  | .rpush .. | .ringst .. => { imm := below 16, isel := false }
  | .spacc .. => { xmod := below 8 }
  | .spflush .. => { xmod := below 8, imm := fun x => decide (1 ≤ x) && below 8 x, isel := false }
  | .raise n => { imm := fun x => if n.t0 = .none then decide (2 ≤ x) && decide (x ≤ 30) else isZero x, isel := false }
  | .hset .. | .hclr .. => { imm := fun x => decide (1 ≤ x) && decide (x ≤ 30), isel := false }
  | .trap .. | .brk .. => { imm := anyImm, isel := false }
  | .chk .. | .halt .. => { isel := false }
  | .csr .. => { imm := csrIndex, isel := false }
  | _ => {}

/-- Ports that an immediate may replace: those the opcode reads; wtaddr and spacc R alone (R88, R183, R221). -/
def Instr.iselOk (i : Instr) (c : ISel) : Bool :=
  match c.port with
  | none => true
  | some p =>
    i.xRule.isel && i.rawReads.contains p &&
      (match i with
       | .wtaddr .. | .spacc .. => p == .R
       | _ => true)

/-- R89: the immediate of an i8 form repeats its bit 7. -/
def Instr.immBytes (i : Instr) (x : XG) : Bool :=
  match i.gParts with
  | none => true
  | some (op, m, n) =>
    if (op.toNat / 16 == 0 || op == 0x12 || op == 0x13) && m.extractLsb' 2 2 == 3 && n.w != .packed && x.isel != .none then
      x.imm.extractLsb' 8 8 == (if x.imm.getLsbD 7 then 0xFF else 0)
    else true

/-- Sticky counts an opcode accepts (R88, R149). -/
def Instr.stickyOk (i : Instr) (sl sr : Nat) : Bool :=
  let reads (p : Port) : Bool := i.rawReads.contains p && i.isel.port != some p
  let row5 : Bool := i.gParts.any fun p => p.1.toNat / 16 == 5
  (sl == 0 || (reads .L && !row5)) &&
    (sr == 0 || (reads .R && (!row5 || (match i with
      | .steer .. => true
      | .gate _ c => !c
      | _ => false))))

/-- An XG word (R88, R89), or its absence (R86: IMM 0 and XMOD 0). -/
def Instr.xgOk (i : Instr) (g : GNode) : Bool :=
  let x := g.xg.getD ⟨0, 0, .none, 0, 0⟩
  let r := i.xRule
  r.xmod x.xmod.toNat && (if x.isel = .none then r.imm x.imm.toNat
      else i.iselOk x.isel && i.immBytes x && (!r.cell || r.imm x.imm.toNat)) &&
    i.stickyOk x.sl.toNat x.sr.toNat

/-! ### XM words (R90, R91, R194, R197, R198, R201) -/

/-- An XM word's fields that do not depend on the rest of the block. -/
def Instr.xmOk (i : Instr) (n : MNode) : Bool :=
  let sp : Space := match i with
    | .ld _ sp _ | .st _ sp _ | .ldx _ sp _ | .stx _ sp _ | .amo _ sp _ _ | .red _ sp _ _ => sp
    | .prf _ => .glb
    | _ => .scr
  let o : Order := match i with
    | .ld _ _ o | .st _ _ o | .ldx _ _ o | .stx _ _ o | .amo _ _ o _ | .red _ _ o _ | .fence _ o => o
    | _ => .plain
  (n.xm.win == 0 || sp == .glb) && ((n.xm.pred == 62) == (n.xm.succ == 62)) &&
    i.stickyOk n.xm.sl.toNat n.xm.sr.toNat &&
    (match i with
     | .fence .. => n.xm.win == 0 && n.xm.disp == 0
     | .prf .. => (n.xm.scope == .billet || n.xm.scope == .side) && n.xm.pred == 62
     | .amo _ _ _ a => (o != .plain || n.xm.scope == .tile) && (a != .cas || n.w == .word)
     | _ => o != .plain || n.xm.scope == .tile)

/-- W and M beyond what decoding refuses: an arithmetic shr of n32, a packed type other than 00 (R114, R121), eos .emit as a
vector (R147), rdtime's vector form (R125). -/
def Instr.formOk (i : Instr) : Bool :=
  match i with
  | .shr _ t a => !(t == .n32 && a)
  | .add n t _ | .sub n t _ | .mul n t _ | .mad n t _ => n.w != .packed || t == .i32
  | .mulh n t | .min n t | .max n t => n.w != .packed || t == .i32
  | .absn n t _ _ => n.w != .packed || t == .i32
  | .fadd n t _ | .fsub n t _ | .fmul n t _ | .ffma n t _ | .frnd n t _ => n.w != .packed || t == .f32
  | .fmin n t | .fmax n t | .frcpe n t | .frsqe n t | .fexp2e n t | .flog2e n t => n.w != .packed || t == .f32
  | .fsgn n t _ => n.w != .packed || t == .f32
  | .eos n c => c || n.w == .word
  | .rdtime n f => n.w != .vec || f == .lo
  | _ => true

/-- What the node's own word must satisfy: W, M and the targets. -/
def Instr.nodeWordOk (i : Instr) : Bool :=
  i.formOk &&
    (match i.gParts with
     | some (_, _, g) => i.wants.1.ok g.t0 && i.wants.2.ok g.t1 && targetsOk g.t0 g.t1
     | none =>
       match i.mParts with
       | some (_, _, _, n) =>
         let t1 : Target := match i with
           | .amo .. | .red .. => .none
           | _ => n.t1
         i.wants.1.ok n.t0 && i.wants.2.ok t1 && targetsOk n.t0 t1
       | none =>
         match i with
         | .mma .. => true
         | _ => false)

/-- What the extension word must satisfy, or its absence. -/
def Instr.extWordOk (i : Instr) : Bool :=
  match i.gParts with
  | some (_, _, g) => i.xgOk g
  | none =>
    match i.mParts with
    | some (_, _, _, n) => i.xmOk n
    | none =>
      match i with
      | .mma x .. => x.accmask != 0
      | _ => true

/-- A node whose every field is as its description allows: the checks of R96 that look at one node alone. -/
def Instr.fieldsOk (i : Instr) : Bool := i.nodeWordOk && i.extWordOk

/-! ### Shapes of arcs (R20, R112, R143, R148, R183, R221) -/

/-- The shape W gives. -/
def Instr.wShape (i : Instr) : Shape :=
  match i.gParts with
  | some (_, _, g) => g.w
  | none => .word

/-- The shape a port reads. -/
def Instr.readShape (i : Instr) (p : Port) : Shape :=
  match i with
  | .iota .. => .word
  | .tagset n _ => if p = .R then .word else n.w
  | .dot n .. => if p = .Q then .word else n.w
  | .bcast .. | .lsh .. => if p = .R then .word else .vec
  | .splat .. => .word
  | .lget .. | .lset .. => if p = .L then .vec else .word
  | .wcv .. => .vec
  | .steer n _ | .gate n _ => if p = .R then .word else n.w
  | .ld .. | .fence .. | .prf .. =>
    (match i with
     | .fence n _ => if p = .L ∧ n.w = .vec then .vec else .word
     | _ => .word)
  | .st n .. => if p = .R ∧ n.w = .vec then .vec else .word
  | .ldx .. => if p = .L then .vec else .word
  | .stx .. => if p = .Q then .word else .vec
  | .amo n _ _ a => if p = .R ∧ (n.w = .vec ∨ a = .cas) then .vec else .word
  | .red n .. => if p = .R ∧ n.w = .vec then .vec else .word
  | .waitq n | .qput n | .brk n => if p = .L then n.w else .word
  | .cpy .. | .cpyr .. | .rpush .. => if p = .L then .vec else .word
  | _ => i.wShape

/-- The shape a target receives. -/
def Instr.outShape (i : Instr) (second : Bool) : Shape :=
  match i with
  | .iota .. | .splat .. | .bcast .. | .lsh .. | .lset .. => .vec
  | .dot .. | .rsum .. | .rmax .. | .rmin .. | .lget .. | .wcv .. => .word
  | .isend n | .cnt n => if second then n.w else .word
  | .join .. => .word
  | .ld n .. => if n.w = .vec then .vec else .word
  | .ldx .. => .vec
  | .amo n .. => if n.w = .vec then .vec else .word
  | .fence n _ => if n.w = .vec then .vec else .word
  | .mdrain .. => .vec
  | .cpy .. | .cpyr .. | .rpush .. => .word
  | _ => i.wShape

/-- A delivered shape at a port: equal, or a word at a vector port (R20). -/
def arcOk (got want : Shape) : Bool := got == want || (got == .word && want == .vec)

end Sys2Proof
end

