-- ==== Sys2Proof/Machine/Image.lean ====
section
/-! DEFINITION. The page image as bytes (08 R255 to R263, R271, R275, R276, 09 R283, R289, R290, 07 R224, 05 R168): its header, tile
segments, billet section and data segment, and the configuration they give a billet. Choices and readings: log entry 25. -/

namespace Sys2Proof.Machine

/-- The 32-bit word of an image at a byte offset, and the 64-bit word there. -/
def iw (ws : List Word) (off : Nat) : Nat := (nthD 0 ws (off / 4)).toNat
def idw (ws : List Word) (off : Nat) : Nat := 2 ^ 32 * iw ws (off + 4) + iw ws off

/-- Bits [lo + n - 1 : lo] of a number. -/
def fld (x lo n : Nat) : Nat := x / 2 ^ lo % 2 ^ n

/-- CRC-32 of IEEE 802.3 (R256): one byte into the running value, then a list. -/
def crcByte (c : BitVec 32) (b : Byte) : BitVec 32 :=
  (List.range 8).foldl (fun c _ => if c.getLsbD 0 then (c >>> 1) ^^^ 0xEDB88320 else c >>> 1) (c ^^^ b.zeroExtend 32)
def crc32 (bs : List Byte) : Word := (bs.foldl crcByte 0xFFFFFFFF) ^^^ 0xFFFFFFFF

/-! ### Tile segments -/

/-- A prime record (R258): its offset, its first three words, its payload. -/
structure PrimeImg where
  off : Nat
  w0 : Nat
  w1 : Nat
  w2 : Nat
  pay : List Word
  deriving DecidableEq, Repr

def PrimeImg.ch (p : PrimeImg) : Nat := p.w0 % 32
def PrimeImg.vec (p : PrimeImg) : Bool := fld p.w0 5 1 == 1
def PrimeImg.tagBits (p : PrimeImg) : Nat := 2 ^ 32 * (p.w2 % 256) + p.w1

/-- The token a prime record stands for. -/
def PrimeImg.token (p : PrimeImg) : Token :=
  { tag := (Tag.ofNat p.tagBits).getD {}, pay := if p.vec then .vec p.pay else .word (nthD 0 p.pay 0) }

/-- A block with the offset of its header. -/
structure BlockImg where
  off : Nat
  blk : Block
  deriving DecidableEq, Repr

/-- A tile segment as laid out (R256): past is the header of a block that runs past the segment, ends whether the last prime record
ends it. -/
structure TileImg where
  t : Nat
  off : Nat
  len : Nat
  blocks : List BlockImg
  past : Option Nat
  primes : List PrimeImg
  ends : Bool
  deriving DecidableEq, Repr

def tileLen (ws : List Word) (t : Nat) : Nat := fld (iw ws (8 + 4 * t)) 16 16
def tileOff (ws : List Word) (t : Nat) : Nat := fld (iw ws (8 + 4 * t)) 0 16

/-- Words of a tile segment before its blocks. -/
def segHead : Nat := 148 * 4

/-- A station's slot words with every extension word whose SCOPE is reserved read at scope 0: that word fails itself (R91), and what
else its node is stays known. -/
def mendScopes : List Word → List Word
  | [] => []
  | [w] => [w]
  | w :: e :: ws =>
    if w = 0 ∨ ¬ w.getLsbD 22 then w :: mendScopes (e :: ws)
    else
      (match decode [w, e] with
       | .error .reservedScope => [w, e &&& ~~~0xE00#32]
       | _ => [w, e]) ++ mendScopes ws

/-- The slot words of a block as the image has them. -/
def slotWords (ws : List Word) (off n : Nat) : List Word := (List.range n).map fun k => nthD 0 ws (off / 4 + 1 + k)

/-- The present blocks in ascending number: the blocks, the offset after them, the header of one that does not fit. -/
def readBlocks (ws : List Word) (fin : Nat) : List Nat → Nat → List BlockImg × Nat × Option Nat
  | [], off => ([], off, none)
  | n :: ns, off =>
    let h := nthD 0 ws (off / 4)
    let next := off + 4 + 4 * hdrSlots h
    if next > fin then ([], off, some off)
    else
      let b : BlockImg := ⟨off, ⟨n, h, mendScopes (slotWords ws off (hdrSlots h))⟩⟩
      let (bs, off', p) := readBlocks ws fin ns next
      (b :: bs, off', p)

/-- n prime records from an offset, and the offset after them. -/
def readPrimes (ws : List Word) : Nat → Nat → List PrimeImg × Nat
  | 0, off => ([], off)
  | n + 1, off =>
    let k := if fld (iw ws off) 5 1 = 1 then 16 else 1
    let p : PrimeImg := ⟨off, iw ws off, iw ws (off + 4), iw ws (off + 8), (List.range k).map fun j => nthD 0 ws (off / 4 + 3 + j)⟩
    let (ps, off') := readPrimes ws n (off + 12 + 4 * k)
    (p :: ps, off')

/-- The blocks a segment's mask shows as present (R256). -/
def presentIn (ws : List Word) (off : Nat) : List Nat := (List.range 4).filter fun k => fld (iw ws off) k 1 = 1

def readTile (ws : List Word) (t : Nat) : TileImg :=
  let off := tileOff ws t
  let len := tileLen ws t
  let fin := off + len
  let (bs, p, past) := readBlocks ws fin (presentIn ws off) (off + segHead)
  match past with
  | some h => ⟨t, off, len, bs, some h, [], true⟩
  | none =>
    let (ps, e) := readPrimes ws (fld (iw ws off) 8 8) p
    ⟨t, off, len, bs, none, ps, decide (e = fin)⟩

/-! ### Channel entries (R259, R260) -/

def shapeOf (c : Nat) : Shape := if c = 0 then .word else if c = 1 then .vec else .packed
def portOf (c : Nat) : Port := if c = 1 then .L else if c = 2 then .R else .Q

def inOff (seg ch : Nat) : Nat := seg + 80 + 8 * ch
def outOff (seg ch : Nat) : Nat := seg + 336 + 8 * ch

def InChan.ofEntry (e : Nat) : InChan :=
  { shape := shapeOf (fld e 0 2), fmt := fld e 2 5, scx := fld e 7 4, dblk := fld e 11 2, dslot := fld e 13 6,
    dport := portOf (fld e 19 2), off := fld e 21 5, on := fld e 26 5, static := fld e 31 1 == 1 }

def OutChan.ofEntry (e : Nat) : OutChan :=
  { shape := shapeOf (fld e 0 2), fmt := fld e 2 5, scx := fld e 7 4, route := fld e 11 6, split := fld e 17 1 == 1,
    pace := 2 ^ fld e 18 3 }

/-- The channel entries of a segment that are not disabled. -/
def enabled (ws : List Word) (at_ : Nat → Nat) : List (Nat × Nat) :=
  (List.range 32).filterMap fun c => let e := idw ws (at_ c); if fld e 0 2 = 3 then none else some (c, e)

/-- The present blocks from the one that runs past its segment on: their words are not to be had. -/
def TileImg.cut (ws : List Word) (s : TileImg) : List Nat := if s.past.isSome then (presentIn ws s.off).drop s.blocks.length else []

/-- The C-tile a segment configures: stations, channels, scales, stage-control word. -/
def TileImg.tile (ws : List Word) (s : TileImg) : Tile :=
  { blocks := s.blocks.map BlockImg.blk
    stageCtl := BitVec.ofNat 64 (idw ws (s.off + 8))
    sc := (List.range 16).map fun k => Scale.ofWord (nthD 0 ws (s.off / 4 + 4 + k))
    inCh := (enabled ws (inOff s.off)).map fun p => (p.1, InChan.ofEntry p.2)
    outCh := (enabled ws (outOff s.off)).map fun p => (p.1, OutChan.ofEntry p.2) }

/-! ### Billet section (R257) -/

def billetOff (ws : List Word) : Nat := fld (iw ws 40) 0 16
def dataOff (ws : List Word) : Nat := fld (iw ws 44) 0 16
def dataLen (ws : List Word) : Nat := fld (iw ws 44) 16 16

def Route.ofNat (e : Nat) : Route :=
  let k := fld e 0 3
  { kind := if k = 1 then .loc else if k = 2 then .edge else if k = 3 then .steer else if k = 4 then .handler else .none
    tile := fld e 3 3, ch := fld e 6 5, edge := fld e 11 12, set := fld e 23 3, entry := fld e 26 5, remote := fld e 31 1 == 1
    phys := fld e 32 16, rtt := fld e 48 8 }

def routeOff (ws : List Word) (k : Nat) : Nat := billetOff ws + 8 * k
def readRoutes (ws : List Word) : List Route := (List.range 64).map fun k => Route.ofNat (idw ws (routeOff ws k))

/-- A steering set's route indices (R263). -/
def steerOf (e : Nat) : List Nat := (List.range (fld e 0 3 + 1)).map fun i => fld e (8 + 6 * i) 6
def steerOff (ws : List Word) (k : Nat) : Nat := billetOff ws + 0x200 + 8 * k
def readSteer (ws : List Word) : List (List Nat) := (List.range 8).map fun k => steerOf (idw ws (steerOff ws k))

def Ring.ofNat (e : Nat) : Ring :=
  { fmt := fld e 27 5, mtile := fld e 24 3, reuse := fld e 20 4, slots := fld e 10 10 + 1, base := fld e 0 10 }
def ringOff (ws : List Word) (k : Nat) : Nat := billetOff ws + 0x240 + 4 * k
def ringMask (ws : List Word) : Nat := iw ws (billetOff ws + 0x3F0)
def readRings (ws : List Word) : List (Nat × Ring) :=
  (List.range 16).filterMap fun k => if fld (ringMask ws) k 1 = 1 then some (k, Ring.ofNat (iw ws (ringOff ws k))) else none

def mroleOf (c : Nat) : MRole := if c = 0 then .addr else if c = 1 then .fifo else if c = 2 then .cache else .spacc
def MTile.ofNat (e : Nat) : MTile := { role := mroleOf (fld e 0 2), ord := fld e 2 1 == 1, tile := fld e 3 3, ch := fld e 6 5 }
def roleOff (ws : List Word) (k : Nat) : Nat := billetOff ws + 0x280 + 4 * k
def readMTiles (ws : List Word) : List MTile := (List.range 8).map fun k => MTile.ofNat (iw ws (roleOff ws k))

def windowOff (ws : List Word) (k : Nat) : Nat := billetOff ws + 0x2A0 + 8 * k
/-- Declared windows with their sizes (R289). -/
def readWindows (ws : List Word) : List (Nat × Nat) :=
  (List.range 8).filterMap fun k => let e := idw ws (windowOff ws k); if e % 2 = 1 then some (k, fld e 32 32 + 1) else none

def Handler.ofNat (e : Nat) : Handler :=
  { st := if fld e 0 2 = 1 then .armed else .empty, en := fld e 2 1 == 1, pri := fld e 4 2, tile := fld e 6 3, block := fld e 9 2,
    argch := fld e 11 5 }
def handlerOff (ws : List Word) (k : Nat) : Nat := billetOff ws + 0x2E0 + 4 * k
def readHandlers (ws : List Word) : List Handler := (List.range 32).map fun k => Handler.ofNat (iw ws (handlerOff ws k))

def maskList (m n : Nat) : List Nat := (List.range n).filter fun k => fld m k 1 = 1

def stageOff (ws : List Word) (k : Nat) : Nat := billetOff ws + 0x360 + 8 * k
def readStages (ws : List Word) : List Stage :=
  (List.range 16).filterMap fun k =>
    let e := idw ws (stageOff ws k)
    if e % 2 = 1 then some ⟨k, fld e 1 3, maskList (fld e 8 32) 32⟩ else none

def floatOff (ws : List Word) (k : Nat) : Nat := billetOff ws + 0x3E0 + 4 * k
def readFloats (ws : List Word) : List Float :=
  (List.range 2).filterMap fun k =>
    let e := iw ws (floatOff ws k)
    if e % 2 = 1 then some { tile := fld e 1 3, stages := maskList (fld e 8 16) 16 } else none

def readFloors (ws : List Word) : List Nat := (List.range 4).map fun k => fld (iw ws (billetOff ws + 0x3E8 + 4 * (k / 2))) (16 * (k % 2)) 16

/-! ### Data segment (R290) -/

/-- A data record: its offset, M-tile, offset there, bytes. -/
structure DataRec where
  off : Nat
  m : Nat
  at_ : Nat
  len : Nat
  deriving DecidableEq, Repr

/-- The records of the segment; false when they do not fill it exactly or one is malformed, with the offset of that record. -/
def readData (ws : List Word) (fin : Nat) : Nat → Nat → List DataRec × Option Nat
  | 0, off => ([], if off = fin then none else some off)
  | n + 1, off =>
    if off ≥ fin then ([], if off = fin then none else some off)
    else
      let a := iw ws off
      let b := iw ws (off + 4)
      let r : DataRec := ⟨off, fld a 20 3, fld a 0 20, fld b 0 20⟩
      if off + 12 > fin ∨ fld a 23 9 ≠ 0 ∨ fld b 20 12 ≠ 0 ∨ r.at_ % 4 ≠ 0 ∨ r.len % 4 ≠ 0 ∨ r.len < 4 ∨ off + 8 + r.len > fin then
        ([], some off)
      else
        let (rs, e) := readData ws fin n (off + 8 + r.len)
        (r :: rs, e)

def dataRecs (ws : List Word) : List DataRec × Option Nat :=
  if dataLen ws = 0 then ([], none) else readData ws (dataOff ws + dataLen ws) (dataLen ws / 12 + 1) (dataOff ws)

/-- The tiles a page uses. -/
def usedTiles (ws : List Word) : List Nat := (List.range 8).filter fun t => tileLen ws t ≠ 0
def tileImgs (ws : List Word) : List TileImg := (usedTiles ws).map (readTile ws)

def imgDropSwap (ws : List Word) : Bool := fld (iw ws 48) 0 1 == 1

/-- The eight C-tiles; an unused tile has no blocks and no enabled channel (R255). -/
def imgTiles (ws : List Word) : List Tile :=
  (List.range 8).map fun t => if tileLen ws t = 0 then {} else (readTile ws t).tile ws

/-- The blocks of a tile whose words are not to be had (R97). -/
def cutOf (ws : List Word) (t : Nat) : List Nat := if tileLen ws t = 0 then [] else (readTile ws t).cut ws

/-- The billet that an image configures, before the steward's work (its entries are REWRITING until they are ARMED, R274); bases are the window bases of R335. -/
def imgBillet (ws : List Word) (bases : List Nat) : Billet :=
  { dropSwap := imgDropSwap ws
    tiles := imgTiles ws
    mtiles := readMTiles ws
    routes := readRoutes ws
    steer := readSteer ws
    rings := readRings ws
    windows := (readWindows ws).map fun p => (p.1, nthD 0 bases p.1, p.2)
    handlers := (readHandlers ws).map fun h => { h with st := if h.st = .armed then .rewriting else .empty }
    stages := readStages ws
    floats := readFloats ws
    floors := readFloors ws }

end Sys2Proof.Machine
end

