-- ==== Sys2Proof/Machine/Loader.lean ====
section
/-! DEFINITION. The loader's checks of a page image (03 R95 to R97 and the rules R96 lists; 08 R254 to R264, R271, R275 to R277; 09 R283,
R289, R290; 07 R224 to R238; 05 R157, R170, R175). A page is refused at its first failing word in image order. Choices and readings: log
entries 25, 61. -/

namespace Sys2Proof.Machine

/-- One check: the offset of the word it falls on, the station position of that word, whether it holds. -/
structure Chk where
  off : Nat
  at_ : Option (Nat × Nat) := none
  ok : Bool
  deriving DecidableEq, Repr

/-! ### Header (R255) -/

/-- Segments of an image: the header word that declares each, its offset and length. -/
def imgRegions (ws : List Word) : List (Nat × Nat × Nat) :=
  ((usedTiles ws).map fun t => (8 + 4 * t, tileOff ws t, tileLen ws t)) ++
    [(40, billetOff ws, fld (iw ws 40) 16 16)] ++ (if dataLen ws = 0 then [] else [(44, dataOff ws, dataLen ws)])

def apart (a b : Nat × Nat × Nat) : Bool := decide (a.2.1 + a.2.2 ≤ b.2.1) || decide (b.2.1 + b.2.2 ≤ a.2.1)

/-- Each segment against those declared before it; the tiles stand in ascending order. -/
def regionChecks (size : Nat) : List (Nat × Nat × Nat) → List (Nat × Nat × Nat) → List Chk
  | _, [] => []
  | seen, r :: rs =>
    { off := r.1, ok := r.2.1 % 4 == 0 && r.2.2 % 4 == 0 && decide (64 ≤ r.2.1) && decide (r.2.1 + r.2.2 ≤ size) &&
        seen.all (apart r) && (decide (r.1 ≥ 40) || seen.all fun q => decide (q.2.1 < r.2.1)) &&
        (decide (r.1 ≥ 40) || decide (segHead ≤ r.2.2)) }
      :: regionChecks size (seen ++ [r]) rs

/-- Offsets and lengths are multiples of 4, of an unused tile and an empty data segment too. -/
def headerChecks (ws : List Word) (size : Nat) : List Chk :=
  ((List.range 8).map fun t => { off := 8 + 4 * t, ok := tileOff ws t % 4 == 0 && tileLen ws t % 4 == 0 }) ++
  [{ off := 44, ok := dataOff ws % 4 == 0 && dataLen ws % 4 == 0 },
   { off := 0, ok := iw ws 0 == 0x4E380001 },
   { off := 4, ok := iw ws 4 == size && size % 64 == 0 && decide (size ≤ 32768) },
   { off := 40, ok := fld (iw ws 40) 16 16 == 0x400 },
   { off := 48, ok := iw ws 48 / 2 == 0 }, { off := 52, ok := iw ws 52 == 0 }, { off := 56, ok := iw ws 56 == 0 },
   { off := 60, ok := iw ws 60 == 0 }] ++ regionChecks size [] (imgRegions ws)

/-! ### What stands in a station -/

/-- What the loader reads in a slot (R79): a node or why it is none, with the number of slots it takes. -/
def scanWords : Nat → List Word → List (Nat × Except DecodeError Instr)
  | _, [] => []
  | k, w :: ws =>
    if w = 0 then scanWords (k + 1) ws
    else
      let here := match decode (w :: ws.take 1) with
        | .ok (i, _) => Except.ok i
        | .error e => .error e
      (k, here) :: (if w.getLsbD 22 then
          match ws with
          | [] => []
          | _ :: ws' => scanWords (k + 2) ws'
        else scanWords (k + 1) ws)

/-- A slot whose word is no node that the table gives (R94 to R96): that word fails itself, and no other fails for its sake. -/
def Block.unread (b : Block) (slot : Nat) : Bool :=
  (scanWords 0 b.words).any fun p => p.1 == slot && (match p.2 with
    | .ok _ => false
    | .error _ => true)

def Block.broken (b : Block) : Bool :=
  (scanWords 0 b.words).any fun p => match p.2 with
    | .ok _ => false
    | .error _ => true

/-- Units of the stages that a node needs (R254), by bit: PACK, VMUL, MPASS, LNS, TREE, MTX, LOGCOL. -/
def Instr.units (i : Instr) : List Nat :=
  (if i.packed then [0] else []) ++
  (match i with
   | .cvtch .. | .pack .. | .unpack .. | .sround .. | .qnt .. | .dqnt .. => [0]
   | .mul .. | .mulh .. | .mad .. | .fmul .. | .ffma .. => [1]
   | .dot .. => [1, 4]
   | .frcpe .. | .frsqe .. | .fexp2e .. | .flog2e .. => [2]
   | .lmul .. | .lacc .. | .lcvt .. => [3]
   | .rsum .. | .rmax .. | .rmin .. | .scan .. => [4]
   | _ => [])

/-- What a station check looks at: the image, the tile, the block and its header's offset. -/
structure Site where
  ws : List Word
  t : Tile
  n : Nat
  b : Block
  off : Nat
  routes : List Route
  rings : List (Nat × Ring)
  mtiles : List MTile

def Site.at_ (x : Site) (slot : Nat) : Option (Nat × Nat) := some (x.n, posOf x.b.n slot)
def Site.node (x : Site) (slot : Nat) (ok : Bool) : Chk := { off := x.off + 4 + 4 * slot, at_ := x.at_ slot, ok := ok }
/-- A check on a node's extension word, or on its own word where it has none. -/
def Site.ext (x : Site) (slot : Nat) (i : Instr) (ok : Bool) : Chk :=
  if (encode i).length = 2 then x.node (slot + 1) ok else x.node slot ok

def Site.reads (x : Site) (slot : Nat) (i : Instr) : List Port := x.t.reads x.b.n slot i

/-- The channel of a target and its route. -/
def Site.chanRoute (x : Site) (c : BitVec 5) : Option (OutChan × Route) :=
  (Tbl.get c.toNat x.t.outCh).map fun o => (o, nthD {} x.routes o.route)

/-- A port that a target may name (R21, R85): one that the node reads, and no porter's R (R175). -/
def portNamable (d : Instr) (p : Port) : Bool :=
  ((d.rawReads.contains p && d.isel.port != some p) || (p == .Q && d.guarded)) &&
    (match d with
     | .porter _ => p != .R
     | _ => true)

/-- A target of a node (R20, R21, R85, R264). -/
def Site.targetOk (x : Site) (i : Instr) (second : Bool) (tg : Target) : Bool :=
  match tg with
  | .none => true
  | .port sl p =>
    (match Tbl.get sl.toNat x.b.nodes with
     | none => x.b.unread sl.toNat
     | some d => portNamable d p && arcOk (i.outShape second) (d.readShape p))
  | .chan c =>
    (match x.chanRoute c with
     | none => false
     | some (o, r) =>
       (o.shape == i.outShape second || (match i with
         | .mdrain .. => o.shape == .packed
         | _ => false)) &&
         (match i with
          | .mdrain .. => r.kind == .steer
          | .raise .. => r.kind == .handler
          | _ => r.kind != .handler && r.kind != .steer))

/-- The return target of a spawn (R170, R175). -/
def Site.returnOk (x : Site) (tg : Target) : Bool :=
  match tg with
  | .none => false
  | .port sl p => x.b.unread sl.toNat || (Tbl.get sl.toNat x.b.nodes).any (portNamable · p)
  | .chan c => (x.chanRoute c).any fun q => q.2.kind != .handler && q.2.kind != .steer

/-- An answer channel of a porter: enabled, of the porter's shape (R20), its route no HANDLER and no STEER route (R264). -/
def Site.answerOk (x : Site) (i : Instr) (k : Nat) : Bool :=
  match Tbl.get k x.t.outCh with
  | none => false
  | some o =>
    let r := nthD {} x.routes o.route
    o.shape == i.outShape true && r.kind != .handler && r.kind != .steer

/-- Arcs of a porter (R175): the request channels name its port R, the answer channels are enabled. -/
def Site.porterOk (x : Site) (slot : Nat) (g : GNode) : Bool :=
  let n := g.imm / 32 % 8 + 1
  let base := g.imm % 32
  (List.range n).all (fun k => (Tbl.get (base + k) x.t.inCh).any fun c => c.dblk == x.b.n && c.dslot == slot && c.dport == .R) &&
    x.t.inCh.all (fun (c, e) => !(e.dblk == x.b.n && e.dslot == slot && e.dport == .R) || (decide (base ≤ c) && decide (c < base + n))) &&
    (match g.t1 with
     | .chan o => decide (o.toNat + n ≤ 32) && (List.range n).all fun k => x.answerOk (.porter g) (o.toNat + k)
     | _ => false)

/-! ### Packed nodes (R61) -/

/-- The formats in which tokens reach a packed port: of its channels, and of the producers in its block. -/
def portFmts (t : Tile) (b : Block) : Nat → Nat → Port → List Nat
  | 0, _, _ => []
  | n + 1, slot, p =>
    (t.inCh.filterMap fun (_, c) => if c.dblk = b.n ∧ c.dslot = slot ∧ c.dport = p ∧ c.shape = .packed then some c.fmt else none) ++
      b.nodes.flatMap fun (k, i) =>
        let hits : Bool := [i.t0, i.t1].any fun x => match x with
          | .port sl q => sl.toNat == slot && q == p
          | _ => false
        if i.packed && hits then
          match ([Port.L, .R, .Q].filter fun q => (t.reads b.n k i).contains q).head? with
          | some q => portFmts t b n k q
          | none => []
        else []

def Site.packedOk (x : Site) (slot : Nat) (i : Instr) : Bool :=
  if !i.packed then true
  else
    let counts := (x.reads slot i).map fun p => (portFmts x.t x.b 64 slot p).map fmtK
    let all := counts.flatten
    let n := (counts.find? fun c => !c.isEmpty).bind List.head?
    all.all (fun k => some k == n) &&
      [i.t0, i.t1].all fun tg => match tg with
        | .chan c => (x.chanRoute c).all fun q => decide (n.getD 0 ≤ fmtK q.1.fmt)
        | _ => true

/-! ### Rings (R93, R226, R227, R230, R235) -/

/-- Class of a ring format: float, integer, logarithmic; none for cv32, q16_16 and reserved codes. -/
def ringClass (f : Nat) : Option AccTy :=
  if f ≤ 5 then some .f32 else if f ≤ 13 then some .i32 else if f = 14 then some .q16 else none

def Site.mmaOk (x : Site) (xx : XX) (acc : AccTy) : Bool :=
  match Tbl.get xx.ra.toNat x.rings, Tbl.get xx.rb.toNat x.rings with
  | some a, some b => ringClass a.fmt == some acc && ringClass b.fmt == some acc
  | _, _ => false

/-- Bits of the stage-control word that a node may not do without (R254). -/
def Site.unitsOk (x : Site) (i : Instr) : Bool :=
  let on (k : Nat) : Bool := x.t.stageCtl.getLsbD k
  (Instr.units i).all on &&
    (match i with
     | .mma _ _ _ acc => if acc = .q16 then on 6 else on 5
     | .mzero .. | .mdrain .. => on 5 || on 6
     | _ => true)

def Site.declared (x : Site) (k : Nat) : Bool := (Tbl.get k x.rings).isSome
def Site.spaccRole (x : Site) (m : Nat) : Bool := (nthD {} x.mtiles m).role == .spacc

/-! ### Chains (R91) -/

/-- Chained nodes of a block by slot (R91). -/
def Block.chained (b : Block) : List (Nat × MNode) :=
  b.nodes.filterMap fun (k, i) => i.mnode.bind fun m => if m.xm.pred = 62 then none else some (k, m)

/-- Where the chained nodes of a block have not exactly one head and one tail, each of them fails, so the first one is named (log entry
25). -/
def Site.chainOk (x : Site) (slot : Nat) (m : MNode) : Bool :=
  if m.xm.pred = 62 then m.xm.succ == 62
  else
    let ch := x.b.chained
    let one (n : Nat) : Bool := n == 1 || (n == 0 && x.b.broken)
    hdrOrdm x.b.hdr && slot != 62 &&
      one (ch.filter fun c => c.2.xm.pred == 63).length && one (ch.filter fun c => c.2.xm.succ == 63).length &&
      (m.xm.pred == 63 || (decide (m.xm.pred.toNat < slot) &&
        (x.b.unread m.xm.pred.toNat || ch.any fun c => c.1 == m.xm.pred.toNat && c.2.xm.succ.toNat == slot))) &&
      (m.xm.succ == 63 || (decide (slot < m.xm.succ.toNat) &&
        (x.b.unread m.xm.succ.toNat || ch.any fun c => c.1 == m.xm.succ.toNat && c.2.xm.pred.toNat == slot)))

/-! ### One node -/

def hdrInit (h : Word) : Bool := hdrKind h == 3 || hdrKind h == 4

/-- What the rest of the page asks of a node: on its own word, and on its extension word. -/
def Site.placeOk (x : Site) (slot : Nat) (i : Instr) : Bool × Bool :=
  match i with
  | .carry .. => (hdrDepth x.b.hdr != 0, true)
  | .spawn g _ => (hdrColr x.b.hdr, x.returnOk (spawnTarget g))
  | .ret .. => (hdrColr x.b.hdr, true)
  | .halt .. | .chk .. => (!hdrInit x.b.hdr, true)
  | .csr _ op => (op != .rd || !(x.reads slot i).contains .Q, true)
  | .porter g => (true, x.porterOk slot g)
  | .mma xx _ _ acc => (true, x.mmaOk xx acc)
  | .rpush g | .ringst g _ => (true, x.declared (g.imm % 16))
  | .spacc g | .spflush g _ => (true, x.spaccRole (g.xmod % 8))
  | _ => (true, true)

/-- Every read port of the node has count 15 (R30). -/
def Site.allSticky (x : Site) (slot : Nat) (i : Instr) : Bool :=
  let ps := x.reads slot i
  !ps.isEmpty && ps.all fun p => i.sticky p == 15

/-- The checks of a node's own word and of its extension word. -/
def Site.wordChecks (x : Site) (slot : Nat) (i : Instr) : List Chk :=
  let (a, b) := x.placeOk slot i
  [x.node slot (i.nodeWordOk && a && x.unitsOk i && x.targetOk i false i.t0 && x.targetOk i true i.t1 && x.packedOk slot i),
   x.ext slot i (i.extWordOk && b && !x.allSticky slot i && (i.mnode.all fun m => x.chainOk slot m))]

/-- A word read as a node: of one whose extension word alone is at fault, its own word is checked as well. -/
def Site.nodeChecks (x : Site) (slot : Nat) (r : Except DecodeError Instr) : List Chk :=
  match r with
  | .error .reservedScope =>
    (match Tbl.get slot x.b.nodes with
     | some i => x.wordChecks slot i
     | none => []) ++ [x.node (slot + 1) false]
  | .error _ => [x.node slot false]
  | .ok i => x.wordChecks slot i

/-- A block's header (R78) and its nodes. -/
def Site.checks (x : Site) : List Chk :=
  let h := x.b.hdr
  { off := x.off, at_ := some (x.n, posOf x.b.n 63),
    ok := decide (hdrKind h ≤ 4) && (hdrPri h == 0 || hdrKind h == 1) && (!hdrColr h || hdrDepth h != 0) && bits h 0 12 == 0 }
    :: (scanWords 0 (slotWords x.ws x.off x.b.words.length)).flatMap fun p => x.nodeChecks p.1 p.2

/-! ### Nodes that must differ -/

/-- mma nodes of one tile that share an accumulator agree on its type (R232); of two that do not, the later fails (log entry 25). -/
def accOk (ns : List (Nat × Instr)) (i : Instr) (before : Nat) : Bool :=
  match i with
  | .mma x _ _ a => (ns.take before).all fun p => match p.2 with
      | .mma y _ _ b => (x.accmask &&& y.accmask) == 0 || a == b
      | _ => true
  | _ => true

/-- A ring has one rpush (R226); of two, the later fails (log entry 25). -/
def pushOk (before : List Instr) (i : Instr) : Bool :=
  match i with
  | .rpush g => before.all fun j => match j with
      | .rpush h => h.imm % 16 != g.imm % 16
      | _ => true
  | _ => true

/-! ### Channels (R53, R57, R259 to R261, R264) -/

def fmtOk (shape fmt scx : Nat) (pack : Bool) : Bool :=
  decide (fmt ≤ 16) && (if shape = 2 then decide (fmt ≤ 13) && pack else scx == 0)

/-- R261: an input channel has at most one sender: a LOCAL route entry (named by output channels or by steering sets), an edge, or
its handler entries together. A channel of a float tile has none but the split of its home channel, a porter's request channel none but a
route. -/
def sendersOk (ws : List Word) (fed : List (Nat × Nat)) (tile : Tile) (t ch : Nat) : Bool :=
  let routes := ((readRoutes ws).filter fun r => r.kind == .loc && r.tile == t && r.ch == ch).length
  let edges := (fed.filter fun e => e == (t, ch)).length
  let handlers := if (readHandlers ws).any fun h => h.st == .armed && h.tile == t && h.argch == ch then 1 else 0
  let arc := (Tbl.get ch tile.inCh).any fun c => c.dport == .R && (match tile.instrAt c.dblk c.dslot with
    | some (.porter _) => true
    | _ => false)
  decide (routes + edges + handlers ≤ (if (readFloats ws).any fun f => f.tile == t then 0 else 1)) && !(arc && decide (1 ≤ edges + handlers))

/-- An input channel's entry; cut lists the blocks whose words are not to be had, of which nothing is asked (R97). -/
def inChanOk (cut : List Nat) (t : Tile) (e : Nat) (one : Bool) : Bool :=
  let c := InChan.ofEntry e
  if fld e 0 2 = 3 then fld e 0 32 == 3
  else
    fld e 21 10 == 0 && fld e 19 2 != 0 && fmtOk (fld e 0 2) c.fmt c.scx (t.stageCtl.getLsbD 0) && one &&
      (match t.block c.dblk with
       | none => cut.contains c.dblk
       | some b =>
         c.static == (hdrDepth b.hdr == 0) &&
           (match Tbl.get c.dslot b.nodes with
            | none => b.unread c.dslot
            | some d => ((d.rawReads.contains c.dport && d.isel.port != some c.dport) || (c.dport == .Q && d.guarded)) &&
                arcOk c.shape (d.readShape c.dport)))

/-- The channel is the T0 channel of an mdrain and of nothing else. -/
def mdrainOnly (cut : List Nat) (t : Tile) (ch : Nat) : Bool :=
  let uses := t.allNodes.filter fun (_, _, i) => (allTargets i).any fun x => match x with
    | .chan c => c.toNat == ch
    | _ => false
  (!uses.isEmpty || t.blocks.any Block.broken || !cut.isEmpty) && uses.all fun (_, _, i) => match i with
    | .mdrain .. => true
    | _ => false

def outChanOk (cut : List Nat) (t : Tile) (routes : List Route) (ch e : Nat) : Bool :=
  let c := OutChan.ofEntry e
  if fld e 0 2 = 3 then fld e 0 32 == 3
  else
    let r := nthD {} routes c.route
    fld e 18 14 == 0 && fmtOk (fld e 0 2) c.fmt c.scx (t.stageCtl.getLsbD 0) && r.kind != .none && (!c.split || r.kind == .loc) &&
      (r.kind != .steer || mdrainOnly cut t ch)

/-! ### Prime records (R258) -/

/-- The checks of one prime record against its channel; used of argument records too (R336, R337). -/
def primeOk (t : Tile) (p : PrimeImg) : Bool × Bool × Bool × Bool :=
  let tag := Tag.ofNat p.tagBits
  let end_ := tag.any fun g => g.kind == .fin
  (fld p.w0 6 26 == 0 && (match Tbl.get p.ch t.inCh with
      | none => false
      | some c => if end_ then !p.vec else p.vec == (c.shape != .word)),
   (match tag with
    | some _ => true
    | none => decide (fld p.w1 29 3 / 2 ^ fld p.w1 26 3 = 0)),
   fld p.w2 8 24 == 0 && (match tag with
    | some g => g.kind != .ctrl
    | none => decide (fld p.w1 29 3 / 2 ^ fld p.w1 26 3 ≠ 0)),
   !end_ || (match p.pay with
    | [w] => decide (1 ≤ w.toNat) && decide (w.toNat ≤ 7)
    | _ => false))

def primeChecks (t : Tile) (ps : List PrimeImg) : List Chk :=
  ps.zipIdx.flatMap fun (p, k) =>
    let (a, b, c, d) := primeOk t p
    [{ off := p.off, ok := a && decide (((ps.take k).filter fun q => q.ch == p.ch).length < 16) },
     { off := p.off + 4, ok := b }, { off := p.off + 8, ok := c || !b }, { off := p.off + 12, ok := d }]

/-! ### A tile segment -/

/-- Bits [63:32] of an entry that must be zero: the word they stand in fails (R97). -/
def highZero (ws : List Word) (off : Nat) : Chk := { off := off + 4, ok := iw ws (off + 4) == 0 }

def tileChecks (ws : List Word) (fed : List (Nat × Nat)) (data : Nat → Nat → List Byte) (s : TileImg) : List Chk :=
  let t := s.tile ws
  let cut := s.cut ws
  let routes := readRoutes ws
  let sites := s.blocks.map fun b => Site.mk ws t s.t b.blk b.off routes (readRings ws) (readMTiles ws)
  let nodes := sites.flatMap fun x => x.b.nodes.map fun p => (x, p)
  [{ off := s.off, ok := fld (iw ws s.off) 4 4 == 0 && fld (iw ws s.off) 16 16 == 0 },
   { off := s.off + 4, ok := crc32 (data (s.off + 8) (s.len - 8)) == BitVec.ofNat 32 (iw ws (s.off + 4)) },
   { off := s.off + 8, ok := fld (iw ws (s.off + 8)) 7 25 == 0 }, { off := s.off + 12, ok := iw ws (s.off + 12) == 0 }] ++
  ((List.range 16).map fun k => { off := s.off + 16 + 4 * k, ok := fld (iw ws (s.off + 16 + 4 * k)) 16 16 == 0 }) ++
  ((List.range 32).flatMap fun c =>
    [{ off := inOff s.off c, ok := inChanOk cut t (idw ws (inOff s.off c)) (sendersOk ws fed t s.t c) },
     highZero ws (inOff s.off c)]) ++
  ((List.range 32).flatMap fun c =>
    [{ off := outOff s.off c, ok := outChanOk cut t routes c (idw ws (outOff s.off c)) }, highZero ws (outOff s.off c)]) ++
  sites.flatMap Site.checks ++
  (nodes.zipIdx.map fun ((x, p), k) => x.ext p.1 p.2 (accOk (nodes.map fun q => q.2) p.2 k)) ++
  (match s.past with
   | some h => [{ off := h, at_ := some (s.t, posOf (cut.headD 0) 63), ok := false }]
   | none => []) ++
  primeChecks t s.primes

/-! ### Billet section -/

def routeOk (ts : List Tile) (e : Nat) : Bool :=
  let r := Route.ofNat e
  let zero (m : Nat) : Bool := e &&& m == 0
  (match fld e 0 3 with
   | 0 => fld e 0 32 == 0
   | 1 => zero 0xFFFFF800 && (Tbl.get r.ch (nthD {} ts r.tile).inCh).isSome
   | 2 => zero 0xFF8007F8
   | 3 => zero 0xFC7FFFF8
   | 4 => zero 0x038007F8 && (r.remote || r.edge == 0) && decide (2 ≤ r.entry) && decide (r.entry ≤ 30)
   | _ => false)

/-- Members lo to lo + 3 of a steering set: those beyond its count are zero, the others name LOCAL or EDGE routes. -/
def membersOk (routes : List Route) (e lo : Nat) : Bool :=
  (List.range 4).all fun j =>
    let q := fld e (8 + 6 * (lo + j)) 6
    if lo + j > fld e 0 3 then q == 0
    else
      let k := (nthD {} routes q : Route).kind
      k == .loc || k == .edge

/-- A steering set's two words; members 4 to 7 stand in the second. A set of zeros that no STEER route names is no set: every page
without steering sets has eight of them. -/
def steerOk (routes : List Route) (k e : Nat) : Bool × Bool :=
  let used := routes.any fun r => r.kind == .steer && r.set == k
  if e = 0 && !used then (true, true) else (fld e 3 5 == 0 && membersOk routes e 0, fld e 56 8 == 0 && membersOk routes e 4)

/-- Places of a ring in its M-tile, in KiB. -/
def ringsApart (a b : Ring) : Bool := a.mtile != b.mtile || decide (a.base + a.slots ≤ b.base) || decide (b.base + b.slots ≤ a.base)

/-- A ring descriptor; of two rings that overlap, the later fails (log entry 25). -/
def ringOk (ws : List Word) (k : Nat) : Bool :=
  let e := iw ws (ringOff ws k)
  if fld (ringMask ws) k 1 = 0 then e == 0
  else
    let r := Ring.ofNat e
    decide (r.fmt ≤ 16) && (nthD {} (readMTiles ws) r.mtile).role == .addr &&
      ((readRings ws).filter fun q => decide (q.1 < k)).all fun q => ringsApart r q.2

def roleOk (ws : List Word) (k : Nat) : Bool :=
  let e := iw ws (roleOff ws k)
  let m := MTile.ofNat e
  fld e 11 21 == 0 && (!m.ord || m.role == .addr || m.role == .spacc) && (m.role == .fifo || fld e 3 8 == 0) &&
    (m.role != .fifo ||
      ((match Tbl.get m.ch (nthD {} (imgTiles ws) m.tile).outCh with
        | none => false
        | some c => !c.split && (match (nthD {} (readRoutes ws) c.route : Route).kind with
          | .steer | .handler => false
          | _ => true)) &&
       (((readMTiles ws).take k).all fun q => !(q.role == .fifo && q.tile == m.tile && q.ch == m.ch))))

/-- A window entry's two words (R263). -/
def windowOk (e : Nat) : Bool × Bool :=
  if e % 2 = 0 then (fld e 0 32 == 0, fld e 32 32 == 0) else (fld e 1 31 == 0, fld e 32 6 == 63)

/-- A handler entry; of a block whose words are not to be had only its number is asked (R97). -/
def handlerOk (ts : List Tile) (cuts : List (List Nat)) (k e : Nat) : Bool :=
  let h := Handler.ofNat e
  decide (fld e 0 2 ≤ 1) && fld e 3 1 == 0 && fld e 16 16 == 0 &&
    (h.st != .armed ||
      (match (nthD {} ts h.tile).block h.block, Tbl.get h.argch (nthD {} ts h.tile).inCh with
       | some b, some c => c.shape == .word && c.dblk == h.block &&
           (if k = 0 then hdrKind b.hdr == 2 else hdrKind b.hdr == 1 && hdrPri b.hdr == h.pri)
       | none, some c => (nthD [] cuts h.tile).contains h.block && c.shape == .word && c.dblk == h.block
       | _, none => false))

/-- A channel's destination block is of a stage, or its words are not to be had. -/
def Tile.chanStage (t : Tile) (cut : List Nat) (ch stage : Nat) : Bool :=
  (Tbl.get ch t.inCh).any fun c => match t.block c.dblk with
    | some b => hdrStage b.hdr == stage
    | none => cut.contains c.dblk

/-- A stage entry's two words; channels 24 to 31 of INMASK stand in the second. -/
def stageOk (ts : List Tile) (cuts : List (List Nat)) (k e : Nat) : Bool × Bool :=
  let fed (m lo : Nat) : Bool := e % 2 == 0 || (maskList m 32).all fun c => (nthD {} ts (fld e 1 3)).chanStage (nthD [] cuts (fld e 1 3)) (lo + c) k
  (fld e 4 4 == 0 && fed (fld e 8 24) 0, fld e 40 24 == 0 && fed (fld e 32 8) 24)

/-! ### Float tiles (R276, R277) -/

/-- Channels that deliver to a block, and channels its nodes send to. -/
def Tile.blockIn (t : Tile) (n : Nat) : List Nat := (t.inCh.filter fun p => p.2.dblk == n).map Prod.fst
def Tile.blockOut (_ : Tile) (b : Block) : List Nat :=
  b.nodes.flatMap fun (_, i) =>
    let answers : List Nat := match i with
      | .porter g => (match g.t1 with
        | .chan o => (List.range (g.imm / 32 % 8 + 1)).map (o.toNat + ·)
        | _ => [])
      | _ => []
    answers ++ (allTargets i).filterMap fun x => match x with
      | .chan c => some c.toNat
      | _ => none

/-- The float tile holds copies of the home blocks of its stages, their channels, and nothing else. -/
def floatCopies (home : Stage → Tile) (f : Tile) (ss : List Stage) : Bool :=
  let blks := ss.flatMap fun s => ((home s).blocks.filter fun b => hdrStage b.hdr == s.n).map fun b => (home s, b)
  f.blocks.length == blks.length &&
    (blks.all fun (h, b) => f.block b.n == some b &&
      ((h.blockIn b.n).all fun c => Tbl.get c f.inCh == Tbl.get c h.inCh) &&
      (h.blockOut b).all fun c => Tbl.get c f.outCh == Tbl.get c h.outCh) &&
    (f.inCh.all fun p => blks.any fun (h, b) => (h.blockIn b.n).contains p.1) &&
    f.outCh.all fun p => blks.any fun (h, b) => (h.blockOut b).contains p.1

/-- The output channels of a page that a LOCAL route or a steering set takes to an input channel. -/
def feeders (ts : List Tile) (routes : List Route) (steer : List (List Nat)) (t ch : Nat) : List OutChan :=
  let hit (r : Route) : Bool := r.kind == .loc && r.tile == t && r.ch == ch
  (ts.flatMap fun x => x.outCh.map Prod.snd).filter fun o =>
    let r := nthD {} routes o.route
    hit r || (r.kind == .steer && (nthD [] steer r.set).any fun k => hit (nthD {} routes k))

/-- R277: in every tile but the float tiles, the blocks of a stage are fed through INMASK alone, by split channels, and have no sticky
port fed by a channel. -/
def stageFed (ws : List Word) (ts : List Tile) (floats : List Nat) (s : Stage) : Bool :=
  ts.zipIdx.all fun (h, t) => floats.contains t || (h.blocks.filter fun b => hdrStage b.hdr == s.n).all fun b =>
    (h.blockIn b.n).all fun c => t == s.home && s.mask.contains c &&
      (let fs := feeders ts (readRoutes ws) (readSteer ws) t c
       !fs.isEmpty && fs.all OutChan.split) &&
      (Tbl.get c h.inCh).all fun e => (Tbl.get e.dslot b.nodes).all fun i => i.sticky e.dport == 0

/-- Valid float declarations: the tile and the stages of each. -/
def floatDecls (ws : List Word) : List (Nat × Nat × List Nat) :=
  (List.range 2).filterMap fun k =>
    let e := iw ws (floatOff ws k)
    if e % 2 = 1 then some (k, fld e 1 3, maskList (fld e 8 16) 16) else none

/-- A float declaration. What its tile copies and how its stages are fed is asked of tiles whose words are all nodes that the table
gives: a word that is none fails itself (R97). -/
def floatOk (ws : List Word) (cuts : List (List Nat)) (k e : Nat) : Bool :=
  let ts := imgTiles ws
  let ss := readStages ws
  let want := maskList (fld e 8 16) 16
  let mine := ss.filter fun s => want.contains s.n
  let tile := fld e 1 3
  let decls := floatDecls ws
  fld e 4 4 == 0 && fld e 24 8 == 0 &&
    (e % 2 == 0 ||
      (decide (1 ≤ want.length) && decide (want.length ≤ 4) && mine.length == want.length &&
        (decls.all fun d => (d.1 == k || d.2.1 != tile) && (ss.filter fun s => d.2.2.contains s.n).all fun s => s.home != tile) &&
        (mine.all fun s => decls.all fun d => d.2.1 != s.home) &&
        fld (iw ws (tileOff ws tile)) 8 8 == 0 &&
        (cuts.any (fun c => !c.isEmpty) || ts.any (fun t => t.blocks.any Block.broken) ||
          (floatCopies (fun s => nthD {} ts s.home) (nthD {} ts tile) mine &&
            mine.all fun s => stageFed ws ts (decls.map fun d => d.2.1) s))))

def billetChecks (ws : List Word) : List Chk :=
  let b := billetOff ws
  let ts := imgTiles ws
  let cuts := (List.range 8).map (cutOf ws)
  let rs := readRoutes ws
  let two (off : Nat) (p : Bool × Bool) : List Chk := [{ off := off, ok := p.1 }, { off := off + 4, ok := p.2 }]
  ((List.range 64).flatMap fun k => [{ off := routeOff ws k, ok := routeOk ts (idw ws (routeOff ws k)) }, highZero ws (routeOff ws k)]) ++
  ((List.range 8).flatMap fun k => two (steerOff ws k) (steerOk rs k (idw ws (steerOff ws k)))) ++
  ((List.range 16).map fun k => { off := ringOff ws k, ok := ringOk ws k }) ++
  ((List.range 8).map fun k => { off := roleOff ws k, ok := roleOk ws k }) ++
  ((List.range 8).flatMap fun k => two (windowOff ws k) (windowOk (idw ws (windowOff ws k)))) ++
  ((List.range 32).map fun k => { off := handlerOff ws k, ok := handlerOk ts cuts k (iw ws (handlerOff ws k)) }) ++
  ((List.range 16).flatMap fun k => two (stageOff ws k) (stageOk ts cuts k (idw ws (stageOff ws k)))) ++
  ((List.range 2).map fun k => { off := floatOff ws k, ok := floatOk ws cuts k (iw ws (floatOff ws k)) }) ++
  [{ off := b + 0x3F0, ok := fld (ringMask ws) 16 16 == 0 }] ++
  (List.range 3).map fun k => { off := b + 0x3F4 + 4 * k, ok := iw ws (b + 0x3F4 + 4 * k) == 0 }

/-! ### Data segment -/

def dataChecks (ws : List Word) : List Chk :=
  let (rs, bad) := dataRecs ws
  let ms := readMTiles ws
  (rs.zipIdx.map fun (r, k) =>
    { off := r.off, ok := (nthD {} ms r.m).role == .addr &&
        (rs.take k).all fun q => q.m != r.m || decide (q.at_ + q.len ≤ r.at_) || decide (r.at_ + r.len ≤ q.at_) }) ++
  (match bad with
   | some o => [{ off := o, ok := false }]
   | none => [])

/-! ### The whole image -/

/-- rpush nodes over the page, in image order (R226). -/
def pushChecks (ws : List Word) : List Chk :=
  let all := (tileImgs ws).flatMap fun s =>
    let t := s.tile ws
    s.blocks.flatMap fun b => b.blk.nodes.map fun p => (Site.mk ws t s.t b.blk b.off [] [] [], p)
  all.zipIdx.map fun ((x, p), k) => x.ext p.1 p.2 (pushOk ((all.take k).map fun q => q.2.2) p.2)

def imgBytes (img : List Byte) (off n : Nat) : List Byte := (img.drop off).take n

/-- Every load check whose outcome is INVALID_ENCODING, in no order; fed lists the input channels that edges end in, once an edge. What
stands behind a header that fails has no place to be read from, and every word there comes later in the image. -/
def imgChecks (fed : List (Nat × Nat)) (img : List Byte) : List Chk :=
  let ws := wordsOfBytes (img.length / 4) img
  let h := headerChecks ws img.length ++ (tileImgs ws).map fun s => { off := 8 + 4 * s.t, ok := s.ends }
  if h.all Chk.ok then
    h ++ (tileImgs ws).flatMap (tileChecks ws fed (imgBytes img)) ++ billetChecks ws ++ dataChecks ws ++ pushChecks ws
  else h

/-- The first failing word in image order (R97); none where the loader accepts the image. -/
def imgRefused (fed : List (Nat × Nat)) (img : List Byte) : Option Chk :=
  ((imgChecks fed img).filter fun c => !c.ok).foldl (fun best c =>
    match best with
    | none => some c
    | some b => if c.off < b.off then some c else some b) none

end Sys2Proof.Machine
end

