-- ==== Sys2Proof/Machine/Control.lean ====
section
/-! DEFINITION. The handler table at run time (08 R271 to R274), the stage balancer and float tiles (R278), C1 (18 R448). Choices and
readings: log entries 50, 52, 66. -/

namespace Sys2Proof.Machine

/-! ### CTRL tokens (R272) -/

/-- A token has its place: the HANDLER route that carried it may send again (R273). -/
def State.ctrlAccepted (s : State) (src : Option (TileAddr × Nat)) : State :=
  match src with
  | none => s
  | some (a, ch) => s.modTile a fun t => match Tbl.get ch t.outCh with
      | none => t
      | some c => { t with outCh := Tbl.put ch { c with ctrlOut := false } t.outCh }

/-- An entry's pending slot takes a token. -/
def Billet.setPend (x : Billet) (e : Nat) (t : Option Token) : Billet :=
  { x with handlers := modNth (fun (h : Handler) => { h with pend := t, fresh := t.isSome }) e x.handlers }

/-- An arrival takes its entry's pending slot when that is empty and no earlier token for the entry waits, or joins the control
FIFO while that has room (R272). -/
def Billet.arrive (x : Billet) (v : Arrival) : Option Billet :=
  let h : Handler := nthD {} x.handlers v.entry
  if h.pend.isNone && x.ctrl.all (fun p => p.1 != v.entry) then some (x.setPend v.entry (some v.tok))
  else if x.ctrl.length < Config.controlFifo then some { x with ctrl := x.ctrl ++ [(v.entry, v.tok)] }
  else none

/-- The first arrival, in order of arrival, that gets a place; one waits behind earlier arrivals for its own entry only (R272). -/
def Billet.arriveNext (x : Billet) : List Arrival → List Arrival → Option (Billet × Arrival)
  | _, [] => none
  | before, v :: rest =>
    match (if before.any fun w => w.entry == v.entry then none else x.arrive v) with
    | some y => some ({ y with arrivals := before ++ rest }, v)
    | none => x.arriveNext (before ++ [v]) rest

def execCtrlTokenArrive (b : Nat) (s : State) : Answer :=
  .next (if (s.billet b).isFrozen then s
    else match (s.billet b).arriveNext [] (s.billet b).arrivals with
      | none => s
      | some (x, v) => (s.setBillet b x).ctrlAccepted v.src)

/-- The earliest FIFO token whose entry's pending slot is free moves into it (R272). -/
def Billet.advanceCtrl (x : Billet) : Billet :=
  match takeFirst (fun (p : Nat × Token) => (nthD {} x.handlers p.1 : Handler).pend.isNone) x.ctrl with
  | none => x
  | some (p, rest) => { x with ctrl := rest }.setPend p.1 (some p.2)

def execControlFifoAdvance (b : Nat) (s : State) : Answer :=
  .next (if (s.billet b).isFrozen then s else s.modBillet b Billet.advanceCtrl)

/-! ### Firing a handler (R273, R274) -/

/-- The argument channel of an entry has a free queue entry, arguments on their way to it counted. -/
def Billet.argRoom (x : Billet) (h : Handler) : Bool :=
  match Tbl.get h.argch (x.tile h.tile).inCh with
  | none => false
  | some c => decide (c.queue.length + (x.args.filter fun q => q.1 == h.tile && q.2.1 == h.argch).length < Config.queueDepth)

def Billet.handlerReady (x : Billet) (h : Handler) : Bool :=
  h.st == .armed && h.en && h.pend.isSome && !h.fresh && x.argRoom h

/-- The entry that fires: of highest PRI, then lowest number. -/
def Billet.chooseHandler (x : Billet) : Option (Nat × Handler) :=
  (x.handlers.zipIdx.map fun (h, i) => (i, h)).foldl (fun best p =>
    if x.handlerReady p.2 then
      match best with
      | none => some p
      | some q => if p.2.pri > q.2.pri then some p else best
    else best) none

/-- Fires an entry: its token becomes a DATA token on its way to ARGCH, PEND clears. -/
def Billet.fireHandler (x : Billet) : Billet :=
  match x.chooseHandler with
  | none => x
  | some (e, h) =>
    match h.pend with
    | none => x
    | some t =>
      { x.setPend e none with
        handlerFired := true
        args := x.args ++ [(h.tile, h.argch, { t with tag := t.tag.asData })] }

def execHandlerFire (b : Nat) (s : State) : Answer :=
  .next (if s.active b && !(s.billet b).handlerFired then s.modBillet b Billet.fireHandler else s)

/-! ### Stage balancer (R278) -/

/-- The interval of the balancer in fc, and the occupancy above which a float tile helps. -/
def balancePeriod : Nat := 4096
def balanceFloor : Nat := 12

/-- A stage's occupancy over the interval: the largest sum over its INMASK channels. -/
def Billet.stageSum (x : Billet) (st : Stage) : Nat :=
  (st.mask.map fun ch => ((Tbl.get ch (x.tile st.home).inCh).map InChan.occSum).getD 0).foldl max 0

/-- The stage a float tile chooses among its STAGES: of highest occupancy above 12 tokens, the lower stage on a tie. -/
def Billet.chooseStage (x : Billet) (f : Float) (taken : Option Nat) : Option Nat :=
  (f.stages.foldl (fun (best : Option (Nat × Nat)) n =>
    match x.stages.find? fun st => st.n == n with
    | none => best
    | some st =>
      let o := x.stageSum st
      if taken = some n ∨ o ≤ balanceFloor * balancePeriod then best
      else match best with
        | none => some (n, o)
        | some (_, o') => if o > o' then some (n, o) else best) none).map Prod.fst

def Float.aim (f : Float) : Option Nat := f.draining.orElse fun _ => f.stage

/-- A float tile that chooses another stage is DRAINING; with none chosen it keeps its assignment. -/
def Float.choose (f : Float) (c : Option Nat) : Float :=
  match c with
  | none => f
  | some n => if f.stage = some n then { f with draining := none } else { f with draining := some n }

/-- The averages start again. -/
def Billet.clearOcc (x : Billet) : Billet :=
  { x with tiles := x.tiles.map fun t => { t with inCh := t.inCh.map fun (c, y) => (c, { y with occSum := 0 }) } }

def Billet.balance (x : Billet) (now : Nat) : Billet :=
  let fs := x.floats.zipIdx.foldl (fun (fs : List Float) (p : Float × Nat) =>
    let other := (fs[1 - p.2]?).bind Float.aim
    modNth (fun (f : Float) => f.choose (x.chooseStage f (if fs.length > 1 then other else none))) p.2 fs) x.floats
  { x.clearOcc with floats := fs, balanced := now }

def execStageBalancerRun (b : Nat) (s : State) : Answer :=
  .next (if s.active b && decide (s.now b ≥ (s.billet b).balanced + balancePeriod) && !(s.billet b).floats.isEmpty then
    s.modBillet b fun x => x.balance (s.now b) else s)

/-- A float tile holds no token of its old stage in its queues, token store or pipeline, and none is on its way (R278). -/
def State.floatEmpty (s : State) (b tile : Nat) : Bool :=
  let t := s.tile ⟨b, tile⟩
  t.inCh.all (fun p => p.2.queue.isEmpty) && t.store.isEmpty && t.flights.isEmpty && t.rets.isEmpty &&
    s.flits.all fun f => match f.dest with
      | .chan d x _ => !(d == b && x == tile)
      | _ => true

def execFloatTileReassign (b f : Nat) (s : State) : Answer :=
  .next (if s.active b then
    match (s.billet b).floats[f]? with
    | none => s
    | some fl =>
      match fl.draining with
      | none => s
      | some n =>
        if s.floatEmpty b fl.tile then
          s.modBillet b fun x => { x with floats := modNth (fun (y : Float) => { y with stage := some n, draining := none }) f x.floats }
        else s
  else s)

/-! ### C1 (R448) -/

/-- fc without a firing, access or arriving token after which a billet gates its pipelines. -/
def c1Idle : Nat := 64

/-- A node that has begun something it goes on with unasked. -/
def Node.live (n : Node) : Bool :=
  n.eosPending.isSome || n.joinFlushed || n.closing || !n.segs.isEmpty || !n.grants.isEmpty || !n.window.isEmpty ||
    n.drain.isSome || n.flush.isSome

/-- A billet's C-tiles hold something that could go on. -/
def Billet.holdsWork (x : Billet) : Bool :=
  !x.arrivals.isEmpty || !x.args.isEmpty || !x.releases.isEmpty || !x.watches.isEmpty || x.ctxs.any (fun c => !c.queue.isEmpty) ||
    x.handlers.any (fun h => h.st == .armed && h.en && h.pend.isSome) ||
    x.tiles.any fun t => t.inCh.any (fun p => !p.2.queue.isEmpty) || !t.store.isEmpty || !t.flights.isEmpty || !t.pool.isEmpty ||
      !t.port.isEmpty || !t.flying.isEmpty || !t.slots.isEmpty || !t.rets.isEmpty || !t.mpairs.isEmpty || !t.mzeros.isEmpty ||
      t.nodes.any fun n => n.2.live

/-- A caravan holds a token for a qget of the billet (R216). -/
def State.caravanCalls (s : State) (b : Nat) : Bool :=
  (s.billet b).tiles.any fun t => t.allNodes.any fun (_, _, i) => match i with
    | .qget n => (s.caravan? b (n.imm % 256)).any fun c => !c.toks.isEmpty
    | _ => false

def execC1Enter (b : Nat) (s : State) : Answer :=
  .next (if s.active b && decide ((s.billet b).idle ≥ c1Idle) then s.modBillet b fun x => { x with c1 := true } else s)

def execC1Exit (b : Nat) (s : State) : Answer :=
  .next (if (s.billet b).c1 && ((s.billet b).holdsWork || s.caravanCalls b) && s.power == .c0 then s.modBillet b fun x => { x with c1 := false, idle := 0 } else s)

end Sys2Proof.Machine
end

