-- ==== Sys2Proof/Machine/Queues.lean ====
section
/-! DEFINITION. Virtual queues, the residency table and the completion of records (12 R321 to R334, 16 R452). Choices and readings: log
entries 15, 27, 36, 38, 49, 72. -/

namespace Sys2Proof.Machine

/-! ### Records -/

/-- Word k of a record, and a 64-bit pair of words (R327). -/
def Rec.w (x : Rec) (k : Nat) : Nat := (nthD 0 x.words k).toNat
def Rec.d (x : Rec) (k : Nat) : Nat := 2 ^ 32 * x.w (k + 1) + x.w k
def Rec.ty (x : Rec) : Nat := x.w 0 % 256
def Rec.nsucc (x : Rec) : Nat := fld (x.w 0) 16 8
def Rec.cpl (x : Rec) : Bool := fld (x.w 0) 24 1 == 1
def Rec.irq (x : Rec) : Bool := fld (x.w 0) 25 1 == 1
def Rec.failstop (x : Rec) : Bool := fld (x.w 0) 26 1 == 1
/-- Successor field S i. -/
def Rec.succ (x : Rec) (i : Nat) : Nat := fld (x.w (1 + i / 2)) (16 * (i % 2)) 16
def Rec.succs (x : Rec) : List Nat := if x.badSucc then [] else (List.range x.nsucc).map x.succ
/-- Ready (R330): its count is 0 and it has neither started nor an outcome. -/
def Rec.ready (x : Rec) : Bool := decide (x.count = 0) && !x.started && !x.done && x.outcome.isNone
/-- In execution (R326): started and not complete, or about to complete. -/
def Rec.busy (x : Rec) : Bool := !x.done && (x.started || x.outcome.isSome)

def VQueue.slots (q : VQueue) : Nat := 2 ^ q.log2
/-- How many slots a record stands behind HEAD, in the order of submission (R330). -/
def VQueue.age (q : VQueue) (x : Rec) : Nat := (BitVec.ofNat 32 x.sub - q.head).toNat
/-- The record in a slot that has been read and not yet released. -/
def VQueue.recAt (q : VQueue) (slot : Nat) : Option Rec := q.recs.find? fun x => x.slot = slot
/-- Whether the slot has been read since its submission (R331). -/
def VQueue.hasRead (q : VQueue) (slot : Nat) : Bool := (q.recAt slot).isSome

def State.rec? (s : State) (r : RecId) : Option Rec := (s.queue? r.queue).bind fun q => q.recAt r.slot
def State.modRec (s : State) (r : RecId) (f : Rec → Rec) : State :=
  s.modQueue r.queue fun q => { q with recs := q.recs.map fun x => if x.slot = r.slot then f x else x }

/-- The side's Front Desk works: C0, configured from ROM (R5), booted, not ISOLATED, the device in service, no clock step of the side under way
(R446, R450, R436, R432, R428). -/
def State.deskUp (s : State) (side : Nat) : Bool :=
  s.power == .c0 && !s.entering && s.boot == .running && (s.side side).deskSet && !(s.side side).iso && !(s.side 0).dead &&
    (s.side side).stepTo.isNone

/-- The queue stands in its side's residency table as RESIDENT (R324). -/
def State.isResident (s : State) (n : Nat) : Bool :=
  (s.queue? n).any fun q => (s.side q.side).resid.contains (some n, .resident)

/-- Gives a record its status; VFLAGS of records other than LAUNCH follow the status (R333). -/
def State.outcome (s : State) (r : RecId) (st : Status) (detail : Nat) : State :=
  s.recordOutcome r st (if st = .ok then 1 else 0) detail

/-- As outcome, for a LAUNCH that ends before its result descriptor stands: VFLAGS 0 (R403). -/
def State.refuseLaunch (s : State) (r : RecId) (st : Status) (detail : Nat) : State := s.recordOutcome r st 0 detail

/-- A PERMISSION record for a record's own access (R323, R329, R452). -/
def State.permRecord (s : State) (cid : Nat) (r : RecId) (va : Nat) : State :=
  s.writeRecord { cls := clsPermission, cid := cid, detail := inGlobal, addr := va, rslot := r.slot % 65536, queue := r.queue }

/-! ### Notify words and knocks (R323, R325, R438) -/

/-- A queue joins its side's knock log, once. -/
def State.addKnock (s : State) (n side : Nat) : State :=
  (s.modQueue n fun q => { q with knock := true }).modSide side fun d =>
    { d with knocks := if d.knocks.contains n then d.knocks else d.knocks ++ [n] }

/-- Whether a notify value is ignored (R323). -/
def VQueue.ignores (q : VQueue) (v : Word) : Bool := (v - q.tail).msb || decide ((v - q.head).toNat > q.slots)

/-- A function accepts host writes: PCIe is up, and no reset or zeroing of it is in progress (R371, R446). -/
def State.fnUp (s : State) (fn : Nat) : Bool := s.boot == .running && !(s.func fn).resetting

/-- Main or auxiliary power is present (R448). -/
def State.powered (s : State) : Bool := s.power != .d3cold || s.aux

/-- A power state in which notify words can be written (R450). -/
def Power.takesNotify (p : Power) : Bool := p == .c0 || p == .c2 || p == .c3

/-- The queue's context takes work: valid, and no teardown or zeroing of it is in progress (R342, R371). -/
def State.ctxOpen (s : State) (cid : Nat) : Bool := (s.ctx cid).valid && !(s.ctx cid).teardown && !(s.ctx cid).zeroing

/-- An event of R450: the device is to return to C0; during the entry to C3 the wake follows it. -/
def State.askWake (s : State) : State :=
  if s.power == .c2 || s.power == .c3 || s.entering then { s with wakeAsked := true } else s

def execNotifyWrite (fn qn : Nat) (v : Word) (s : State) : Answer :=
  .next (
    let f := s.func fn
    let n := f.qbase + qn
    if !s.fnUp fn || !s.power.takesNotify || qn ≥ f.qcount then s
    else match s.queue? n with
      | none => s
      | some q =>
        if q.ignores v || !s.ctxOpen q.cid then s
        else
          let s := (s.setQueue n { q with tail := v, lastAct := s.ns, notifyNs := s.ns }).askWake
          if s.isResident n && s.power == .c0 then s else s.addKnock n q.side)

/-! ### The residency table (R326) -/

def State.setResid (s : State) (side i : Nat) (e : Option Nat × ResState) : State :=
  s.modSide side fun d => { d with resid := setNth i e d.resid }

/-- A resident queue may be saved: no ready record and none in execution. -/
def VQueue.quiet (q : VQueue) : Bool := q.recs.all fun x => !x.ready && !x.busy

/-- The victim: among quiet RESIDENT queues the one of oldest last activity. -/
def State.victimQueue (s : State) (side : Nat) : Option (Nat × Nat) :=
  ((s.side side).resid.zipIdx.foldl (fun (best : Option (Nat × Nat × Nat)) (p : (Option Nat × ResState) × Nat) =>
    match p.1 with
    | (some n, .resident) =>
      (match s.queue? n with
       | none => best
       | some q =>
         if !q.quiet then best
         else match best with
           | none => some (p.2, n, q.lastAct)
           | some (_, _, t) => if q.lastAct < t then some (p.2, n, q.lastAct) else best)
    | _ => best) none).map fun b => (b.1, b.2.1)

/-- The 512 bytes of a save area: a layout that the spec does not give (log entry 15). -/
def QArea.bytes (a : QArea) : List Byte :=
  (List.range 512).map (Config.saveArea a.head.toNat a.tail.toNat a.read.toNat (a.pend.map fun p => (p.slot, p.count, p.failed)))

def VQueue.area (q : VQueue) : QArea := { head := q.head, tail := q.tail, read := q.read, pend := q.pend }

/-- Saving a queue writes its save area (R326 step 4). -/
def State.saveQueue (s : State) (n : Nat) : State :=
  match s.queue? n with
  | none => s
  | some q =>
    let bytes := q.area.bytes
    let s := (List.range 8).foldl (fun s k =>
      match s.sysWrite q.cid (q.saveVa + 64 * k) ((bytes.drop (64 * k)).take 64) with
      | .ok s => s
      | .error (s, _) => s) s
    s.modQueue n fun q => { q with saved := some q.area }

/-- What a save area means: zeros at a first residency (R326 step 5), then the values that were saved where it still holds their bytes, and
otherwise values that the spec does not give (log entry 15). -/
def readArea (saved : Option QArea) (bs : List Byte) : QArea :=
  match saved with
  | none => {}
  | some a => if a.bytes == bs then a else freeArea bs
where
  freeArea (bs : List Byte) : QArea :=
    let v := Config.loadArea bs
    { head := v.1, tail := v.2.1, read := v.2.2.1, pend := (v.2.2.2.take 64).map fun p => ⟨p.1, p.2.1, p.2.2⟩ }

/-- A queue takes an entry of its side's table with what its save area holds (R326 step 5); the TAIL of its knock is kept (R325). -/
def State.loadQueue (s : State) (n side i : Nat) : State :=
  match s.queue? n with
  | none => s
  | some q =>
    let (bs, s) : List Byte × State := match s.sysReads q.cid q.saveVa false 8 with
      | .ok (bs, s) => (bs, s)
      | .error (s, _) => ([], s)
    let a := readArea q.saved bs
    (s.setResid side i (some n, .resident)).modQueue n fun q => { q with knock := false, head := a.head, read := a.read, pend := a.pend }

/-- A queue leaves the table without saving (R340, R342). -/
def State.leaveTable (s : State) (n : Nat) : State :=
  { s with sides := s.sides.map fun d => { d with
      resid := d.resid.map fun e => if e.1 = some n then (none, .free) else e
      knocks := d.knocks.filter (· ≠ n) } }

def State.serveKnock (s : State) (side n : Nat) : State :=
  let pop (s : State) : State := s.modSide side fun d => { d with knocks := d.knocks.drop 1 }
  if (s.queue? n).isNone then pop s
  else if s.isResident n then (pop s).modQueue n fun q => { q with knock := false }
  else match (s.side side).resid.findIdx? fun e => e.2 == .free with
    | some i => (pop s).loadQueue n side i
    | none =>
      match s.victimQueue side with
      | none => s
      | some (i, v) => (pop (s.saveQueue v)).loadQueue n side i

def execKnockService (side : Nat) (s : State) : Answer :=
  .next (if s.deskUp side then
    match (s.side side).knocks with
    | [] => s
    | n :: _ => s.serveKnock side n
  else s)

/-! ### Reading a slot (R323, R327, R328, R330) -/

/-- Words of a payload that a type leaves reserved, as a mask of words 4 to 15, and a check of its own fields (R329). -/
def payloadOk (s : State) (q : VQueue) (x : Rec) : Bool :=
  let zero (ks : List Nat) : Bool := ks.all fun k => x.w k == 0
  let va (k : Nat) : Bool := fld (x.w (k + 1)) 16 16 == 0
  match x.ty with
  | 1 => va 4 && va 9 && va 11 && decide (x.w 13 < 4) && zero [14, 15]
  | 2 => va 4 && va 6 && decide (1 ≤ x.d 8) && decide (x.d 8 ≤ 2 ^ 40) && decide (x.w 10 < 2) && zero [12, 13, 14, 15]
  | 3 => va 4 && x.w 4 % 8 == 0 && decide (x.w 8 < 3) && zero [9, 10, 11, 12, 13, 14, 15]
  | 4 => va 4 && x.w 4 % 8 == 0 && decide (x.w 10 < 4) && zero [11, 12, 13, 14, 15]
  | 5 => decide (x.w 4 < 2 ^ 14) && ((s.queue? (x.w 4)).any fun o => o.cid == q.cid) && zero [5, 8, 9, 10, 11, 12, 13, 14, 15]
  | 6 => zero [4, 5, 6, 7, 8, 9, 10, 11, 12, 13, 14, 15]
  | 7 | 8 => va 4 && decide (x.w 6 < 2 ^ 9) && zero [7, 8, 9, 10, 11, 12, 13, 14, 15]
  | 9 => zero [6, 7, 8, 9, 10, 11, 12, 13, 14, 15]
  | _ => true

/-- The successor fields pass (R328). -/
def VQueue.succOk (q : VQueue) (x : Rec) : Bool :=
  decide (x.nsucc ≤ 6) &&
    (List.range 6).all fun i => if i < x.nsucc then decide (x.succ i < q.slots) && x.succ i != x.slot else x.succ i == 0

/-- A record as it is read: its count less what pends, and the status of a record that is refused. -/
def State.checkRec (s : State) (q : VQueue) (x : Rec) : Rec :=
  let p : Option Pend := q.pend.find? fun p => p.slot = x.slot
  let pc := (p.map Pend.count).getD 0
  let x : Rec := { x with count := fld (x.w 0) 8 8 - pc, failed := p.any Pend.failed, badSucc := !q.succOk x }
  if x.ty = 0 ∨ 9 < x.ty then { x with outcome := some (.badType, 0, 0) }
  else if x.badSucc || decide (pc > 255) || fld (x.w 0) 27 5 != 0 || !payloadOk s q x then { x with outcome := some (.badRec, 0, 0) }
  else x

/-- What stands for a slot whose walk faults: CPL set, NSUCC 0, FAILSTOP clear (R323). -/
def unreadWords : List Word := (0x01000000 : Word) :: List.replicate 15 0

/-- The record joins those the queue has read. -/
def State.addRec (s : State) (n : Nat) (x : Rec) : State :=
  s.modQueue n fun q => { q with read := q.read + 1, recs := q.recs ++ [x], pend := q.pend.filter fun p => p.slot ≠ x.slot }

def State.readSlot (s : State) (n : Nat) (q : VQueue) : State :=
  let slot := q.read.toNat % q.slots
  let va := q.ringVa + 64 * slot
  let blank : Rec := { slot := slot, sub := q.read.toNat, words := unreadWords, count := 0, failed := false }
  match s.sysRead q.cid va 64 false with
  | .error (s, _) => (s.permRecord q.cid ⟨n, slot⟩ va).addRec n { blank with outcome := some (.permission, 0, 0) }
  | .ok (bs, s) => s.addRec n (s.checkRec q { blank with words := wordsOfBytes 16 bs })

def execSlotRead (q : Nat) (s : State) : Answer :=
  .next (match s.queue? q with
    | none => s
    | some x => if s.deskUp x.side && s.isResident q && x.read != x.tail && s.ctxOpen x.cid then s.readSlot q x else s)

/-! ### Starting a record (R330) -/

/-- A record of a type may act: its queue is RESIDENT and served, it has started or is ready, and no earlier ready record of its
queue has yet to start. -/
def State.mayRun (s : State) (r : RecId) (ty : Nat) : Option (VQueue × Rec) :=
  (s.queue? r.queue).bind fun q => (q.recAt r.slot).bind fun x =>
    if x.ty = ty ∧ s.deskUp q.side = true ∧ s.isResident r.queue = true ∧ s.ctxOpen q.cid = true ∧ x.done = false ∧ x.outcome.isNone = true ∧
        (x.started = true ∨ (x.count = 0 ∧ ∀ y ∈ q.recs, q.age y < q.age x → y.ready = false)) then some (q, x) else none

/-- Starts a record; a failed one does not execute (R332 step 1). -/
def State.runRec (s : State) (r : RecId) (ty : Nat) (f : VQueue → Rec → State) : State :=
  match s.mayRun r ty with
  | none => s
  | some (q, x) => if x.failed then s.outcome r .predFail 0 else f q x

/-! ### Completion (R331 to R333) -/

/-- Records a decrement in a queue; none where it must wait for a free pending entry. -/
def VQueue.decrement (q : VQueue) (slot : Nat) (mark : Bool) : Option VQueue :=
  if q.hasRead slot then
    some { q with recs := q.recs.map fun x =>
      if x.slot = slot ∧ x.done = false then { x with count := x.count - 1, failed := x.failed || mark } else x }
  else if q.pend.any fun p => p.slot = slot then
    some { q with pend := q.pend.map fun p => if p.slot = slot then { p with count := p.count + 1, failed := p.failed || mark } else p }
  else if q.pend.length < 64 then some { q with pend := q.pend ++ [⟨slot, 1, mark⟩] }
  else none

/-- Sends decrements in order; one that finds no entry waits, and those behind it with it. -/
def VQueue.decrements (q : VQueue) (mark : Bool) : List Nat → VQueue
  | [] => q
  | t :: ts =>
    if q.waitDec.isEmpty then
      match q.decrement t mark with
      | some q => q.decrements mark ts
      | none => { q with waitDec := [(t, mark)] }.decrements mark ts
    else { q with waitDec := q.waitDec ++ [(t, mark)] }.decrements mark ts

def execDecrementDeliver (q : Nat) (s : State) : Answer :=
  .next (s.modQueue q fun x =>
    match x.waitDec with
    | [] => x
    | (t, m) :: rest => match x.decrement t m with
      | some y => { y with waitDec := rest }
      | none => x)

def Status.code : Status → Nat
  | .ok => 0 | .badType => 1 | .badRec => 2 | .pageLimit => 3 | .quota => 4 | .predFail => 5 | .fault => 6 | .sideLost => 7
  | .permission => 8 | .invalidEncoding => 9 | .guard => 10

/-- The four words of a completion entry (R333). -/
def VQueue.entryBytes (q : VQueue) (x : Rec) (st : Status) (fl : BitVec 5) (detail ns : Nat) : List Byte :=
  bytesOf 4 (x.slot + st.code * 2 ^ 16 + fl.toNat * 2 ^ 24) ++ bytesOf 8 ns ++ bytesOf 4 (detail % 2 ^ 16 + fld x.sub q.log2 1 * 2 ^ 31)

/-- A device write to a queue's completion area (R452). -/
def State.cplWrite (s : State) (cid : Nat) (r : RecId) (va : Nat) (bs : List Byte) : State :=
  match s.sysWrite cid va bs with
  | .ok s => s
  | .error (s, _) => s.permRecord cid r va

/-- HEAD passes every consecutive completed slot, whose records are then released (R332 step 4). -/
def VQueue.advance : Nat → VQueue → VQueue
  | 0, q => q
  | n + 1, q =>
    match takeFirst (fun (x : Rec) => x.sub == q.head.toNat && x.done) q.recs with
    | none => q
    | some (_, rest) => VQueue.advance n { q with head := q.head + 1, recs := rest }

def VQueue.headerBytes (q : VQueue) : List Byte := bytesOfWord q.head ++ bytesOf 4 0 ++ bytesOf 8 q.ctl.toNat ++ List.replicate 48 0

/-- Steps 2 to 5 of R332. -/
def State.finishRec (s : State) (r : RecId) (q : VQueue) (x : Rec) (st : Status) (fl : BitVec 5) (detail : Nat) : State :=
  let s := if x.cpl then s.cplWrite q.cid r (q.cplVa + 64 + 16 * x.slot) (q.entryBytes x st fl detail s.ns) else s
  let s := s.modQueue r.queue fun q =>
    let q := { q with ctl := q.ctl + 1, lastAct := s.ns, recs := q.recs.map fun y => if y.slot = r.slot then { y with done := true } else y }
    VQueue.advance q.recs.length q
  let s := match s.queue? r.queue with
    | none => s
    | some q => s.cplWrite q.cid r q.cplVa q.headerBytes
  if x.irq then s.sendMsix (s.ctx q.cid).func.toNat q.vec else s

/-- Completes a record that has its status (R332); it stops behind a decrement that waits. -/
def State.completeRec (s : State) (r : RecId) : State :=
  match s.queue? r.queue, s.rec? r with
  | some q, some x =>
    match x.outcome with
    | none => s
    | some (st, fl, detail) =>
      if x.done || !q.waitDec.isEmpty then s
      else
        let s := if x.sent then s else
          (s.modQueue r.queue fun q => q.decrements (x.failstop && st != .ok) x.succs).modRec r fun y => { y with sent := true }
        match s.queue? r.queue with
        | none => s
        | some q => if q.waitDec.isEmpty then s.finishRec r q x st fl detail else s
  | _, _ => s

def execRecordComplete (r : RecId) (s : State) : Answer :=
  .next (match s.queue? r.queue with
    | none => s
    | some q => if s.deskUp q.side && s.isResident r.queue && s.records.all (fun f => f.cid ≠ q.cid) then s.completeRec r else s)

end Sys2Proof.Machine
end

