-- ==== Sys2Proof/Machine/Records.lean ====
section
/-! DEFINITION. Records that act on memory, time or other queues (12 R329): COPY, SIGNAL, WAITMEM, WAITTL, JOIN, EVICT, TIMEGATE. Choices
and readings: log entries 27, 28. -/

namespace Sys2Proof.Machine

/-! ### Accesses of a record -/

/-- The access at an address waits for the driver, with one XLATE record for its granule and context (R329, R416). -/
def State.holdRec (s : State) (cid : Nat) (r : RecId) (va : Nat) (write : Bool) : State :=
  let s := s.modRec r fun x => { x with held := some va, wake := false }
  if (s.ctx cid).xlate.contains (va / 65536) then s
  else (s.modCtx cid fun c => { c with xlate := c.xlate ++ [va / 65536] }).writeRecord
    { cls := clsXlate, cid := cid, detail := if write then 16 else 0, addr := va, rslot := r.slot, queue := r.queue }

/-- A PERMISSION failure: its record, and the record's status; nothing further is written (R329). -/
def State.permRec (s : State) (cid : Nat) (r : RecId) (va : Nat) : State := (s.permRecord cid r va).outcome r .permission 0

/-- The address at which a range of at most 64 bytes fails to translate. -/
def State.failVa (s : State) (cid va n : Nat) : Nat := if (s.walk cid va).isNone then va else va + firstPart va n

/-- What a failed access of a record leads to. -/
def State.recFails (s : State) (cid : Nat) (r : RecId) (va n : Nat) (write : Bool) (e : SysFail) : State :=
  match e with
  | .walk => s.holdRec cid r (s.failVa cid va n) write
  | .perm => s.permRec cid r va
  | .lost => s.outcome r .sideLost 0

/-- A held record acts again once its wake token is there. -/
def Rec.free (x : Rec) : Bool := x.held.isNone || x.wake

/-- The record has started, and its held access is tried. -/
def State.touchRec (s : State) (r : RecId) : State := s.modRec r fun x => { x with started := true, held := none, wake := false }

/-! ### COPY -/

/-- Bytes of a COPY up to the next 64-byte granule of its destination. -/
def copyChunk (dst size done : Nat) : Nat := min (64 - (dst + done) % 64) (size - done)

/-- FILL writes word 11 repeated from the first byte on. -/
def fillBytes (w : Word) (done n : Nat) : List Byte := (List.range n).map fun i => w.extractLsb' (8 * ((done + i) % 4)) 8

/-- The bytes of a granule have been written; the last ones complete the record. -/
def State.copied (s : State) (r : RecId) (x : Rec) (n : Nat) : State :=
  let s := s.modRec r fun y => { y with progress := y.progress + n }
  if x.progress + n = x.d 8 then s.outcome r .ok 0 else s

/-- Writes bytes to the destination granule whose turn it is. -/
def State.copyPut (s : State) (r : RecId) (q : VQueue) (x : Rec) (bs : List Byte) : State :=
  let dst := x.d 6 + x.progress
  let n := copyChunk (x.d 6) (x.d 8) x.progress
  match s.sysWrite q.cid dst bs with
  | .error (s, e) => s.recFails q.cid r dst n true e
  | .ok s => s.copied r x n

/-- Copies one destination granule at system scope. -/
def State.copyStep (s : State) (r : RecId) (q : VQueue) (x : Rec) : State :=
  let src := x.d 4 + x.progress
  let n := copyChunk (x.d 6) (x.d 8) x.progress
  if x.w 10 % 2 = 1 then s.copyPut r q x (fillBytes (nthD 0 x.words 11) x.progress n)
  else match s.sysRead q.cid src n false with
    | .error (s, e) => s.recFails q.cid r src n false e
    | .ok (bs, s) => s.copyPut r q x bs

def execCopyRecord (r : RecId) (s : State) : Answer :=
  .next (s.runRec r 2 fun q x => if x.free then (s.touchRec r).copyStep r q x else s)

/-! ### SIGNAL -/

/-- The value a SIGNAL writes, from the 8 bytes that stand there (R329). -/
def signalBytes (op : Nat) (v old : Nat) : List Byte :=
  if op = 0 then bytesOf 4 v else if op = 1 then bytesOf 8 v else bytesOf 8 (old + v)

def State.signalStep (s : State) (r : RecId) (q : VQueue) (x : Rec) : State :=
  let va := x.d 4
  match (if x.w 8 = 2 then s.sysRead q.cid va 8 false else .ok ([], s)) with
  | .error (s, e) => s.recFails q.cid r va 8 false e
  | .ok (old, s) =>
    match s.sysWrite q.cid va (signalBytes (x.w 8) (x.d 6) (natOf old)) with
    | .error (s, e) => s.recFails q.cid r va 8 true e
    | .ok s => s.outcome r .ok 0

def execSignalRecord (r : RecId) (s : State) : Answer :=
  .next (s.runRec r 3 fun q x => if x.free then (s.touchRec r).signalStep r q x else s)

/-! ### Waits -/

/-- The condition of a WAITMEM on the masked word (R329). -/
def waitCond (c : Nat) (w v : BitVec 64) : Bool :=
  if c = 0 then w == v else if c = 1 then w != v else if c = 2 then !(w - v).msb else w &&& v != 0

/-- Completes a WAITMEM whose condition holds; the read that saw it is an acquire of its Front Desk's side (R295). -/
def State.waitmemRead (s : State) (r : RecId) (side : Nat) (x : Rec) (bs : List Byte) : State :=
  if waitCond (x.w 10) (BitVec.ofNat 64 (natOf bs) &&& BitVec.ofNat 64 (x.d 8)) (BitVec.ofNat 64 (x.d 6)) then
    (s.acquireSide side).outcome r .ok 0
  else s

def State.waitmemStep (s : State) (r : RecId) (q : VQueue) (x : Rec) : State :=
  match s.sysRead q.cid (x.d 4) 8 false with
  | .error (s, e) => s.recFails q.cid r (x.d 4) 8 false e
  | .ok (bs, s) => s.waitmemRead r q.side x bs

def execWaitmem (r : RecId) (s : State) : Answer :=
  .next (s.runRec r 4 fun q x => if x.free then (s.touchRec r).waitmemStep r q x else s)

def execWaittl (r : RecId) (s : State) : Answer :=
  .next (s.runRec r 5 fun q x =>
    let s := s.touchRec r
    match s.queue? (x.w 4) with
    | none => s
    | some o => if (o.ctl - BitVec.ofNat 64 (x.d 6)).msb then s else (s.acquireSide q.side).outcome r .ok 0)

def execJoinRecord (r : RecId) (s : State) : Answer := .next (s.runRec r 6 fun _ _ => (s.touchRec r).outcome r .ok 0)

def execTimegate (r : RecId) (s : State) : Answer :=
  .next (s.runRec r 9 fun _ x => if x.d 4 ≤ s.ns then (s.touchRec r).outcome r .ok 0 else s.touchRec r)

/-! ### EVICT -/

/-- A page that a running launch pins, or a PAGEIN record holds, is no victim (R344, R329). -/
def Launch.pinnedPage (l : Launch) (k : Nat) : Bool :=
  ((l.graph.pages[k]?).any fun p => p.pin) || (nthD {} l.pages k).pagein.isSome

/-- EVICT lets the pager take a page that a PAGEIN record holds. -/
def Launch.mayLose (l : Launch) (k : Nat) : Bool := !l.pinnedPage k || (l.pagein && (nthD {} l.pages k : PageState).evictFirst)

/-- The page, if resident and not pinned by a running launch, becomes the pager's first victim in its context. -/
def Launch.markVictim (l : Launch) (k : Nat) : Launch :=
  if !l.pagein && l.pinnedPage k then l
  else { l with pages := modNth (fun (p : PageState) => if p.place.isSome then { p with evictFirst := true } else p) k l.pages }

def execEvict (r : RecId) (s : State) : Answer :=
  .next (s.runRec r 8 fun q x =>
    ({ s.touchRec r with launches := s.launches.map fun (l : Launch) =>
        if l.cid = q.cid ∧ l.gdesc = x.d 4 then l.markVictim (x.w 6) else l }).outcome r .ok 0)

end Sys2Proof.Machine
end

