-- ==== Sys2Proof/Machine/Steward.lean ====
section
/-! DEFINITION. The steward's work on a resident page (08 R265 to R270 step 4, R274): routes, thresholds, PACE and handlers; moving the
stamps of a billet in time; saving a page and restoring it (13 R347, 14 R393, R394). Choices and readings: log entries 15, 29, 30, 36, 47,
57, 73. -/

namespace Sys2Proof.Machine

/-! ### Stamps in fc -/

def Acc.shift (f : Nat → Nat) (a : Acc) : Acc := { a with issue := f a.issue }

def Node.shift (f : Nat → Nat) (n : Node) : Node :=
  { n with drain := n.drain.map fun (d : Drain) => { d with next := f d.next },
           flush := n.flush.map fun (x : Flush) => { x with issue := f x.issue, next := f x.next } }

/-- Every fc a tile remembers, moved: time that does not pass for it, or another side's count. -/
def Tile.shift (f : Nat → Nat) (t : Tile) : Tile :=
  { t with
    store := t.store.map fun e => { e with since := f e.since }
    outCh := t.outCh.map fun p => (p.1, { p.2 with nextFc := f p.2.nextFc })
    flights := t.flights.map fun x => { x with due := f x.due, issue := f x.issue }
    nodes := t.nodes.map fun p => (p.1, p.2.shift f)
    issueFree := f t.issueFree
    mtxFree := f t.mtxFree
    mpairs := t.mpairs.map fun p => { p with start := f p.start }
    hist := t.hist.map fun h => (h.1, h.2.1, f h.2.2)
    port := t.port.map (Acc.shift f)
    flying := t.flying.map (Acc.shift f)
    slots := t.slots.map fun w => { w with issue := f w.issue }
    rets := t.rets.map fun r => { r with due := f r.due } }

def Billet.shift (f : Nat → Nat) (x : Billet) : Billet :=
  { x with
    tiles := x.tiles.map (Tile.shift f)
    watches := x.watches.map fun w => { w with acc := w.acc.shift f, next := f w.next }
    releases := x.releases.map fun r => { r with acc := r.acc.shift f }
    balanced := f x.balanced }

/-! ### Routes and thresholds (R265, R266) -/

/-- The destination billet a route resolves to: of its edge's entry when it has one. -/
def State.routeDest (s : State) (b : Nat) (r : Route) : Nat :=
  let far : Nat := ((s.edgeOf b r.edge).map fun p => p.2.dest).getD 0
  match r.kind with
  | .loc => b
  | .edge => far
  | .handler => if r.remote then far else b
  | _ => 0

/-- A route as the steward resolves it, a STEER route with the largest time of its set (R266); an overridden route stays as the debugger
left it (R405). -/
def State.resolve (s : State) (b k : Nat) (r : Route) : Route :=
  if r.detour.isSome || r.kind == .none then r else { r with phys := s.routeDest b r, rtt := 2 * s.longest b k r }

/-- RTT of an output channel of a tile. -/
def State.chanRtt (s : State) (b : Nat) (x : Billet) (t : Nat) (c : OutChan) : Nat := 2 * s.chanTime b (nthD {} x.routes c.route) (some t)

/-- RTTloc of a page: the largest RTT of its local channels. -/
def State.rttLoc (s : State) (b : Nat) (x : Billet) : Nat :=
  (x.tiles.zipIdx.flatMap fun (t, ti) => t.outCh.map fun q => (ti, q.2)).foldl (fun m q =>
    if x.edgeChan (nthD {} x.routes q.2.route) then m else max m (s.chanRtt b x q.1 q.2)) 0

/-- The edges of a launch that end in a channel of a page (R261). -/
def Launch.edgesInto (l : Launch) (page tile ch : Nat) : List Edge :=
  l.edges.filter fun e => e.cons = page ∧ e.ctile = tile ∧ e.cch = ch

def offOf (loc : Nat) : Nat := if 16 - loc ≥ 4 then 16 - loc else 4

/-- OFF and ON of an input channel. -/
def InChan.tune (edge : Bool) (loc : Nat) (c : InChan) : InChan :=
  let off := if edge then 4 else offOf loc
  { c with off := off, on := off - 2 }

/-- PACE of an output channel. -/
def OutChan.tune (edge : Bool) (loc rtt : Nat) (c : OutChan) : OutChan :=
  { c with pace := if edge || decide (16 - loc < 4) then paceOf rtt else 1 }

/-- What the steward writes for a billet's page: PHYS and RTT, OFF, ON and PACE; overrides do not show in the last three (R405). -/
def State.tune (s : State) (b : Nat) : State :=
  let x := s.billet b
  match x.page with
  | none => s
  | some p =>
    let x := { x with routes := x.routes.zipIdx.map (fun q => s.resolve b q.2 q.1), steward := false }
    let s := s.setBillet b x
    let bare := { x with routes := x.routes.map fun (r : Route) => { r with detour := none } }
    let s0 := s.setBillet b bare
    let loc := s0.rttLoc b bare
    let edge (t c : Nat) : Bool := (s.launch? p.launch).any fun l => !(l.edgesInto p.page t c).isEmpty
    s.setBillet b { x with tiles := x.tiles.zipIdx.map fun (t, ti) => { t with
      inCh := t.inCh.map fun q => (q.1, q.2.tune (edge ti q.1) loc)
      outCh := t.outCh.map fun q => (q.1, q.2.tune (x.edgeChan (nthD {} x.routes q.2.route)) loc (s0.chanRtt b bare ti q.2)) } }

def execStewardRouteRecompute (b : Nat) (s : State) : Answer :=
  .next (if s.active b && (s.billet b).steward then s.tune b else s)

/-! ### Saving and restoring a page (R347, R393) -/

/-- Bytes of local store of a billet, by offset. -/
def State.scrOf (s : State) (b : Nat) : List Host.Cell :=
  (s.scr.filter fun c => decide (2 ^ 23 * b ≤ c.1) && decide (c.1 < 2 ^ 23 * (b + 1))).map fun c => (c.1 - 2 ^ 23 * b, c.2)

/-- Puts saved bytes into a billet's local stores. -/
def State.putScr (s : State) (b : Nat) : List Host.Cell → State
  | [] => s
  | c :: cs => { s with scr := Memory.write s.scr (2 ^ 23 * b + c.1) c.2 }.putScr b cs

/-- Largest MT_CAP of any M-tile in service (R344 step 1). -/
def State.maxCap (s : State) : Nat :=
  (s.tenantBillets 0 ++ s.tenantBillets 1).foldl (fun m b => max m (s.mtCap b)) 0

/-- Size of a context record (R347) with a CAP. -/
def recordSize (tiles mtiles cap : Nat) : Nat := 4096 + 81920 * tiles + mtiles * cap

def imgRecordSize (ws : List Word) (cap : Nat) : Nat :=
  recordSize (usedTiles ws).length ((readMTiles ws).filter fun m => m.role != .cache).length cap

/-- Accesses held under R190. -/
def Billet.heldAccs (x : Billet) : Nat := (x.tiles.map fun t => (t.port.filter Acc.held).length).sum

/-- Tokens that a page of DROPSWAP = 1 loses at an eviction (R345 step 4). -/
def Billet.dropTokens (x : Billet) : Billet :=
  { x with
    ctrl := []
    handlers := x.handlers.map fun h => { h with pend := none }
    tiles := x.tiles.map fun t => { t with store := [], rets := [], inCh := t.inCh.map fun p => (p.1, { p.2 with queue := [] }) } }

/-- The record of a billet's page: at a boundary (VERSION 1), or scanned (VERSION 2) with the flits of its routers. -/
def State.saved (s : State) (b version : Nat) (p : Resident) : SavedPage :=
  let x := s.billet b
  let drop := x.dropSwap && version == 1
  { version := version, page := p.page, gen := x.gen, cid := p.cid, dropped := drop, npend := x.heldAccs
    billet := if drop then x.dropTokens else x
    scr := s.scrOf b
    flits := s.flits.filter fun f => f.edge.isNone && f.dest.billet == some b
    sparse := s.sparse.filter fun o => o.tile.b == b
    fc := s.now b
    size := recordSize (x.tiles.filter fun t => !t.blocks.isEmpty || !t.inCh.isEmpty || !t.outCh.isEmpty).length
      (x.mtiles.filter fun m => m.role != .cache).length (s.mtCap b) }

/-- The header of a context record (R347). -/
def SavedPage.header (r : SavedPage) : List Word :=
  [BitVec.ofNat 32 (0x43520000 + r.version),
   BitVec.ofNat 32 (r.page % 512 + 2 ^ 16 * r.gen.toNat + 2 ^ 24 * (r.cid % 128) + if r.dropped then 2 ^ 31 else 0),
   BitVec.ofNat 32 r.size, r.crc, BitVec.ofNat 32 (r.npend % 256)] ++ List.replicate 11 0

/-- The tag of the token that a firing still has to hand on beside its results. -/
def FlightFx.tags : FlightFx → List Tag
  | .ret _ _ _ tok _ => [tok.tag]
  | .raise _ tok => [tok.tag]
  | _ => []

def Flight.tags (f : Flight) : List Tag := f.outs.map Out.tag ++ f.fx.tags

/-- The tags of the tokens that a record holds of a tile. -/
def Tile.tags (t : Tile) : List Tag :=
  (t.store.map fun e => e.tok.tag) ++ (t.inCh.flatMap fun c => c.2.queue.map Token.tag) ++ (t.flights.flatMap Flight.tags) ++
    (t.rets.map fun r => r.tok.tag) ++ (t.slots.map fun w => w.tok.tag) ++ (t.pool.map fun k => k.tok.tag) ++
    (t.nodes.flatMap fun n => n.2.window.map fun w => w.2.tag)

/-- The tags of the tokens that a record holds. -/
def Billet.tags (x : Billet) : List Tag :=
  x.tiles.flatMap Tile.tags ++ (x.mtiles.flatMap fun m => m.fifo.map Token.tag) ++ (x.args.map fun a => a.2.2.tag) ++
  (x.handlers.filterMap fun h => h.pend.map Token.tag) ++ (x.ctrl.map fun c => c.2.tag) ++ (x.arrivals.map fun a => a.tok.tag)

/-- A record that its load restores: its CRC holds, and no tag of it breaks R15. -/
def SavedPage.sound (r : SavedPage) : Bool := r.good && r.billet.tags.all Tag.legal && r.flits.all fun f => f.tok.tag.legal

/-- A C-tile's state from before under the configuration its image gives now; from a scan also what a boundary has none of: the held
selection, PACE and, within the page, the views and signals (R394). -/
def Tile.restore (scan : Bool) (loc : Nat → Bool) (new old : Tile) : Tile :=
  { old with
    blocks := new.blocks
    stageCtl := new.stageCtl
    inCh := new.inCh.map fun (c, y) => (c, match Tbl.get c old.inCh with
      | none => y
      | some o => { y with queue := o.queue, passed := o.passed, occSum := o.occSum, seqNext := o.seqNext, asserted := !scan || o.asserted })
    outCh := new.outCh.map fun (c, y) => (c, match Tbl.get c old.outCh with
      | none => y
      | some o => { y with
          altFloat := o.altFloat, ctrlOut := o.ctrlOut, nextFc := if scan then o.nextFc else y.nextFc
          views := if scan && loc o.route then o.views else y.views })
    issued := false, accepted := [], injected := 0, held := if scan then old.held else none }

/-- A place of the old billet, in the new one. -/
def Loc.rebase (b : Nat) : Loc → Loc
  | .scr k => .scr (2 ^ 23 * b + k % 2 ^ 23)
  | .glb pa u => .glb pa u

def Acc.rebase (b : Nat) (a : Acc) : Acc := { a with locs := a.locs.map fun p => (p.1, p.2.rebase b) }

/-- The places of a billet's accesses, in another billet. -/
def Billet.rebase (b : Nat) (x : Billet) : Billet :=
  { x with
    tiles := x.tiles.map fun t => { t with port := t.port.map (Acc.rebase b), flying := t.flying.map (Acc.rebase b) }
    watches := x.watches.map fun w => { w with acc := w.acc.rebase b, loc := w.loc.rebase b }
    releases := x.releases.map fun r => { r with acc := r.acc.rebase b } }

/-- Run-time state of a ring under its descriptor. -/
def Ring.restore (new old : Ring) : Ring :=
  { old with fmt := new.fmt, mtile := new.mtile, reuse := new.reuse, slots := new.slots, base := new.base }

/-- CTRL tokens that have come for a page while it was loaded. -/
def Billet.ctrlNew (x : Billet) : List Arrival :=
  (x.handlers.zipIdx.filterMap fun p => p.1.pend.map fun t => { entry := p.2, tok := t }) ++
    (x.ctrl.map fun p => { entry := p.1, tok := p.2 }) ++ x.arrivals

/-- A billet that a page returns to: configuration from the image, everything else as it was saved; a restored wtaddr re-reads
first (R217). -/
def Billet.restore (scan : Bool) (new old : Billet) : Billet :=
  let loc (k : Nat) : Bool := (nthD {} new.routes k : Route).kind == .loc
  { old with
    page := new.page, load := new.load, evict := new.evict, frozen := new.frozen, gen := new.gen, dropSwap := new.dropSwap
    drainOn := false, handlerGated := false, bodyGated := false, initOn := false
    tiles := (new.tiles.zip old.tiles).map fun p => p.1.restore scan loc p.2
    mtiles := (new.mtiles.zip old.mtiles).map fun p => { p.1 with fifo := p.2.fifo, spacc := p.2.spacc }
    routes := new.routes, steer := new.steer
    rings := new.rings.map fun (n, g) => (n, match Tbl.get n old.rings with
      | some o => g.restore o
      | none => g)
    windows := new.windows
    handlers := (new.handlers.zip old.handlers).map fun p => { p.1 with en := p.2.en, pend := p.2.pend }
    arrivals := old.arrivals ++ new.ctrlNew
    stages := new.stages
    floats := (new.floats.zip old.floats).map fun p => { p.1 with stage := p.2.stage, draining := p.2.draining }
    floors := new.floors
    watches := old.watches.map fun w => { w with hit := true }
    l1 := new.l1, breaks := new.breaks, c1 := false, idle := 0, lastUse := new.lastUse, steward := false }

/-! ### Finishing a load (R270 steps 4 to 6) -/

/-- Breakpoints of a page, installed at step 4 (R423). -/
def State.breaksOf (s : State) (cid page : Nat) : List Break :=
  s.brkStore.filterMap fun k => if k.1 = cid ∧ k.2.1 = page then some k.2.2 else none

/-- Edges into a page take its billet as DEST with its generation, and go on at the SEQ its channels expect; tokens that
had been on their way to the page stand before the others again (R350). -/
def State.aimEdges (s : State) (r : RecId) (page b : Nat) : State :=
  let aim (e : Edge) : Edge :=
    let wanted := BitVec.ofNat 16 (((Tbl.get e.cch ((s.billet b).tile e.ctile).inCh).map InChan.seqNext).getD 0)
    Edge.settle e.early.length { e with dest := b, gen := (s.billet b).gen, view := true, tried := false, out := wanted }
  s.modLaunch r fun l => { l with edges := l.edges.map fun e => if e.cons = page then aim e else e }

/-- An edge whose producer now lies on another side than its DIRECT consumer becomes CARAVAN, or WAYSTATION where an edge caravan
cannot be reserved (R351, R354). -/
def State.partEdge (s : State) (l : Launch) (b : Nat) (e : Edge) : State :=
  if e.st = .direct ∧ sideOf b ≠ sideOf e.dest then
    let room := decide (32768 ≤ s.storeLeft l.cid)
    let s := s.modEdge l.id e.id fun x =>
      { x with st := if room then .caravan else .waystation, reserved := room, tried := !room, home := sideOf e.dest, nextIn := x.seq, out := x.seq,
               view := true, nextFc := 0 }
    if room then s.modCtx l.cid fun c => { c with storeUsed := c.storeUsed + 32768 } else s
  else s

def State.partEdges (s : State) (l : Launch) (b : Nat) : List Edge → State
  | [] => s
  | e :: es => (s.partEdge l b e).partEdges l b es

/-- Data records of the image enter the M-tiles at a first load (R290). -/
def State.putData (s : State) (b : Nat) (img : List Byte) : List DataRec → State
  | [] => s
  | r :: rs => { s with scr := Memory.writes s.scr (scrKey b r.m r.at_) (imgBytes' img (r.off + 8) r.len) }.putData b img rs
where imgBytes' (img : List Byte) (off n : Nat) : List Byte := (img.drop off).take n

/-- Primed tokens enter their queues in record order (R258). -/
def Tile.prime (t : Tile) (p : PrimeImg) : Tile :=
  { t with inCh := t.inCh.map fun (c, y) => (c, if c = p.ch then { y with queue := y.queue ++ [p.token] } else y) }

def Billet.primeAll (x : Billet) (ws : List Word) : Billet :=
  { x with tiles := x.tiles.zipIdx.map fun (t, i) => if tileLen ws i = 0 then t else (readTile ws i).primes.foldl Tile.prime t }

/-- Whether a page's init blocks have nothing left that could issue: no token of their channels is still to be delivered, no firing
of theirs is under way, and each of their nodes waits for a token or for its targets. -/
def Billet.initQuiet (x : Billet) : Bool :=
  x.tiles.all fun t => t.blocks.all fun k => hdrKind k.hdr != 3 ||
    ((t.inCh.all fun (_, c) => c.dblk != k.n || (match c.queue with
        | [] => true
        | tok :: _ => t.portSpace c.dblk c.dslot c.dport tok.tag != .ok)) &&
      t.flights.all (fun f => f.blk != k.n) && k.nodes.all fun (slot, i) =>
      match t.choose k.n slot i with
      | .fire .. | .fin .. => let r := (t.node (posOf k.n slot)).stall; r != 0 && r != 10
      | _ => true)

/-- The gates of a page open (R270 step 6); from then on no init block fires (R43). -/
def Billet.open (x : Billet) : Billet := { x.openGates with load := none, initOn := false }

/-- A pinned page of the launch has not been loaded. -/
def State.lacksPinned (s : State) (l : Launch) : Bool := l.pages.zipIdx.any fun (p, k) =>
  l.pinnedPage k && !(p.place.any fun b => (s.billet b).load.all fun d => d.phase == .closed || d.phase == .running)

/-- A page of a launch that waits for its pinned pages stands frozen; with the last of them the launch goes on (R449). -/
def State.wakeLaunch (s : State) (b : Nat) (r : RecId) : State :=
  match s.launch? r with
  | none => s
  | some l =>
    if !l.waking then s
    else if s.lacksPinned l then s.freeze [b] .power
    else (s.modLaunch r fun x => { x with waking := false }).unfreeze (s.billetsOf r) [.power]

/-- Routes, thresholds, handlers and breakpoints are in place; at a first load tokens are primed and init blocks may fire; a
reload restores what was saved. The gates of a page of a RUNNING launch open at once where no init block has yet to fire. -/
def State.stewardDone (s : State) (b : Nat) (p : Resident) (ld : Load) : State :=
  let ws := wordsOfBytes (ld.image.length / 4) ld.image
  let ps := ((s.launch? p.launch).map fun l => nthD {} l.pages p.page).getD {}
  let armed (x : Billet) : Billet := { x with handlers := (x.handlers.zip (readHandlers ws)).map fun q => { q.1 with st := q.2.st } }
  let x := s.billet b
  let x : Billet := match ps.record with
    | some r => x.restore (r.version == 2) ((r.billet.shift fun n => n + s.now b - r.fc).rebase b)
    | none => { x.primeAll ws with initOn := true, balanced := s.now b }
  let x := { armed x with
    breaks := s.breaksOf p.cid p.page
    bodyGated := (s.launch? p.launch).any fun l => l.st == .checkout
    lastUse := s.now b
    load := some { ld with phase := .closed, image := [] } }
  let s := s.setBillet b x
  let s : State := match ps.record with
    | some r => { s.putScr b r.scr with
      sparse := s.sparse ++ r.sparse.map fun (o : SparseOp) => { o with tile := ⟨b, o.tile.t⟩, loc := o.loc.rebase b }
      flits := s.flits ++ r.flits.map fun (f : Flit) =>
        { f with gen := x.gen, src := ⟨b, f.src.t⟩, due := f.due + s.now b - r.fc, dest := match f.dest with
          | .chan _ t c => .chan b t c
          | .handler _ e => .handler b e
          | .store => .store } }
    | none => s.putData b ld.image (dataRecs ws).1
  let s := s.modLaunch p.launch fun l => { l with pages := modNth (fun (y : PageState) =>
    { y with loadedOnce := true, record := none }) p.page l.pages }
  let s := s.aimEdges p.launch p.page b
  let s : State := match s.launch? p.launch with
    | some l => s.partEdges l b (l.edges.filter fun e => e.prod = p.page)
    | none => s
  let s := s.tune b
  let s := s.acquireCaches b .device
  let s := if (s.launch? p.launch).any fun l => l.st == .running && (s.billet b).initQuiet then s.modBillet b Billet.open else s
  let s := s.wakeLaunch b p.launch
  if (s.launch? p.launch).any fun l => l.graph.checkout == p.page then (s.raiseKept p.launch).raiseWaiting p.launch else s

def execStewardRoutesDone (b : Nat) (s : State) : Answer :=
  .next (match (s.billet b).page, (s.billet b).load with
    | some p, some ld => if s.power == .c0 && !(s.billet b).isFrozen && ld.phase == .steward && decide (ld.busEnd ≤ s.now b) then s.stewardDone b p ld else s
    | _, _ => s)

end Sys2Proof.Machine
end

