-- ==== Sys2Proof/Machine/Validate.lean ====
section
/-! DEFINITION. What the Front Desk reads and checks before it requests a page (12 R335 to R337, 03 R98, R99): the graph descriptor, the
page images and the argument block, through CFG translations, in table order. Choices and readings: log entry 26. -/

namespace Sys2Proof.Machine

/-! ### Reading -/

/-- How validation ends early: a failing check with its code and index, a read at an address that fails, or one that is cut off (R436). -/
inductive VFail
  | check (code idx : Nat)
  | read (va : Nat)
  | lost
  deriving DecidableEq, Repr

/-- A reader: what it yields and the state its walks leave, or how it ends. -/
abbrev Reader (α : Type) := State → Except (State × VFail) (α × State)

def Reader.ret {α : Type} (a : α) : Reader α := fun s => .ok (a, s)
def Reader.andThen {α β : Type} (m : Reader α) (f : α → Reader β) : Reader β := fun s =>
  match m s with
  | .error e => .error e
  | .ok (a, s) => f a s
def Reader.require (ok : Bool) (code idx : Nat) : Reader Unit := fun s => if ok then .ok ((), s) else .error (s, .check code idx)
/-- Runs a reader for each element with its index. -/
def Reader.each {α β : Type} (f : Nat → α → Reader β) : Nat → List α → Reader (List β)
  | _, [] => .ret []
  | i, a :: as => (f i a).andThen fun b => (Reader.each f (i + 1) as).andThen fun bs => .ret (b :: bs)

/-- Reads a range through CFG translations, granule by granule. -/
def readRange (cid : Nat) : Nat → Nat → Nat → Reader (List Byte)
  | 0, _, _ => .ret []
  | fuel + 1, va, n => fun s =>
    if n = 0 then .ok ([], s)
    else
      let k := firstPart va n
      match s.sysRead1 cid va k true with
      | .error (s, e) => .error (s, if e = .lost then .lost else .read va)
      | .ok (bs, s) => ((readRange cid fuel (va + k) (n - k)).andThen fun cs => .ret (bs ++ cs)) s

def readBytes (cid va n : Nat) : Reader (List Byte) := readRange cid (n / 64 + 2) va n
def readWords (cid va n : Nat) : Reader (List Word) := (readBytes cid va (4 * n)).andThen fun bs => .ret (wordsOfBytes n bs)

/-! ### The header and the pages (checks 0x1 to 0x3) -/

def headOk (gdesc : Nat) (h : List Word) : Bool :=
  gdesc % 64 == 0 && iw h 0 == 0x47440001 && decide (1 ≤ fld (iw h 4) 0 9) && fld (iw h 4) 9 7 == 0 && fld (iw h 4) 25 7 == 0 &&
    decide (fld (iw h 8) 0 13 ≤ 4096) && decide (fld (iw h 8) 16 9 ≤ 256) && fld (iw h 8) 13 3 == 0 && fld (iw h 8) 25 7 == 0 &&
    iw h 12 == 0 && iw h 24 % 64 == 0 && iw h 28 % 64 == 0 && iw h 32 % 64 == 0 && (List.range 7).all fun k => iw h (36 + 4 * k) == 0

/-- A page as validation sees it: its entry, and its image as far as it has been read. -/
structure VPage where
  g : GPage
  ws : List Word := []
  deriving DecidableEq, Repr

def pageOf (e : List Word) : GPage :=
  { image := idw e 0, size := fld (iw e 8) 0 16, side := fld (iw e 8) 16 1, pin := fld (iw e 8) 17 1 == 1, entry := fld (iw e 8) 18 1 == 1
    bases := (List.range 8).map fun k => idw e (32 + 8 * k) }

def pageOk (s : State) (e : List Word) : Bool :=
  let g := pageOf e
  g.image % 64 == 0 && decide (g.image < 2 ^ 48) && decide (64 ≤ g.size) && decide (g.size ≤ 32768) && !(s.side g.side).iso &&
    fld (iw e 8) 19 13 == 0 && (List.range 5).all fun k => iw e (12 + 4 * k) == 0

/-- One page entry with its image's header (check 0x2). -/
def readPage (cid table i : Nat) : Reader GPage := fun s =>
  ((readWords cid (table + 96 * i) 24).andThen fun e =>
    (Reader.require (pageOk s e) 2 i).andThen fun _ =>
      (readWords cid (pageOf e).image 2).andThen fun h =>
        (Reader.require (iw h 4 == (pageOf e).size) 2 i).andThen fun _ => .ret (pageOf e)) s

/-! ### Images (checks 0x4 to 0x6) -/

/-- Reads n bytes of a page's image at an offset, as far as its size goes, into its words; words that no check has needed stand as
zero. -/
def VPage.span (cid off n : Nat) (p : VPage) : Reader VPage :=
  let all := p.g.size / 4
  let lo := min (off / 4) all
  let hi := min ((off + n + 3) / 4) all
  (readWords cid (p.g.image + 4 * lo) (hi - lo)).andThen fun vs => .ret { p with ws := p.ws.take lo ++ vs ++ p.ws.drop hi }

/-- What check 0x4 needs of an image: its header and its window words. -/
def readForWindows (cid : Nat) (g : GPage) : Reader VPage :=
  (VPage.span cid 0 64 { g := g, ws := List.replicate (g.size / 4) 0 }).andThen fun p => p.span cid (windowOff p.ws 0) 64

/-- What check 0x5 needs beyond that: the ring descriptors with their presence mask, and the data segment. -/
def VPage.readForCaps (cid : Nat) (p : VPage) : Reader VPage :=
  (p.span cid (ringOff p.ws 0) 64).andThen fun p => (p.span cid (billetOff p.ws + 0x3F0) 4).andThen fun p =>
    p.span cid (dataOff p.ws) (dataLen p.ws)

def windowsOk (p : VPage) : Bool :=
  (readWindows p.ws).all fun w =>
    let base := nthD 0 p.g.bases w.1
    base % 64 == 0 && decide (base + w.2 ≤ 2 ^ 48)

/-- MT_CAP of the smallest billet of a side (R284, R337). -/
def State.minCap (s : State) (side : Nat) : Nat := (s.tenantBillets side).foldl (fun m b => min m (s.mtCap b)) 0x100000

/-- Rings and data records lie within a MT_CAP (R224, R290). -/
def capOk (ws : List Word) (cap : Nat) : Bool :=
  (readRings ws).all (fun r => decide ((r.2.base + r.2.slots) * 1024 ≤ cap)) &&
    (dataRecs ws).1.all fun d => decide (d.at_ + d.len ≤ cap)

/-- Nodes of a page's tiles. -/
def VPage.nodes (p : VPage) : List (Nat × Instr) :=
  (imgTiles p.ws).zipIdx.flatMap fun (t, i) => t.allNodes.map fun n => (i, n.2.2)

def isPorter (i : Instr) : Bool :=
  match i with
  | .porter .. => true
  | _ => false
def isReorder (i : Instr) : Bool :=
  match i with
  | .reorder .. => true
  | _ => false

/-- Colour floors of a page (R168). -/
def floorsOk (p : VPage) : Bool := decide ((readFloors p.ws).sum ≤ 1023)

/-- Porters and reorders of a page (R152). -/
def limitsOk (p : VPage) : Bool := (List.range 8).all fun t =>
  let ns := (p.nodes.filter fun n => n.1 = t).map Prod.snd
  decide ((ns.filter isPorter).length ≤ 2) && decide ((ns.filter isReorder).length ≤ 2)

/-- HANDLER routes of a page: the page whose handler table each reaches, and the entry. -/
def handlerRoutes (edges : List Edge) (n : Nat) (p : VPage) (i : Nat) : List (Route × Nat) :=
  ((readRoutes p.ws).filter fun r => r.kind == .handler).map fun r =>
    (r, if r.remote then ((edges.find? fun e => e.id = r.edge).map Edge.cons).getD n else i)

/-- The HANDLER routes of a page against those of the pages before it. -/
def handlersOk (ps : List VPage) (edges : List Edge) (i : Nat) (p : VPage) : Bool :=
  let mine := handlerRoutes edges ps.length p i
  let before := (ps.take i).zipIdx.flatMap fun q => handlerRoutes edges ps.length q.1 q.2
  let name (x : Route × Nat) : Nat × Nat := (x.2, x.1.entry)
  mine.all (fun x => decide (2 ≤ x.1.entry) && decide (x.1.entry ≤ 30) &&
      (!x.1.remote || (match ps[x.2]? with
        | some q => (nthD {} (readHandlers q.ws) x.1.entry).st == .armed
        | none => false))) &&
    decide ((mine.map name).Nodup) && mine.all fun x => before.all fun y => name x != name y

/-! ### Edges and caravans (checks 0x7, 0x8) -/

def edgeOfWords (e : List Word) : Edge :=
  { id := fld (iw e 0) 0 12, prod := fld (iw e 0) 16 9, cons := fld (iw e 4) 0 9, ctile := fld (iw e 4) 16 3, cch := fld (iw e 4) 19 5
    ptile := fld (iw e 8) 0 3, pch := fld (iw e 8) 3 5, thresh := iw e 12 }

/-- A channel's route, or a route of its steering set, is an EDGE route with an ID. -/
def sendsEdge (ws : List Word) (c : OutChan) (id : Nat) : Bool :=
  let rs := readRoutes ws
  let r := nthD {} rs c.route
  let hit (q : Route) : Bool := q.kind == .edge && q.edge == id
  hit r || (r.kind == .steer && (nthD [] (readSteer ws) r.set).any fun k => hit (nthD {} rs k))

def edgeOk (ps : List VPage) (before : List Edge) (ws : List Word) : Bool :=
  let e := edgeOfWords ws
  fld (iw ws 0) 12 4 == 0 && fld (iw ws 0) 25 7 == 0 && fld (iw ws 4) 9 7 == 0 && fld (iw ws 4) 24 8 == 0 && fld (iw ws 8) 8 24 == 0 &&
    decide (1 ≤ e.thresh) && decide (e.thresh ≤ 4095) && before.all (fun q => q.id != e.id) &&
    (match ps[e.prod]?, ps[e.cons]? with
     | some p, some c =>
       (match Tbl.get e.pch (nthD {} (imgTiles p.ws) e.ptile).outCh with
        | none => false
        | some o => sendsEdge p.ws o e.id) &&
         (Tbl.get e.cch (nthD {} (imgTiles c.ws) e.ctile).inCh).isSome
     | _, _ => false)

/-- Runs a reader on one page of several. -/
def onPage (k : Nat) (f : VPage → Reader VPage) (ps : List VPage) : Reader (List VPage) :=
  Reader.each (fun i p => if i = k then f p else .ret p) 0 ps

/-- The entry of an output channel, or of an input channel, of a used tile, and the steering sets of a page. -/
def VPage.readOut (cid tile ch : Nat) (p : VPage) : Reader VPage :=
  if tileLen p.ws tile = 0 then .ret p else p.span cid (outOff (tileOff p.ws tile) ch) 8
def VPage.readIn (cid tile ch : Nat) (p : VPage) : Reader VPage :=
  if tileLen p.ws tile = 0 then .ret p else p.span cid (inOff (tileOff p.ws tile) ch) 8
def VPage.readSets (cid : Nat) (p : VPage) : Reader VPage := p.span cid (steerOff p.ws 0) 64

/-- What check 0x7 needs for an edge: the entries of its two channels, and the steering sets where the producer's route is a STEER
route. -/
def readForEdge (cid : Nat) (e : Edge) (ps : List VPage) : Reader (List VPage) :=
  (onPage e.prod (fun p => (p.readOut cid e.ptile e.pch).andThen fun p =>
    match Tbl.get e.pch (nthD {} (imgTiles p.ws) e.ptile).outCh with
    | some o => if (nthD {} (readRoutes p.ws) o.route : Route).kind = .steer then p.readSets cid else .ret p
    | none => .ret p) ps).andThen fun ps => onPage e.cons (fun p => p.readIn cid e.ctile e.cch) ps

/-- Edges checked in ascending index. -/
def checkEdges (cid : Nat) : Nat → List VPage → List Edge → List (List Word) → Reader (List VPage)
  | _, ps, _, [] => .ret ps
  | i, ps, before, w :: ws =>
    (readForEdge cid (edgeOfWords w) ps).andThen fun ps =>
    (Reader.require (edgeOk ps before w) 7 i).andThen fun _ => checkEdges cid (i + 1) ps (before ++ [edgeOfWords w]) ws

def qputIdx (i : Instr) : Option Nat :=
  match i with
  | .qput n => some (n.imm % 256)
  | _ => none
def qgetIdx (i : Instr) : Option Nat :=
  match i with
  | .qget n => some (n.imm % 256)
  | _ => none

/-- A caravan entry: its edge stands in the table, its capacity is 16 to 65,536, at most one qget names it (R214). -/
def caravanOk (edges : List Edge) (gets : List Nat) (i : Nat) (w : Nat) : Bool :=
  fld w 12 4 == 0 && fld w 21 11 == 0 && (edges.any fun e => e.id == fld w 0 12) && decide (4 ≤ fld w 16 5) && decide (fld w 16 5 ≤ 16) &&
    decide ((gets.filter (· = i)).length ≤ 1)

/-- The least index that a qput or qget names and no caravan has. -/
def undeclared (named : List Nat) (n : Nat) : Option Nat :=
  (named.filter fun k => n ≤ k).foldl (fun best k => match best with
    | none => some k
    | some b => some (min b k)) none

/-! ### Arguments (check 0x9) -/

/-- n argument records from an address (R336). That a record is valid under R258 says nothing of how many there are for a channel: the
limit of 16 is the image's (log entry 26). -/
def readArgs (cid : Nat) (ps : List VPage) (entry : Nat → Bool) : Nat → Nat → List ArgRec → Reader (List ArgRec)
  | 0, _, acc => .ret acc
  | n + 1, va, acc =>
    (readWords cid va 4).andThen fun h =>
      let k := if fld (iw h 4) 5 1 = 1 then 16 else 1
      (readWords cid (va + 16) k).andThen fun pay =>
        let page := fld (iw h 0) 0 9
        let tile := fld (iw h 0) 9 3
        let p : PrimeImg := ⟨0, iw h 4, iw h 8, iw h 12, pay⟩
        (if entry page then onPage page (fun p => p.readIn cid tile (iw h 4 % 32)) ps else .ret ps).andThen fun ps =>
        let ok := match ps[page]? with
          | none => false
          | some q => entry page && fld (iw h 0) 12 20 == 0 &&
              (let (a, b, c, d) := primeOk (nthD {} (imgTiles q.ws) tile) p; a && b && c && d)
        (Reader.require ok 9 0).andThen fun _ =>
          readArgs cid ps entry n (va + 16 + 4 * k) (acc ++ [⟨page, tile, p.ch, p.token⟩])

/-! ### The whole of R337 -/

/-- What a launch needs of a validated descriptor. -/
structure Plan where
  graph : Graph
  edges : List Edge
  caravans : List Caravan
  args : List ArgRec
  deriving DecidableEq, Repr

/-- The header, with its check. -/
def readHead (cid gdesc : Nat) : Reader (List Word) :=
  (readWords cid gdesc 16).andThen fun h => (Reader.require (headOk gdesc h) 1 0).andThen fun _ => .ret h

def headPages (h : List Word) : Nat := fld (iw h 4) 0 9

/-- An ENTRY page: marked so, pinned, or the checkout page (R335). -/
def isEntry (g : GPage) (i checkout : Nat) : Bool := g.entry || g.pin || i == checkout

/-- Check 0x4 over the pages. -/
def checkWindows (cid : Nat) (gs : List GPage) : Reader (List VPage) :=
  Reader.each (fun i g => (readForWindows cid g).andThen fun p => (Reader.require (windowsOk p) 4 i).andThen fun _ => .ret p) 0 gs

/-- Check 0x5 over the pages. -/
def checkCaps (cid : Nat) (ps : List VPage) : Reader (List VPage) := fun s =>
  Reader.each (fun i (p : VPage) => (p.readForCaps cid).andThen fun p =>
    (Reader.require (capOk p.ws (s.minCap p.g.side)) 5 i).andThen fun _ => .ret p) 0 ps s

/-- Check 0xA (R378). -/
def checkDeadline (deadline budget : Nat) : Reader Unit := fun s =>
  Reader.require (deadline == 2 ^ 64 - 1 || decide ((s.ns : Int) ≤ (deadline : Int) - budget)) 10 0 s

/-- A page has a HANDLER route that reaches across an edge. -/
def VPage.hasRemote (p : VPage) : Bool := (readRoutes p.ws).any fun r => r.kind == .handler && r.remote

/-- The handler table of a page that a REMOTE route of another reaches, when it has not been read. -/
def VPage.readHandlers (cid : Nat) (wanted : List Nat) (i : Nat) (p : VPage) : Reader VPage :=
  if wanted.contains i then p.span cid (handlerOff p.ws 0) 128 else .ret p

/-- Some blocks of a segment that ends at an offset: each header, then its slot words. -/
def VPage.readBlocks (cid fin : Nat) : List Nat → Nat → VPage → Reader VPage
  | [], _, p => .ret p
  | _ :: ns, off, p =>
    (p.span cid off 4).andThen fun p =>
      let n := 4 * hdrSlots (nthD 0 p.ws (off / 4))
      if off + 4 + n > fin then .ret p
      else (p.span cid (off + 4) n).andThen fun p => VPage.readBlocks cid fin ns (off + 4 + n) p

/-- The stations of some tiles. -/
def VPage.readStations (cid : Nat) : List Nat → VPage → Reader VPage
  | [], p => .ret p
  | t :: ts, p =>
    let off := tileOff p.ws t
    (p.span cid off 4).andThen fun p =>
    (VPage.readBlocks cid (off + tileLen p.ws t) (presentIn p.ws off) (off + segHead) p).andThen fun p => VPage.readStations cid ts p

/-- Check 0x6 over the pages: the floors, the stations and the routes of each, the edge table when a REMOTE route first asks for it, the
handler tables such a route reaches. -/
def checkLimits (cid : Nat) (table : Reader (List (List Word))) : Nat → Nat → List VPage → Reader (List VPage)
  | 0, _, ps => .ret ps
  | n + 1, i, ps =>
    let floors (p : VPage) : Reader VPage :=
      (p.span cid (billetOff p.ws + 0x3E8) 8).andThen fun p => (Reader.require (floorsOk p) 6 i).andThen fun _ => .ret p
    let stations (p : VPage) : Reader VPage :=
      (p.readStations cid (usedTiles p.ws)).andThen fun p => (Reader.require (limitsOk p) 6 i).andThen fun _ => .ret p
    (onPage i (fun p => (floors p).andThen fun p => (stations p).andThen fun p => p.span cid (routeOff p.ws 0) 512) ps).andThen fun ps =>
    let mine := ps[i]?.getD { g := pageOf [] }
    (if (ps.take (i + 1)).any VPage.hasRemote then table else .ret []).andThen fun es =>
    let edges := es.map edgeOfWords
    let far := ((handlerRoutes edges ps.length mine i).filter fun x => x.1.remote).map Prod.snd
    (Reader.each (VPage.readHandlers cid far) 0 ps).andThen fun ps =>
    (Reader.require (handlersOk ps edges i (ps[i]?.getD mine)) 6 i).andThen fun _ => checkLimits cid table n (i + 1) ps

/-- Checks 0x1 to 0x8, which look at the descriptor and the images alone; the pages as far as they have been read go on with what they
yield. -/
@[irreducible] def checkGraph (cid gdesc : Nat) : Reader (Plan × List VPage) :=
  (readHead cid gdesc).andThen fun h =>
  (Reader.each (fun i (_ : Nat) => readPage cid (gdesc + iw h 24) i) 0 (List.range (headPages h))).andThen fun gs =>
  let ck := fld (iw h 4) 16 9
  (Reader.require (gs[ck]?.any fun g => g.pin) 3 (if ck < gs.length then ck else 0)).andThen fun _ =>
  (checkWindows cid gs).andThen fun ps =>
  (checkCaps cid ps).andThen fun ps =>
  -- the edge table is read when a check first needs it: a REMOTE route's, or 0x7
  let table : Reader (List (List Word)) :=
    Reader.each (fun i (_ : Nat) => readWords cid (gdesc + iw h 28 + 16 * i) 4) 0 (List.range (fld (iw h 8) 0 13))
  (checkLimits cid table ps.length 0 ps).andThen fun ps =>
  table.andThen fun es =>
  (checkEdges cid 0 ps [] es).andThen fun ps =>
  let edges := es.map edgeOfWords
  let nc := fld (iw h 8) 16 9
  (readWords cid (gdesc + iw h 32) nc).andThen fun cs =>
  let nodes := (ps.flatMap VPage.nodes).map Prod.snd
  let gets := nodes.filterMap qgetIdx
  (Reader.each (fun i (w : Word) => Reader.require (caravanOk edges gets i w.toNat) 8 i) 0 cs).andThen fun _ =>
  (match undeclared (gets ++ nodes.filterMap qputIdx) nc with
   | some k => Reader.require false 8 k
   | none => .ret ()).andThen fun _ =>
  Reader.ret
    ({ graph := { npage := gs.length, checkout := ck, cost := idw h 16, pages := gs },
       edges := edges,
       caravans := cs.map fun (w : Word) =>
         { edge := w.toNat % 4096, slots := 2 ^ fld w.toNat 16 5,
           home := ((edges.find? fun (e : Edge) => e.id = w.toNat % 4096).bind fun (e : Edge) => gs[e.cons]?.map GPage.side).getD 0 },
       args := [] }, ps)

/-- Check 0x9. -/
def checkArgs (cid args : Nat) (g : Graph) (ps : List VPage) : Reader (List ArgRec) :=
  if args = 0 then .ret [] else
    (readWords cid args 1).andThen fun n =>
      (Reader.require (decide (iw n 0 ≤ 1024)) 9 0).andThen fun _ =>
        readArgs cid ps (fun i => g.pages[i]?.any fun p => isEntry p i g.checkout) (iw n 0) (args + 4) []

/-- Validation of a LAUNCH: the descriptor and the images, the argument block, deadline and budget. -/
@[irreducible] def validate (cid gdesc args deadline budget : Nat) : Reader Plan :=
  (checkGraph cid gdesc).andThen fun (p, ps) =>
  (checkArgs cid args p.graph ps).andThen fun as =>
  (checkDeadline deadline budget).andThen fun _ => Reader.ret { p with args := as }

end Sys2Proof.Machine
end

