-- ==== Sys2Proof/Machine/Launching.lean ====
section
/-! DEFINITION. Launches (12 R338, R339, 13 R356, 14 R378 to R390): their order of service, LAUNCH and PAGEIN, the opening of gates,
argument tokens, checkout time and deadline. Choices and readings: log entries 26, 28, 49. -/

namespace Sys2Proof.Machine

/-! ### Order of service (R339, R389, R390) -/

/-- Slack; none is infinite. -/
def slackOf (deadline cost run now : Nat) : Option Int :=
  if deadline = 2 ^ 64 - 1 then none else some ((deadline : Int) - now - max 0 ((cost : Int) - run))

def Launch.slack (l : Launch) (now : Nat) : Option Int := slackOf l.deadline l.graph.cost l.runNs now

def slackLt : Option Int → Option Int → Bool
  | some a, some b => decide (a < b)
  | some _, none => true
  | none, _ => false

/-- What orders service: class, slack, the queue's notify, the queue's number. -/
structure Rank where
  cls : Nat
  slack : Option Int
  notify : Nat
  queue : Nat
  deriving DecidableEq, Repr

def Rank.before (a b : Rank) : Bool :=
  if a.cls ≠ b.cls then decide (a.cls < b.cls)
  else if a.slack ≠ b.slack then slackLt a.slack b.slack
  else if a.notify ≠ b.notify then decide (a.notify < b.notify)
  else decide (a.queue < b.queue)

/-- The rank of what serves a launch: its faults, and the evictions for them. -/
def Launch.rank (l : Launch) (now : Nat) : Rank := { cls := l.cls, slack := l.slack now, notify := l.notifyNs, queue := l.id.queue }

/-- Puts an element behind those that are served no later. -/
def insertRank {α : Type} (x : Rank × α) : List (Rank × α) → List (Rank × α)
  | [] => [x]
  | y :: ys => if x.1.before y.1 then x :: y :: ys else y :: insertRank x ys

def byRank {α : Type} (l : List (Rank × α)) : List (Rank × α) := l.foldl (fun acc x => insertRank x acc) []

/-- COST of a descriptor that is not yet validated; 0 where it cannot be read. -/
def State.peekCost (s : State) (cid gdesc : Nat) : Nat :=
  match readWords cid (gdesc + 16) 2 s with
  | .ok (ws, _) => idw ws 0
  | .error _ => 0

def State.launchRank (s : State) (n : Nat) (q : VQueue) (x : Rec) : Rank :=
  { cls := max q.cls (x.w 13), slack := slackOf (x.d 6) (s.peekCost q.cid (x.d 4)) 0 s.ns, notify := q.notifyNs, queue := n }

/-- The LAUNCH records of a side that could start now. -/
def State.readyLaunches (s : State) (side : Nat) : List (Rank × RecId) :=
  s.queues.flatMap fun (n, q) =>
    if q.side = side ∧ s.isResident n = true ∧ s.ctxOpen q.cid = true then
      q.recs.filterMap fun x =>
        if x.ready ∧ x.ty = 1 ∧ x.failed = false ∧ (q.recs.all fun y => decide (q.age x ≤ q.age y) || !y.ready) = true then
          some (s.launchRank n q x, ⟨n, x.slot⟩)
        else none
    else []

/-! ### Quotas (R356) -/

/-- Pinned pages of a context: of its launches, and those its PAGEIN records hold; what a descriptor's PAGEINs hold in a queue
is left out where the request takes it over. -/
def State.pinnedOf (s : State) (cid : Nat) (without : Option (Nat × Nat)) : Nat :=
  (s.launches.map fun (l : Launch) =>
    if l.cid ≠ cid then 0
    else if l.pagein then (if without = some (l.gdesc, l.id.queue) then 0 else (l.pages.filter fun p => p.pagein.isSome).length)
    else (l.graph.pages.filter fun g => g.pin).length).sum

def State.tenants (s : State) : Nat := (s.tenantBillets 0).length + (s.tenantBillets 1).length

/-- Sum over the valid contexts of the larger of QRESERVE and pinned pages, one context's count given. -/
def State.reserveSum (s : State) (cid pinned : Nat) : Nat :=
  (s.contexts.map fun (c, x) =>
    if x.valid then max x.qreserve.toNat (if c = cid then pinned else s.pinnedOf c none) else 0).sum

/-- R356's first and third rules for a request that leaves a context with a count of pinned pages. -/
def State.quotaOk (s : State) (cid pinned : Nat) : Bool :=
  decide (pinned ≤ (s.ctx cid).qbillet.toNat) && decide (s.reserveSum cid pinned ≤ s.tenants)

/-! ### LAUNCH (R338 steps 1 to 3) -/

def Launch.isEntry (l : Launch) (k : Nat) : Bool := (l.graph.pages[k]?).any fun g => Machine.isEntry g k l.graph.checkout

/-- The pages that PAGEIN records hold for a descriptor in a queue: loaded with their gates closed, in a billet, or evicted since, in their
records. -/
def State.heldPages (s : State) (cid gdesc queue : Nat) : List (RecId × Nat × Option Nat) :=
  s.launches.flatMap fun l =>
    if l.pagein ∧ l.cid = cid ∧ l.gdesc = gdesc ∧ l.id.queue = queue then
      (List.range l.pages.length).filterMap fun k => match l.placeOf k with
        | some b => if (s.billet b).load.any fun d => d.phase == .closed then some (l.id, k, some b) else none
        | none => if (nthD {} l.pages k : PageState).record.isSome then some (l.id, k, none) else none
    else []

/-- The PAGEIN records of a queue for a page of a descriptor that have started and wait for it. -/
def State.pageins (s : State) (queue gdesc page : Nat) : List RecId :=
  ((s.queue? queue).map fun q => q.recs.filterMap fun x =>
    if x.ty = 7 ∧ x.started = true ∧ x.done = false ∧ x.outcome = none ∧ x.d 4 = gdesc ∧ x.w 6 = page then some (⟨queue, x.slot⟩ : RecId)
    else none).getD []

/-- They have their status. -/
def State.endPageins (s : State) (queue gdesc page : Nat) (st : Status) (detail : Nat) : State :=
  (s.pageins queue gdesc page).foldl (fun s r => s.outcome r st detail) s

/-- What a held page has sent over its edges and into its caravans stands in the launch's stores. -/
def Launch.adopt (l old : Launch) (k : Nat) (ps : PageState) : Launch :=
  { l with
    pages := setNth k { ps with pagein := none, evictFirst := false } l.pages
    edges := l.edges.map fun e => if e.prod = k then
        (match old.edges.find? fun o => o.id = e.id ∧ o.prod = k with
         | some o => { e with st := o.st, seq := o.seq, nextIn := o.nextIn, out := o.out, home := o.home, toks := o.toks, early := o.early
                              reserved := o.reserved, tried := o.tried }
         | none => e)
      else e
    caravans := l.caravans.zipIdx.map fun (c, i) => { c with toks := c.toks ++ ((old.caravans[i]?).map Caravan.toks).getD [] } }

/-- A held page becomes the launch's own; the PAGEIN records that still wait for it find it resident. -/
def State.takeHeld (s : State) (r : RecId) (h : RecId × Nat × Option Nat) : State :=
  let (old, k, place) := h
  match s.launch? old with
  | none => s
  | some l =>
    let s := s.endPageins old.queue l.gdesc k .ok 0
    let s := { s with
      flits := s.flits.map fun (f : Flit) => if f.launch = old then { f with launch := r } else f
      late := s.late.map fun (f : Flit) => if f.launch = old then { f with launch := r } else f
      launches := s.launches.filter fun (l : Launch) => l.id ≠ old }
    let s := s.modLaunch r fun x => x.adopt l k (nthD {} l.pages k)
    match place with
    | none => s
    | some b => ((s.modBillet b fun x => { x with page := x.page.map fun p => { p with launch := r } }).aimEdges r k b).tune b

def State.takeAll (s : State) (r : RecId) : List (RecId × Nat × Option Nat) → State
  | [] => s
  | h :: hs => (s.takeHeld r h).takeAll r hs

/-- Every ENTRY page that is not there is asked for. -/
def Launch.askEntries (l : Launch) (now : Nat) : Launch :=
  { l with pages := l.pages.zipIdx.map fun (p, k) =>
      if l.isEntry k ∧ p.place.isNone then { p with faulting := true, faultNs := now } else p }

/-- Zeroes the result descriptor (R338 step 2, R452). -/
def State.zeroResult (s : State) (cid : Nat) (r : RecId) (va : Nat) : State :=
  match s.sysWrite cid va (List.replicate 16 0) with
  | .ok s => s
  | .error (s, _) => s.permRecord cid r va

/-- Steps 2 and 3 of R338. -/
def State.enrol (s : State) (r : RecId) (q : VQueue) (x : Rec) (p : Plan) : State :=
  let s := s.zeroResult q.cid r (x.d 9)
  let l : Launch :=
    { id := r, cid := q.cid, side := q.side, gdesc := x.d 4, st := .loading, deadline := x.d 6, budget := x.w 8, resultVa := x.d 9,
      cls := max q.cls (x.w 13), graph := p.graph, edges := p.edges, caravans := p.caravans, args := p.args,
      pages := List.replicate p.graph.npage {}, notifyNs := q.notifyNs }
  let held := s.heldPages q.cid (x.d 4) r.queue
  (({ s with launches := s.launches ++ [l] }).takeAll r held).modLaunch r fun l => l.askEntries s.ns

/-- A launch that has passed validation: QUOTA, or steps 2 and 3. -/
def State.launchPlanned (s : State) (r : RecId) (q : VQueue) (x : Rec) (p : Plan) : State :=
  let mine := (p.graph.pages.filter fun g => g.pin).length
  if s.quotaOk q.cid (s.pinnedOf q.cid (some (x.d 4, r.queue)) + mine) then s.enrol r q x p else s.refuseLaunch r .quota 0

/-- R338 steps 1 to 3, with QUOTA between validation and step 2 (R403). -/
def State.launchStep (s : State) (r : RecId) (q : VQueue) (x : Rec) : State :=
  match validate q.cid (x.d 4) (x.d 11) (x.d 6) (x.w 8) (s.touchRec r) with
  | .error (s, .check code idx) =>
    (s.writeRecord { cls := clsPageLimit, cid := q.cid, detail := code * 4096 + idx, rslot := r.slot, queue := r.queue }).refuseLaunch
      r .pageLimit (code * 4096 + idx)
  | .error (s, .read va) => (s.permRecord q.cid r va).refuseLaunch r .permission 0
  | .error (s, .lost) => s.refuseLaunch r .sideLost 0
  | .ok (p, s) => s.launchPlanned r q x p

/-! ### PAGEIN (R329) -/

/-- A fault for a page; one that is faulting already, or resident, merges (R343). -/
def State.raiseFault (s : State) (r : RecId) (page : Nat) : State :=
  s.modLaunch r fun l => { l with pages := modNth (fun (p : PageState) =>
    if p.faulting ∨ p.place.isSome then p else { p with faulting := true, faultNs := s.ns }) page l.pages }

/-- A name for what a PAGEIN record holds, apart from every record's. -/
def State.freshHold (s : State) (r : RecId) : RecId :=
  let n := s.launches.foldl (fun m (l : Launch) => if l.id.queue = r.queue then max m (l.id.slot / 65536) else m) 0
  ⟨r.queue, r.slot + 65536 * (n + 1)⟩

/-- The hold of a descriptor's page in a queue. -/
def State.holdOf (s : State) (cid gdesc queue page : Nat) : Option Launch :=
  s.launches.find? fun l => l.pagein ∧ l.cid = cid ∧ l.gdesc = gdesc ∧ l.id.queue = queue ∧
    (nthD {} l.pages page).pagein.isSome = true

/-- The checks of R98 on a PAGEIN's descriptor, before its page is requested, and its PAGE below NPAGE. -/
def checkPagein (cid gdesc page : Nat) : Reader Plan :=
  (checkGraph cid gdesc).andThen fun (p, _) => (Reader.require (decide (page < p.graph.npage)) 2 0).andThen fun _ => .ret p

/-- A PAGEIN raises the fault of its page. -/
def State.holdPage (s : State) (r : RecId) (q : VQueue) (x : Rec) : State :=
  let k := x.w 6
  match checkPagein q.cid (x.d 4) k s with
  | .error (s, .check code idx) =>
    (s.writeRecord { cls := clsPageLimit, cid := q.cid, detail := code * 4096 + idx, rslot := r.slot, queue := r.queue }).outcome
      r .pageLimit (code * 4096 + idx)
  | .error (s, .read va) => (s.permRecord q.cid r va).outcome r .permission 0
  | .error (s, .lost) => s.outcome r .sideLost 0
  | .ok (p, s) =>
    if !s.quotaOk q.cid (s.pinnedOf q.cid none + 1) then s.outcome r .quota 0
    else
      let l : Launch :=
        { id := s.freshHold r, cid := q.cid, side := q.side, gdesc := x.d 4, st := .loading, deadline := 2 ^ 64 - 1, budget := 0,
          resultVa := 0, cls := q.cls, graph := p.graph, edges := p.edges, caravans := p.caravans, pagein := true, notifyNs := q.notifyNs,
          pages := setNth k { faulting := true, faultNs := s.ns, pagein := some r } (List.replicate p.graph.npage {}) }
      ({ s with launches := s.launches ++ [l] }).modRec r fun y => { y with progress := 1 }

def execPagein (r : RecId) (s : State) : Answer :=
  .next (s.runRec r 7 fun q x =>
    match s.holdOf q.cid (x.d 4) r.queue (x.w 6) with
    | some l =>
      if (l.placeOf (x.w 6)).any fun b => (s.billet b).load.any fun d => d.phase == .closed then (s.touchRec r).outcome r .ok 0
      else (s.touchRec r).raiseFault l.id (x.w 6)
    | none => if x.progress = 1 then s.outcome r .fault 0 else (s.touchRec r).holdPage r q x)

/-- Ends a launch whose page cannot be made resident, or gives the PAGEIN that holds the page its status (R344 step 5). -/
def State.failLaunch (s : State) (r : RecId) (st : Status) (detail : Nat) : State :=
  match s.launch? r with
  | none => s
  | some l =>
    let s := s.endLaunchWith r st detail
    if l.pagein then
      ((List.range l.pages.length).filter fun k => (nthD {} l.pages k : PageState).pagein.isSome).foldl
        (fun s k => s.endPageins r.queue l.gdesc k st detail) s
    else s

/-! ### Gates (R338 step 4, R380) -/

/-- The billets of a launch's ENTRY pages, when all of them have completed step 5 of R270. -/
def State.entriesReady (s : State) (l : Launch) : Bool :=
  (List.range l.pages.length).all fun k => !l.isEntry k || (match l.placeOf k with
    | none => false
    | some b => (s.billet b).load.any (fun d => d.phase == .closed) && (s.billet b).initQuiet && !(s.billet b).isFrozen)

/-- Loaded pages whose gates are closed and may open. -/
def State.closedPages (s : State) (r : RecId) : List Nat :=
  (s.billetsOf r).filter fun b => (s.billet b).load.any (fun d => d.phase == .closed) && (s.billet b).initQuiet &&
    !(s.billet b).isFrozen && (s.billet b).evict.isNone

def execLaunchGatesOpen (r : RecId) (s : State) : Answer :=
  .next (match s.launch? r with
    | none => s
    | some l =>
      if !s.deskUp l.side || l.pagein then s
      else match l.st with
        | .loading => if s.entriesReady l then
            (s.modBillets (s.closedPages r) Billet.open).modLaunch r fun x => { x with st := .running } else s
        | .running => s.modBillets (s.closedPages r) Billet.open
        | _ => s)

/-! ### Argument tokens (R338 step 5) -/

def Launch.argOff (l : Launch) (a : ArgRec) : Bool :=
  ((l.argView.find? fun q => q.1 == a.page && q.2.1 == a.tile && q.2.2.1 == a.ch).map fun q => q.2.2.2).getD true

def Launch.argFc (l : Launch) (a : ArgRec) : Nat := (Tbl.get (a.page, a.tile, a.ch) l.argNext).getD 0

/-- Sends the first argument token left toward its channel. -/
def State.injectArg (s : State) (l : Launch) (a : ArgRec) (rest : List ArgRec) (b : Nat) : State :=
  let desk := deskOf l.side
  let now := (s.side l.side).fc
  let time := s.oneWay desk b none (some a.tile)
  (s.modLaunch l.id fun x => { x with args := rest, argNext := Tbl.put (a.page, a.tile, a.ch) (now + paceOf (2 * time)) x.argNext }).sendFlit
    { src := ⟨desk, 0⟩, ch := 0, dest := .chan b a.tile a.ch, gen := (s.billet b).gen, cid := l.cid, launch := l.id, tok := a.tok,
      due := now + time, checked := true }

def execArgumentTokenInject (r : RecId) (s : State) : Answer :=
  .next (match s.launch? r with
    | none => s
    | some l =>
      match l.args with
      | [] => s
      | a :: rest =>
        match l.placeOf a.page with
        | none => s
        | some b =>
          if l.st == .running && s.deskUp l.side && s.drainOpen b && !l.argOff a && decide (l.argFc a ≤ (s.side l.side).fc) then
            s.injectArg l a rest b
          else s)

/-! ### Checkout time and deadline (R379, R380, R382, R383) -/

/-- What ends a stop at checkout time or when its debugger leaves (R380). -/
def State.endStop (s : State) (l : Launch) : State :=
  if l.stopLoading then s.endLaunch l.id (if l.cause = 0 then .ok else .fault) else s.checkoutSequence l.id l.cause

/-- Checkout time by the launch's state. -/
def State.checkoutNow (s : State) (l : Launch) : State :=
  match l.st with
  | .loading => s.endLaunch l.id .ok
  | .running => s.checkoutSequence l.id 0
  | .stopped => s.endStop l
  | _ => s

def execCheckoutTimeReached (r : RecId) (s : State) : Answer :=
  .next (match s.launch? r with
    | none => s
    | some l => if s.deskUp l.side && l.checkoutNs.any fun t => decide (t ≤ (s.ns : Int)) then s.checkoutNow l else s)

def execDeadlineReached (r : RecId) (s : State) : Answer :=
  .next (match s.launch? r with
    | none => s
    | some l =>
      if s.deskUp l.side && l.st == .checkout && l.entered != some (s.side l.side).fc && l.deadline != 2 ^ 64 - 1 && decide (l.deadline ≤ s.ns) then
        ((s.freeze (s.billetsOf r) .deadline).modLaunch r fun x => { x with late := true }).endLaunch r .ok
      else s)

end Sys2Proof.Machine
end

