-- ==== Sys2Proof/Machine/Pager.lean ====
section
/-! DEFINITION. The pager's faults and loads (08 R270 steps 1 to 3, 13 R343, R344, R353): raising and serving a configuration page fault,
the choice of a billet or victim, streaming an image, the tiles' CRC. Choices and readings: log entries 28, 29, 73. -/

namespace Sys2Proof.Machine

/-! ### Raising a fault (R343) -/

/-- The store of an edge into a page holds THRESH DATA tokens. -/
def Launch.thresholdMet (l : Launch) (page : Nat) : Bool :=
  l.edges.any fun e => e.cons = page && e.st != .direct && decide (e.thresh ≤ e.dataCount)

def execPageFault (r : RecId) (page : Nat) (s : State) : Answer :=
  .next (match s.launch? r with
    | none => s
    | some l => if s.deskUp l.side && l.st == .running && l.thresholdMet page then s.raiseFault r page else s)

/-! ### Billets and victims (R344 step 2) -/

/-- Billets a context holds (RESIDENT of R341). -/
def State.residentOf (s : State) (cid : Nat) : Nat := (s.billets.filter fun p => p.2.page.any fun q => q.cid = cid).length

/-- An eviction that takes a page to a billet holds that billet. -/
def State.targeted (s : State) (b : Nat) : Bool := s.billets.any fun p => p.2.evict.any fun e => e.relocate == some b

/-- A role change or sparing action keeps the billet out of service (R430 step 1, R432). -/
def State.withheld (s : State) (b : Nat) : Bool :=
  let d := s.side (sideOf b)
  (d.roleTo.isSome && d.roleHit.contains (layerOf b)) ||
  d.spareWanted.any fun p => (p.1 == layerOf b || (p.1 == layerOf b + 1 && nthD .off d.roles p.1 == .memory)) && p.2.1 / 4 == bxOf b &&
    p.2.2 / 4 == byOf b

/-- A tenant billet that a page may be loaded into. -/
def State.isFree (s : State) (b : Nat) : Bool :=
  (s.billet b).page.isNone && (s.billet b).evict.isNone && !s.targeted b && !s.withheld b

/-- Free tenant billets of a side; a side that is ISOLATED has none. -/
def State.freeBillets (s : State) (side : Nat) : List Nat :=
  if (s.side side).iso || (s.side 0).dead then [] else (s.tenantBillets side).filter s.isFree

/-- Time since a page's last use, in a unit that every clock divides (R344). -/
def State.unused (s : State) (b : Nat) : Nat :=
  (s.now b - (s.billet b).lastUse) * (26 * 21 * 16 / clkDiv (s.side (sideOf b)).clk)

/-- A billet that may be a victim: unpinned, not loading, not being evicted; a page that a PAGEIN record holds has its gates closed. -/
def State.victimOk (s : State) (b : Nat) : Bool :=
  let x := s.billet b
  x.evict.isNone && !s.withheld b && (x.page.any fun p => (s.launch? p.launch).any fun l =>
    l.st != .checkout && l.mayLose p.page && x.load.all fun d => l.pagein && d.phase == .closed)

/-- How early a billet is taken among candidates: least slack, longest unused. -/
def State.victimBefore (s : State) (a b : Nat) : Bool :=
  let of (b : Nat) : Option Int := (s.billet b).page.bind fun p => (s.launch? p.launch).bind fun l => l.slack s.ns
  if of a ≠ of b then slackLt (of a) (of b) else decide (s.unused a > s.unused b)

/-- The earliest of some candidates. -/
def State.earliest (s : State) (bs : List Nat) : Option Nat :=
  bs.foldl (fun best b => match best with
    | none => some b
    | some v => if s.victimBefore b v then some b else best) none

/-- The page that EVICT has made the first victim of its context (R329). -/
def State.markedFirst (s : State) (b : Nat) : Bool :=
  (s.billet b).page.any fun p => (s.launch? p.launch).any fun l => (nthD {} l.pages p.page : PageState).evictFirst

/-- The victim among candidates; in its context, what EVICT has marked goes first. -/
def State.victim (s : State) (bs : List Nat) : Option Nat :=
  (s.earliest bs).bind fun v =>
    let marked := bs.filter fun b => s.cidOf b == s.cidOf v && s.markedFirst b
    if marked.isEmpty then some v else s.earliest marked

/-- The victims among pages of contexts with a property. -/
def State.victimIn (s : State) (fits : Nat → Bool) (p : Nat → Bool) : Option Nat :=
  s.victim ((s.billets.map Prod.fst).filter fun b => fits b && s.victimOk b && (s.billet b).page.any fun q => p q.cid)

/-- Asks for a page's eviction; one in progress goes on. -/
def State.wantEvict (s : State) (b : Nat) : State :=
  s.modBillet b fun x => { x with evict := if x.page.isSome && x.evict.isNone then some {} else x.evict }

def State.wantEvicts (s : State) : List Nat → State
  | [] => s
  | b :: bs => (s.wantEvict b).wantEvicts bs

/-- A context's unpinned pages, least recently used first (R342). -/
def State.lruPages (s : State) (cid : Nat) : List Nat :=
  let bs := (s.billets.map Prod.fst).filter fun b => s.victimOk b && (s.billet b).page.any fun p => p.cid = cid
  let top := bs.foldl (fun m b => max m (s.unused b)) 0
  sortBy (fun b => top - s.unused b) bs

/-! ### Serving a fault (R344) -/

/-- A page takes a billet and starts to load; during a clock step of its side the billet stands frozen (R428). -/
def State.startLoad (s : State) (r : RecId) (k b : Nat) : State :=
  match s.launch? r with
  | none => s
  | some l =>
    let ps : PageState := nthD {} l.pages k
    let s := s.modLaunch r fun x => { x with pages := setNth k { ps with place := some b, faulting := false } x.pages }
    let held (x : Billet) : List Freeze := if (s.side (sideOf b)).stepTo.isSome && !x.frozen.contains .clock then .clock :: x.frozen else x.frozen
    s.modBillet b fun x => { x with
      frozen := held x
      page := some ⟨l.cid, r, k⟩, load := some { phase := .stream, image := [], first := !ps.loadedOnce }, evict := none, guardDrop := 0 }

/-- The image of a page, peeked at. -/
def State.peekImage (s : State) (cid : Nat) (g : GPage) : List Word :=
  match readBytes cid g.image g.size s with
  | .ok (bs, _) => wordsOfBytes (g.size / 4) bs
  | .error _ => []

/-- The record size of a page as step 1 reserves it; the least where the image cannot be read, which its load then finds. -/
def State.reserveSize (s : State) (ws : List Word) : Nat := if ws.isEmpty then recordSize 0 0 0 else imgRecordSize ws s.maxCap

/-- Reserves the record of a page; none where the page store has no room. A page keeps its reservation, which grows where the largest
CAP in service has grown. -/
def State.reserve (s : State) (l : Launch) (k : Nat) (ws : List Word) : Option State :=
  let more := s.reserveSize ws - (nthD {} l.pages k : PageState).reserved
  if more ≤ s.storeLeft l.cid then
    some ((s.modCtx l.cid fun c => { c with storeUsed := c.storeUsed + more }).modLaunch l.id fun x =>
      { x with pages := modNth (fun (p : PageState) => { p with reserved := p.reserved + more }) k x.pages })
  else none

/-- Step 1 of R344. A launch's pinned page reserves its record when it is moved or evicted, not when it is loaded (R401, R404; log entry
28); a PAGEIN's page reserves it as any other. -/
def State.reserveFault (s : State) (l : Launch) (k : Nat) (ws : List Word) : Option State :=
  if !l.pagein && l.pinnedPage k && (nthD {} l.pages k : PageState).reserved == 0 then some s else s.reserve l k ws

/-- The billets a page fits in; where it fits in none, its load is refused (R430). -/
def State.fitsIn (s : State) (ws : List Word) (b : Nat) : Bool :=
  capOk ws (s.mtCap b) || !((s.tenantBillets 0 ++ s.tenantBillets 1).any fun c => capOk ws (s.mtCap c))

/-- A victim's eviction, with the page that takes its billet. -/
def State.evictFor (s : State) (v : Nat) (p : Resident) : State :=
  s.modBillet v fun x => { x with evict := some { next := some p } }

/-- Billets of other contexts that are being evicted for pages of a context. -/
def State.comingTo (s : State) (cid : Nat) : Nat :=
  (s.billets.filter fun p => (p.2.evict.any fun e => e.relocate.isNone && e.next.any fun n => n.cid = cid) &&
    !(p.2.page.any fun q => q.cid = cid)).length

/-- A fault takes a billet: free, or a victim's; none while it waits (R344 steps 2 to 4). -/
def State.takeBillet (s : State) (l : Launch) (k : Nat) (ws : List Word) : Option State :=
  let me : Resident := ⟨l.cid, l.id, k⟩
  let c := s.ctx l.cid
  let held := s.residentOf l.cid + s.comingTo l.cid
  let fits := s.fitsIn ws
  let own := s.victimIn fits (· == l.cid)
  if s.residentOf l.cid > c.qbillet.toNat then none
  else if held ≥ c.qbillet.toNat then own.map fun v => s.evictFor v me
  else
    let home := l.homeSide k
    let near := (s.freeBillets home).filter fits
    let free := if near.isEmpty then (s.freeBillets (1 - home)).filter fits else near
    match free with
    | b :: bs => let (n, s) := s.draw; some (s.startLoad l.id k (nthD b (b :: bs) (n % (bs.length + 1))))
    | [] =>
      match own with
      | some v => some (s.evictFor v me)
      | none => (s.victimIn fits fun c => decide (s.residentOf c > (s.ctx c).qreserve.toNat)).map fun v => s.evictFor v me

/-- Faults of a side's launches that wait for service, in their order; after a wake a launch's pinned pages come first (R449). -/
def State.faultQueue (s : State) (side : Nat) : List (Rank × RecId × Nat) :=
  byRank (s.launches.flatMap fun (l : Launch) =>
    if l.side = side ∧ (l.st = .running ∨ l.st = .loading) ∧ s.ctxOpen l.cid = true then
      (List.range l.pages.length).filterMap fun k =>
        let p : PageState := nthD {} l.pages k
        let next := s.billets.any fun q => q.2.evict.any fun e => e.next == some ⟨l.cid, l.id, k⟩
        if p.faulting ∧ p.place = none ∧ next = false ∧ (l.waking = true → l.pinnedPage k = true) then
          some (l.rank s.ns, l.id, k)
        else none
    else [])

/-- The QUOTA record and the end of a launch whose page store has no room (R344 step 1). -/
def State.quotaFails (s : State) (l : Launch) (k : Nat) : State :=
  (s.noteRecord l.id { cls := clsQuota, cid := l.cid, page := k, rslot := l.id.slot, queue := l.id.queue }).failLaunch l.id .quota 0

/-- Serves one fault; none while it waits. -/
def State.serveFault (s : State) (r : RecId) (k : Nat) : Option State :=
  (s.launch? r).bind fun l => (l.graph.pages[k]?).bind fun g =>
    let ws := s.peekImage l.cid g
    match s.reserveFault l k ws with
    | none => some (s.quotaFails l k)
    | some s => (s.launch? r).bind fun l => s.takeBillet l k ws

/-- A fault that waits for a billet keeps what step 1 has reserved. -/
def State.reservedFor (s : State) (r : RecId) (k : Nat) : State :=
  ((s.launch? r).bind fun l => (l.graph.pages[k]?).bind fun g => s.reserveFault l k (s.peekImage l.cid g)).getD s

/-- The first fault in order that can be served; those before it wait. -/
def State.serveFirst (s : State) : List (Rank × RecId × Nat) → State
  | [] => s
  | f :: fs => (s.serveFault f.2.1 f.2.2).getD ((s.reservedFor f.2.1 f.2.2).serveFirst fs)

/-! ### The order of service (R339, R390) -/

/-- A page whose load is not under way, of a launch that is not in CHECKOUT (R388). -/
def State.mayEvict (s : State) (b : Nat) (p : Resident) : Bool :=
  (match (s.billet b).load with
   | none => true
   | some d => d.phase == .closed || d.phase == .running) &&
    (s.launch? p.launch).any fun l => l.st != .checkout

def State.launchRanks (s : State) (side : Nat) : List Rank := (s.readyLaunches side).map Prod.fst

/-- Ranks of the faults that find a billet. -/
def State.faultRanks (s : State) (side : Nat) : List Rank :=
  ((s.faultQueue side).filter fun f => (s.serveFault f.2.1 f.2.2).isSome).map Prod.fst

/-- Ranks of the evictions that free a billet for a fault and may start. -/
def State.evictRanks (s : State) (side : Nat) : List Rank :=
  s.billets.filterMap fun (b, x) =>
    match x.page, x.evict with
    | some p, some e =>
      if e.phase == .wanted && s.mayEvict b p then
        (e.next.bind fun n => s.launch? n.launch).bind fun l => if l.side = side then some (l.rank s.ns) else none
      else none
    | _, _ => none

/-- Nothing that a side's Front Desk could serve now goes before a rank. -/
def State.first (s : State) (side : Nat) (rs : List Rank) (k : Rank) : Bool := s.deskUp side && rs.all fun x => !x.before k

/-- A lowered QBILLET evicts unpinned pages until RESIDENT is within it (R342); pages that leave for others count as gone. -/
def State.shrink (s : State) (cid : Nat) : State :=
  let leaving := (s.billets.filter fun p => (p.2.page.any fun q => q.cid = cid) && p.2.evict.isSome).length
  s.wantEvicts ((s.lruPages cid).take (s.residentOf cid - leaving - (s.ctx cid).qbillet.toNat))

def State.shrinkAll (s : State) : State := (s.contexts.map Prod.fst).foldl State.shrink s

/-- Contexts above their QBILLET lose pages; then the first fault that finds a billet is served, where neither a ready LAUNCH nor an
eviction for a fault goes before it. -/
def execPageFaultServe (side : Nat) (s : State) : Answer :=
  .next (if s.deskUp side then
    let s := s.shrinkAll
    s.serveFirst ((s.faultQueue side).filter fun f => s.first side (s.launchRanks side ++ s.evictRanks side) f.1)
  else s)

/-- A LAUNCH goes when it is the first of its side's ready LAUNCH records, and no fault that finds a billet and no eviction for a fault
goes before it. -/
def State.launchServed (s : State) (side : Nat) (r : RecId) : Bool :=
  match (byRank (s.readyLaunches side)).head? with
  | some (k, q) => q == r && s.first side (s.faultRanks side ++ s.evictRanks side) k
  | none => false

def execLaunch (r : RecId) (s : State) : Answer :=
  .next (s.runRec r 1 fun q x => if !x.started && s.launchServed q.side r then s.launchStep r q x else s)

/-! ### Loading (R270 steps 1 to 3) -/

/-- The record of a load that is refused: its billet, page and launch. -/
def loadInfo (b : Nat) (p : Resident) (cls detail addr : Nat) : FaultInfo :=
  { cls := cls, cid := p.cid, baddr := b, page := p.page, detail := detail, addr := addr, rslot := p.launch.slot, queue := p.launch.queue }

/-- The page does not become resident (R344 step 5). -/
def State.loadFails (s : State) (p : Resident) (f : FaultInfo) (st : Status) (detail : Nat) : State :=
  (s.writeRecord f).failLaunch p.launch st detail

/-- A UE of structure code 0x07 at a load, with its copy in the device fault log (R270 step 3, R419, R420). -/
def State.loadUe (s : State) (b : Nat) (p : Resident) : State :=
  let f := loadInfo b p clsUe 7 0
  (s.logRecord f).loadFails p f .fault 0

/-- The billet as the streamed image configures it; CTRL tokens that have come for the page stay (R272). -/
def Billet.configured (x : Billet) (img : List Byte) (ws : List Word) (g : GPage) (first : Bool) (busEnd : Nat) : Billet :=
  let y := imgBillet ws g.bases
  { y with
    handlers := (y.handlers.zip x.handlers).map fun p => { p.1 with pend := p.2.pend }
    ctrl := x.ctrl, arrivals := x.arrivals, page := x.page, evict := x.evict, gen := x.gen, l1 := x.l1, frozen := x.frozen, nextId := x.nextId, lastUse := x.lastUse
    load := some { phase := if (usedTiles ws).isEmpty then .steward else .crc, image := img, first := first, busEnd := busEnd } }

/-- fc that some bytes take on the configuration bus, at 64 in an fc (R270 step 2). -/
def busFc (n : Nat) : Nat := (n + 63) / 64

/-- Nothing is on its way over the configuration bus of a side. -/
def State.busFree (s : State) (side : Nat) : Bool :=
  s.billets.all fun p => sideOf p.1 != side || p.2.load.all fun d => decide (d.busEnd ≤ s.now p.1)

/-- The input channels of a page that edges of its graph end in, once an edge (R261). -/
def State.fedBy (s : State) (p : Resident) : List (Nat × Nat) :=
  ((s.launch? p.launch).map fun l => (l.edges.filter fun e => e.cons = p.page).map fun e => (e.ctile, e.cch)).getD []

/-- Steps 1 and 2 of R270 for a page's billet. What R98 checks goes before what the loader checks. -/
def State.streamPage (s : State) (b : Nat) (p : Resident) (g : GPage) (ps : PageState) : State :=
  match readBytes p.cid g.image g.size s with
  | .error (s, .read va) => s.loadFails p (loadInfo b p clsPermission inGlobal va) .permission 0
  | .error (s, .lost) => s.failLaunch p.launch .sideLost 0
  | .error (s, _) => s
  | .ok (img, s) =>
    let ws := wordsOfBytes (g.size / 4) img
    if !capOk ws (s.mtCap b) then s.loadFails p (loadInfo b p clsPageLimit (5 * 4096 + p.page) 0) .pageLimit (5 * 4096 + p.page)
    else match imgRefused (s.fedBy p) img with
    | some c =>
      let f := loadInfo b p clsInvalidEncoding 0 c.off
      s.loadFails p (match c.at_ with
        | some (t, n) => { f with tile := t, slot := n }
        | none => f) .invalidEncoding 0
    | none =>
      if ps.record.any fun r => !r.sound then s.loadUe b p
      else s.modBillet b fun x => x.configured img ws g (!ps.loadedOnce) (s.now b + busFc g.size)

/-- Pages of one launch stream in page order (R338 step 3). -/
def State.streamsNext (s : State) (p : Resident) : Bool :=
  (s.billetsOf p.launch).all fun c => !((s.billet c).load.any fun d => d.phase == .stream) ||
    (s.billet c).page.any fun q => decide (p.page ≤ q.page)

def execPageLoad (b : Nat) (s : State) : Answer :=
  .next (match (s.billet b).page, (s.billet b).load with
    | some p, some d =>
      (match s.launch? p.launch with
       | none => s
       | some l =>
         if d.phase == .stream && s.power == .c0 && !(s.billet b).isFrozen && s.streamsNext p && s.busFree (sideOf b) then
           (match l.graph.pages[p.page]? with
            | none => s
            | some g => s.streamPage b p g (nthD {} l.pages p.page))
         else s)
    | _, _ => s)

/-- The tiles whose acknowledgement a load waits for. -/
def Load.waits (d : Load) (t : Nat) : Bool :=
  (usedTiles (wordsOfBytes (d.image.length / 4) d.image)).contains t && !d.acked.contains t

/-- A tile's CRC agrees; with the last one the steward goes on. -/
def Load.ack (d : Load) (t : Nat) : Load :=
  let d : Load := { d with acked := t :: d.acked }
  { d with phase := if (usedTiles (wordsOfBytes (d.image.length / 4) d.image)).all d.acked.contains then .steward else .crc }

/-- A tile's CRC disagrees once: its segment is streamed again. -/
def Load.again (d : Load) (t now : Nat) : Load :=
  { d with
    restreamed := t :: d.restreamed
    busEnd := now + busFc (tileLen (wordsOfBytes (d.image.length / 4) d.image) t) }

def execTileCrcAck (t : TileAddr) (good : Bool) (s : State) : Answer :=
  .next (match (s.billet t.b).page, (s.billet t.b).load with
    | some p, some d =>
      if d.phase == .crc && s.power == .c0 && !(s.billet t.b).isFrozen && decide (d.busEnd ≤ s.now t.b) && d.waits t.t then
        if good then s.modBillet t.b fun x => { x with load := some (d.ack t.t) }
        else if d.restreamed.contains t.t then s.loadUe t.b p
        else s.modBillet t.b fun x => { x with load := some (d.again t.t (s.now t.b)) }
      else s
    | _, _ => s)

end Sys2Proof.Machine
end

