-- ==== Sys2Proof/Machine/Evict.lean ====
section
/-! DEFINITION. Eviction (13 R345 to R348, R351 to R353, 14 R388, R393): its steps to the context record, the freeze and scan past its
budget, the generation flush, and what takes the billet. Choices and readings: log entries 28, 29. -/

namespace Sys2Proof.Machine

/-! ### Steps 1 and 2 of R345 -/

/-- An edge into the page: WAYSTATION unless it has an edge caravan; its views follow the store from here on (R267, R351). -/
def State.edgeLeaves (s : State) (r : RecId) (b : Nat) (e : Edge) : State :=
  let out := BitVec.ofNat 16 (((Tbl.get e.cch ((s.billet b).tile e.ctile).inCh).map InChan.seqNext).getD 0)
  if e.st = .direct then
    let s := s.modEdge r e.id fun x => { x with st := .waystation, nextIn := x.seq, out := out, off := true, view := true, nextFc := 0 }
    match s.launch? r with
    | none => s
    | some l =>
      let s := s.assertProducer l e
      match l.placeOf e.prod with
      | none => s
      | some p => s.modBillet p fun x => { x with steward := true }
  else s.modEdge r e.id fun x => { x with view := true }

def State.edgesLeave (s : State) (r : RecId) (b : Nat) : List Edge → State
  | [] => s
  | e :: es => (s.edgeLeaves r b e).edgesLeave r b es

/-- Off signals of the consumer channel on their way to the stores that feed the page are void. -/
def State.voidDrains (s : State) (r : RecId) (ids : List Nat) : State :=
  { s with signals := s.signals.filter fun g => match g.hearer with
      | .drain q e => !(q == r && ids.contains e)
      | _ => true }

/-- Argument of entry 31: the page that takes the billet, or 0x1FF (R345 step 2). -/
def Evict.arg (e : Evict) : Word :=
  match e.relocate, e.next with
  | none, some n => BitVec.ofNat 32 n.page
  | _, _ => 0x1FF

/-- Starts the eviction of a billet's page. -/
def State.startEvict (s : State) (b : Nat) (p : Resident) (e : Evict) : State :=
  let into := ((s.launch? p.launch).map fun l => l.edges.filter fun e => e.cons = p.page).getD []
  let s := (s.edgesLeave p.launch b into).voidDrains p.launch (into.map Edge.id)
  let s := s.modBillet b fun x => { x.closeGates none with
    drainOn := true, load := none, evict := some { e with phase := .drain, startNs := s.ns, startFc := s.now b, quiet := 0 } }
  if (nthD {} (s.billet b).handlers 31 : Handler).st = .armed then
    s.ctrlArrive b 31 { tag := { kind := .ctrl }, pay := .word e.arg }
  else s

/-- Reserves the record of a page whose load has not: a pinned one; none where the page store has no room (R401). -/
def State.reservePinned (s : State) (p : Resident) : Option State :=
  match s.launch? p.launch with
  | none => some s
  | some l =>
    if !l.pinnedPage p.page && (nthD {} l.pages p.page : PageState).reserved != 0 then some s
    else match l.graph.pages[p.page]? with
      | none => some s
      | some g => s.reserve l p.page (s.peekImage p.cid g)

/-- An eviction that frees a billet for a fault is served in that fault's order (R390). -/
def State.evictTurn (s : State) (e : Evict) : Bool :=
  match e.next.bind fun n => s.launch? n.launch with
  | some l => s.first l.side (s.launchRanks l.side ++ s.faultRanks l.side ++ s.evictRanks l.side) (l.rank s.ns)
  | none => true

def execPageEvict (b : Nat) (s : State) : Answer :=
  .next (match (s.billet b).page, (s.billet b).evict with
    | some p, some e =>
      if e.phase == .wanted && s.power == .c0 && s.mayEvict b p && s.evictTurn e then
        (match s.reservePinned p, s.launch? p.launch with
         | some s, _ => s.startEvict b p e
         | none, some l => s.quotaFails l p.page
         | none, none => s)
      else s
    | _, _ => s)

/-! ### Step 3 -/

/-- fc without a handler or drain firing, and fc in all, after which the blocks are gated. -/
def drainQuiet : Nat := 64
def drainLimit : Nat := 8192

def execDrainGateTimeout (b : Nat) (s : State) : Answer :=
  .next (match (s.billet b).evict with
    | none => s
    | some e =>
      if e.phase == .drain && s.active b && (decide (drainQuiet ≤ e.quiet) || decide (e.startFc + drainLimit ≤ s.now b)) then
        s.modBillet b fun x => { x with handlerGated := true, drainOn := false, evict := some { e with phase := .boundary } }
      else s)

/-- A tile's issued firings have written their results; what waits in wait slots, watch units, copies, at or behind a held access
whose lower lanes have performed goes with the page (R217, R248). -/
def Tile.atBoundary (t : Tile) : Bool :=
  t.flights.all (fun f => f.hold.isSome) && t.flying.isEmpty && t.mpairs.isEmpty &&
    (match t.port with
     | [] => true
     | a :: _ => a.held && a.locs.isEmpty)

/-- The tile-task boundary of a billet. -/
def State.atBoundary (s : State) (b : Nat) : Bool :=
  let x := s.billet b
  x.tiles.all Tile.atBoundary && (x.releases.isEmpty || x.tiles.any fun t => t.port.any Acc.held) && x.args.isEmpty &&
    s.flits.all fun f => !(f.edge.isNone && f.dest.billet == some b)

/-! ### Steps 4 to 6 -/

/-- A relocated page loads in its new billet; where that has meanwhile gone out of service it asks for another (R430). The fault of a launch
that is STOPPED waits; in CHECKOUT the page stays in its record (R344 step 3, R382, R388). -/
def State.loadMoved (s : State) (p : Resident) (t : Nat) : State :=
  match (s.launch? p.launch).map Launch.st with
  | some .running | some .loading =>
    if s.withheld t || !(s.tenantBillets (sideOf t)).contains t then s.raiseFault p.launch p.page else s.startLoad p.launch p.page t
  | some .stopped => s.raiseFault p.launch p.page
  | _ => s

/-- The page that waits for a billet loads there, while it still asks for one and its context has room within QBILLET (R356), and the billet
is in service (R430). -/
def State.loadNext (s : State) (b : Nat) (n : Resident) : State :=
  match s.launch? n.launch with
  | none => s
  | some l =>
    let q : PageState := nthD {} l.pages n.page
    if s.withheld b = false ∧ q.faulting ∧ q.place = none ∧ (l.st = .running ∨ l.st = .loading) ∧ s.residentOf l.cid < (s.ctx l.cid).qbillet.toNat then
      s.startLoad n.launch n.page b
    else s

/-- A billet that has been freed loads the page that waits for it; a checkout that waited for the eviction goes on (R388). -/
def State.afterFree (s : State) (b : Nat) (p : Option Resident) (e : Evict) : State :=
  let s := match p, e.relocate, e.next with
    | some p, some t, _ => s.loadMoved p t
    | _, none, some n => s.loadNext b n
    | _, _, _ => s
  match p with
  | none => s
  | some p => s.raiseWaiting p.launch

/-- The page has left: its record stands, the billet is freed, behind a generation flush where R352 asks for one. -/
def State.pageLeaves (s : State) (b : Nat) (p : Resident) (e : Evict) (version : Nat) : State :=
  let (n, s) := s.draw
  let rec_ := { s.saved b version p with crc := BitVec.ofNat 32 n }
  let s := s.releaseCaches b .device
  let s := s.modBillet b fun x => { x with l1 := [], l1used := [] }
  let s := { s with
    sparse := s.sparse.filter fun (o : SparseOp) => o.tile.b != b
    flits := s.flits.filter fun (f : Flit) => !(f.edge.isNone && f.dest.billet == some b) }
  let s := s.modLaunch p.launch fun l => { l with pages := modNth (fun (y : PageState) =>
    { y with place := none, record := some rec_, evictFirst := false }) p.page l.pages }
  let s := (s.clearScr b).freeBillet b e
  if (s.billet b).evict.isSome then s else s.afterFree b (some p) e

def execTileTaskBoundary (b : Nat) (s : State) : Answer :=
  .next (match (s.billet b).page, (s.billet b).evict with
    | some p, some e => if e.phase == .boundary && s.active b && s.atBoundary b then s.pageLeaves b p e 1 else s
    | _, _ => s)

/-! ### Past the budget (R393) -/

/-- The eviction budget in ns. -/
def evictBudget : Nat := 50000

def execEvictionBudgetExpire (b : Nat) (s : State) : Answer :=
  .next (match (s.billet b).page, (s.billet b).evict with
    | some p, some e =>
      if (e.phase == .drain || e.phase == .boundary) && s.power == .c0 && decide (e.startNs + evictBudget ≤ s.ns) then
        (s.freeze (s.billetsOf p.launch) .budget).modBillet b fun x => { x with evict := some { e with phase := .scan } }
      else s
    | _, _ => s)

def execScanOutComplete (b : Nat) (s : State) : Answer :=
  .next (match (s.billet b).page, (s.billet b).evict with
    | some p, some e =>
      if e.phase == .scan && s.power == .c0 then
        let others := (s.billetsOf p.launch).filter fun c => c ≠ b
        let left := s.pageLeaves b p e 2
        if others.any fun c => (s.billet c).evict.any fun f => f.phase == .scan then left else left.unfreeze others [.budget]
      else s
    | _, _ => s)

/-! ### The generation flush (R352) -/

/-- One flit, wherever it is on its way. -/
def Flit.same (f g : Flit) : Bool :=
  f.launch == g.launch && f.src == g.src && f.ch == g.ch && f.dest == g.dest && f.edge == g.edge && f.seq == g.seq &&
    f.gen == g.gen && f.tok == g.tok

def execGenerationFlushComplete (b : Nat) (s : State) : Answer :=
  .next (match (s.billet b).evict with
    | none => s
    | some e =>
      if e.phase == .flush && s.flits.all fun f => !(e.marks.any f.same) then
        (s.setBillet b (s.billet b).freed).afterFree b (s.billet b).page e
      else s)

end Sys2Proof.Machine
end

