-- ==== Sys2Proof/Machine/Mailbox.lean ====
section
/-! DEFINITION. The management mailbox (18 R438 to R443, 12 R321, 13 R341, R342, R369 to R371, 14 R374, R375, 15 R401, 16 R412, R420,
R421): a GO write, its checks, and the commands on contexts, queues, translations, time and registers. Choices and readings: log entries
10, 16, 31, 32, 39, 67, 70, 74. -/

namespace Sys2Proof

/-- Argument i of a request. -/
def MbReq.arg (m : MbReq) (i : Nat) : Nat := (Machine.nthD 0 m.args i).toNat
def MbReq.arg2 (m : MbReq) (i : Nat) : Nat := 2 ^ 32 * m.arg (i + 1) + m.arg i

/-- PF0, the one issuer of management commands. -/
def MbReq.pf0 (m : MbReq) : Bool := m.fn == 0

/-- An argument has no bit at or above n. -/
def MbReq.fits (m : MbReq) (i n : Nat) : Bool := decide (m.arg i < 2 ^ n)

/-- A virtual address in two words (R442). -/
def MbReq.vaOk (m : MbReq) (i : Nat) : Bool := m.fits (i + 1) 16

/-- No argument word from one on, up to the last MBARG, has a bit set: the table names none of them (R442). -/
def MbReq.endsAt (m : MbReq) (i : Nat) : Bool := ((m.args.take 512).drop i).all fun w => w == 0

def MbReq.faultArgs (m : MbReq) : Bool := m.fits 0 7 && m.vaOk 1 && m.endsAt 3

/-- An INVAL of all translations names no word but ARG0. -/
def MbReq.invalArgs (m : MbReq) (all : Bool) : Bool :=
  Machine.fld (m.arg 0) 7 1 == 0 && m.fits 0 9 && if all then m.endsAt 1 else m.vaOk 1 && m.fits 3 21 && m.endsAt 4

/-- The descriptor of R321, word 0 in ARG1. -/
def MbReq.descOk (m : MbReq) : Bool :=
  m.vaOk 1 && Machine.fld (m.arg 3) 15 17 == 0 && m.arg 4 == 0 && m.vaOk 5 && m.vaOk 7 && m.fits 9 3 &&
    ((List.range 7).all fun k => m.arg (10 + k) == 0) && decide (4 ≤ Machine.fld (m.arg 3) 0 5) &&
    decide (Machine.fld (m.arg 3) 0 5 ≤ 16)

end Sys2Proof

namespace Sys2Proof.Machine

/-! ### Commands (R440 to R442) -/

/-- How a command that has been applied stands: done with results, or RUNNING until something else is done. -/
inductive MbAns
  | done (res : MbResult) (outs : List (Nat × Word))
  | wait (w : MbWait)

/-- A command completes: DONE with its result, results in MBARG where it is OK. -/
def State.mbFinish (s : State) (fn : Nat) (res : MbResult) (outs : List (Nat × Word)) : State :=
  s.modFunc fn fun f => { f with
    result := res, state := .done, waits := none
    args := if res = .ok then outs.foldl (fun a o => Tbl.put o.1 o.2 a) f.args else f.args }

/-- The registers as software has written them before a GO: TAG and OP in MBCMD, the arguments from MBARG0 on (R440). -/
def State.mbWrite (s : State) (m : MbReq) (op : BitVec 16) : State :=
  s.modFunc m.fn fun f => { f with cmdTag := m.tag, cmdOp := op, args := (m.args.take 512).zipIdx.map fun (w, i) => (i, w) }

/-- The registers as a GO write finds and accepts them. -/
def State.mbAccept (s : State) (m : MbReq) (op : BitVec 16) : State :=
  (s.mbWrite m op).modFunc m.fn fun f => { f with tag := f.cmdTag, result := .ok, state := .running }

/-- The host reaches the function's BAR (R371, R446, R448). -/
def State.barUp (s : State) (fn : Nat) : Bool :=
  !(s.func fn).resetting && (s.power == .c0 || s.power == .c2 || s.power == .c3) &&
    (match s.boot with
     | .running => true
     | .recovery => fn == 0
     | .notBooted => false)

/-- The function's mailbox takes a command (R446). -/
def State.mbUp (s : State) (fn : Nat) (op : Nat) : Bool :=
  s.barUp fn && (s.boot == .running || op == 0x60 || op == 0x61 || op == 0x42)

/-- The command that a code names (R441); SETPWR has one row for each state (R442), and its reserved one is refused by any of them. -/
def goRow (op : Nat) (m : MbReq) : Option Instr :=
  match op with
  | 0x01 => some (.ctxwrite m)
  | 0x02 => some (.ctxread m)
  | 0x03 => some (.qrange m)
  | 0x10 => some (.qinstall m)
  | 0x11 => some (.qdestroy m)
  | 0x12 => some (.fqinstall m)
  | 0x20 => some (.inval m)
  | 0x21 => some (.faultresume m)
  | 0x22 => some (.faultabort m)
  | 0x30 => some (.rebalance m)
  | 0x31 => some (.setrole m)
  | 0x32 => some (.debugPermit m)
  | 0x40 => some (.dtbread m)
  | 0x41 => some (.faultlog m)
  | 0x42 => some (.regread m)
  | 0x43 => some (.tsyncwrite m)
  | 0x44 => some (.regwrite m)
  | 0x50 => some (if m.arg 0 = 2 then .setpwrC2 m else if m.arg 0 = 3 then .setpwrC3 m else .setpwrC0 m)
  | 0x60 => some (.fwwrite m)
  | 0x61 => some (.fwcommit m)
  | _ => none

/-- Settles the answer of a command. -/
def State.mbAnswer (s : State) (fn : Nat) : MbAns → State
  | .done res outs => s.mbFinish fn res outs
  | .wait w => s.modFunc fn fun f => { f with waits := some w }

/-- The Innkeeper of side 0 applies a command: BADOP from a function that may not issue it, REFUSED on argument bits outside the table, and
otherwise its effect (R441, R442). -/
def State.applyCommand (s : State) (m : MbReq) (mayIssue argsOk : Bool) (run : State → State × MbAns) : State :=
  if !mayIssue then s.mbFinish m.fn .badop []
  else if !argsOk then s.mbFinish m.fn .refused []
  else
    let (s, a) := run s
    s.mbAnswer m.fn a

/-- The Innkeeper of side 0 can apply the next command (R419). -/
def State.mbServes (s : State) : Bool := !(s.side 0).innkeeperDown

/-- A command. Its registers are written, and its GO is ignored while one runs (R441); it is applied at once, or, while the Innkeeper of
side 0 is down, in the order of the GO writes once it acts again: then the row comes back for the first command that waits. -/
def State.command (s : State) (m : MbReq) (op : Nat) (mayIssue argsOk : Bool) (run : State → State × MbAns) : State :=
  if s.goWaits.head? = some (m, op) then
    if s.mbServes then ({ s with goWaits := s.goWaits.drop 1 } : State).applyCommand m mayIssue argsOk run else s
  else if !s.barUp m.fn then s
  else if !s.mbUp m.fn op || (s.func m.fn).state == .running then s.mbWrite m (BitVec.ofNat 16 op)
  else
    let s := s.mbAccept m (BitVec.ofNat 16 op)
    if s.mbServes && s.goWaits.isEmpty then s.applyCommand m mayIssue argsOk run else { s with goWaits := s.goWaits ++ [(m, op)] }

/-- A GO with a code that names no command: it completes with BADOP (R441). -/
def State.unknownCommand (s : State) (m : MbReq) (op : Nat) : State :=
  if !s.barUp m.fn then s
  else if !s.mbUp m.fn op || (s.func m.fn).state == .running then s.mbWrite m (BitVec.ofNat 16 op)
  else (s.mbAccept m (BitVec.ofNat 16 op)).mbFinish m.fn .badop []

/-- The issuer may name a context: its owner, or PF0 (R441). -/
def State.owns (s : State) (fn cid : Nat) : Bool := fn == 0 || (s.ctx cid).func.toNat == fn

def refusal (s : State) : State × MbAns := (s, .done .refused [])
def badName (s : State) : State × MbAns := (s, .done .badop [])
def okay (s : State) : State × MbAns := (s, .done .ok [])

/-! ### Context entries (R341, R342) -/

/-- The 256 bits of an entry as a number. -/
def Context.toNat (c : Context) (resident : Nat) : Nat :=
  (if c.valid then 1 else 0) + 2 * c.func.toNat + 2 ^ 16 * c.qbillet.toNat + 2 ^ 24 * c.qreserve.toNat +
    (if c.strict then 2 ^ 31 else 0) + 2 ^ 32 * c.vc.toNat + 2 ^ 40 * c.weight.toNat + 2 ^ 48 * c.l2ways.toNat +
    2 ^ 64 * c.root.toNat + 2 ^ 128 * c.qstore.toNat + 2 ^ 160 * c.storeVa.toNat + 2 ^ 208 * (resident % 2 ^ 7)

/-- The fields that a write of 256 bits gives an entry. -/
def Context.ofNat (c : Context) (n : Nat) : Context :=
  { c with
    valid := n % 2 == 1
    func := BitVec.ofNat 10 (n / 2 ^ 1)
    qbillet := BitVec.ofNat 7 (n / 2 ^ 16)
    qreserve := BitVec.ofNat 7 (n / 2 ^ 24)
    strict := n / 2 ^ 31 % 2 == 1
    vc := BitVec.ofNat 3 (n / 2 ^ 32)
    weight := BitVec.ofNat 8 (n / 2 ^ 40)
    l2ways := BitVec.ofNat 16 (n / 2 ^ 48)
    root := BitVec.ofNat 26 (n / 2 ^ 64)
    qstore := BitVec.ofNat 32 (n / 2 ^ 128)
    storeVa := BitVec.ofNat 48 (n / 2 ^ 160) }

/-- Reserved bits of an entry: [15:11], [23], [39:35], [127:90], [255:215]. -/
def entryReserved (n : Nat) : Bool :=
  fld n 11 5 == 0 && fld n 23 1 == 0 && fld n 35 5 == 0 && fld n 90 38 == 0 && fld n 215 41 == 0

/-- Tenant billets of the role patterns (R425). -/
def State.patternTenants (s : State) : Nat := (s.sides.map fun d => 16 * d.computeLayers - 1).sum

/-- The valid entries. -/
def State.validCtxs (s : State) : List (Nat × Context) := s.contexts.filter fun p => p.2.valid

/-- The checks of R342 on the table that a write would leave. -/
def State.ctxTableOk (s : State) (c : Context) : Bool :=
  decide (c.qreserve ≤ c.qbillet) && c.weight != 0 &&
    decide ((s.validCtxs.map fun p => p.2.qreserve.toNat).sum ≤ s.patternTenants) &&
    decide ((s.validCtxs.map fun p => max p.2.qreserve.toNat (s.pinnedOf p.1 none)).sum ≤ s.tenants) &&
    decide (((s.validCtxs.filter fun p => p.2.strict).map fun p => p.2.weight.toNat).sum ≤ 192) &&
    s.validCtxs.all fun p => s.validCtxs.all fun q => p.2.strict == q.2.strict || p.2.vc != q.2.vc

/-- Flit slots of a frame (R361). -/
def frameSlots : Nat := 256

/-- The first slot of a frame at or after a position, around its end, that no channel owns. -/
def freeSlot (owned : List Nat) (p : Nat) : Option Nat :=
  ((List.range frameSlots).map fun i => (p + i) % frameSlots).find? fun i => !owned.contains i

/-- Slots j to n - 1 of a channel of n slots, each at its even distance from the channel's first or at the next slot that is free. -/
def spreadSlots (owned : List Nat) (start n : Nat) : List Nat → List Nat
  | [] => []
  | j :: js =>
    match freeSlot owned (start + j * frameSlots / n) with
    | none => []
    | some p => p :: spreadSlots (p :: owned) start n js

/-- The slots of the channels from v on, in the order of their numbers, whose first slots the spec leaves to the Innkeeper. -/
def placeChannels (sums : List Nat) (owned : List Nat) (v : Nat) : List Nat → List (List Nat)
  | [] => []
  | n :: ns =>
    let mine := spreadSlots owned (Config.frameStart sums v) n (List.range n)
    mine :: placeChannels sums (mine ++ owned) (v + 1) ns

/-- The Innkeeper gives each STRICT virtual channel its slots of a frame (R361): as many as its weights' sum, no two the same, each
channel's spread as evenly as the slots of those before it allow. notes/assumptions/16.md -/
def State.placeSlots (s : State) : State :=
  let sums := (List.range 8).map fun v => ((s.validCtxs.filter fun p => p.2.strict ∧ p.2.vc.toNat = v).map fun p => p.2.weight.toNat).sum
  let slots := placeChannels sums [] 0 sums
  { s with contexts := s.contexts.map fun (n, c) => (n, { c with slots := if c.valid ∧ c.strict then nthD [] slots c.vc.toNat else [] }) }

/-! ### The registers of a mailbox (R10, R440) -/

def MbState.code : MbState → Nat
  | .idle => 0 | .running => 1 | .done => 2

def MbResult.code : MbResult → Nat
  | .ok => 0 | .refused => 1 | .badop => 2 | .busy => 3

/-- A read of a mailbox register at its BAR offset: MBCMD, MBSTAT, the arguments; MBDOOR is write-only and reads as zero, as do all other
offsets. -/
def Func.mailboxRead (f : Func) (off : Nat) : Word :=
  if off = 0x10000 then f.cmdTag ++ f.cmdOp
  else if off = 0x10004 then BitVec.ofNat 32 (2 ^ 16 * f.tag.toNat + 2 ^ 8 * f.result.code + f.state.code)
  else if 0x10040 ≤ off ∧ off < 0x10840 ∧ off % 4 = 0 then (Tbl.get ((off - 0x10040) / 4) f.args).getD 0
  else 0

/-! ### The end of a context's work (R340, R342, R371) -/

/-- The page-store bytes of a launch are its context's again. -/
def State.giveBack (s : State) (r : RecId) : State :=
  match s.launch? r with
  | none => s
  | some l => s.modCtx l.cid fun c => { c with storeUsed := c.storeUsed - l.storeHeld }

/-- A launch stops without completion: its pages are discarded, nothing is written. -/
def State.dropLaunch (s : State) (r : RecId) : State :=
  let s := (s.discardPages (s.billetsOf r)).giveBack r
  { s with
    flits := s.flits.filter fun (f : Flit) => f.launch ≠ r
    late := s.late.filter fun (f : Flit) => f.launch ≠ r
    launches := s.launches.filter fun (l : Launch) => l.id ≠ r }

def State.dropLaunches (s : State) : List RecId → State
  | [] => s
  | r :: rs => (s.dropLaunch r).dropLaunches rs

/-- A queue is gone: out of the table, its knock withdrawn, its records stopped. -/
def State.destroyQueue (s : State) (n : Nat) : State :=
  let s := s.leaveTable n
  { s with queues := Tbl.del n s.queues }

def State.destroyQueues (s : State) : List Nat → State
  | [] => s
  | n :: ns => (s.destroyQueue n).destroyQueues ns

/-- Starts a context's teardown: launches end, queues leave, debug state ends, zeroing runs. -/
def State.startZeroing (s : State) (cid : Nat) : State :=
  let s := s.dropLaunches ((s.launches.filter fun (l : Launch) => l.cid = cid).map Launch.id)
  let s := s.destroyQueues ((s.queues.filter fun p => p.2.cid = cid).map Prod.fst)
  let s := { s with
    sessions := s.sessions.map fun (x : Session) =>
      { x with permits := x.permits.filter fun c => c ≠ cid, unlocks := x.unlocks.filter fun c => c ≠ cid }
    brkStore := s.brkStore.filter fun k => k.1 ≠ cid }
  s.modCtx cid fun c => { c with teardown := true, zeroing := true }

/-- The entry after a write that passes the checks. -/
def State.writeCtx (s : State) (cid n : Nat) : State × MbAns :=
  let s' := s.modCtx cid fun c => c.ofNat n
  if entryReserved n && s'.ctxTableOk (s'.ctx cid) then okay ((s'.shrink cid).placeSlots) else refusal s

def execCtxwrite (m : MbReq) (s : State) : Answer :=
  .next (s.command m 0x0001 m.pf0 (m.fits 0 7 && m.endsAt 9) fun s =>
    let cid := m.arg 0
    let n := ((List.range 8).map fun k => m.arg (k + 1) * 2 ^ (32 * k)).sum
    let c := s.ctx cid
    if c.teardown || c.zeroing then (s, .done .busy [])
    else if c.valid && n % 2 == 0 then (s.startZeroing cid, .wait (.zero cid))
    else s.writeCtx cid n)

def execCtxread (m : MbReq) (s : State) : Answer :=
  .next (s.command m 0x0002 m.pf0 (m.fits 0 7 && m.endsAt 1) fun s =>
    let n := (s.ctx (m.arg 0)).toNat (s.residentOf (m.arg 0))
    (s, .done .ok ((List.range 8).map fun k => (k + 1, BitVec.ofNat 32 (n / 2 ^ (32 * k))))))

/-! ### Queues (R321, R438, R441) -/

/-- A range of device queues apart from every other function's. -/
def State.rangeFree (s : State) (fn base n : Nat) : Bool :=
  s.funcs.all fun p => p.1 == fn || p.2.qcount == 0 || n == 0 || decide (base + n ≤ p.2.qbase) || decide (p.2.qbase + p.2.qcount ≤ base)

def execQrange (m : MbReq) (s : State) : Answer :=
  .next (s.command m 0x0003 m.pf0 (m.fits 0 10 && m.fits 1 14 && m.fits 2 15 && m.endsAt 3) fun s =>
    if m.arg 0 > 512 then badName s
    else if m.arg 1 + m.arg 2 > 16384 || !s.rangeFree (m.arg 0) (m.arg 1) (m.arg 2) then refusal s
    else okay (s.modFunc (m.arg 0) fun f => { f with qbase := m.arg 1, qcount := m.arg 2 }))

/-- The queue that a descriptor gives. -/
def installQueue (m : MbReq) : VQueue :=
  { ringVa := m.arg2 1, log2 := fld (m.arg 3) 0 5, cls := fld (m.arg 3) 5 2, side := fld (m.arg 3) 7 1, cid := fld (m.arg 3) 8 7,
    cplVa := m.arg2 5, saveVa := m.arg2 7, vec := m.arg 9 }

def execQinstall (m : MbReq) (s : State) : Answer :=
  .next (s.command m 0x0010 true (m.fits 0 14 && m.endsAt 17) fun s =>
    let f := s.func m.fn
    let n := f.qbase + m.arg 0
    if m.arg 0 ≥ f.qcount ∨ s.owns m.fn (installQueue m).cid = false then badName s
    else if !m.descOk || !s.ctxOpen (installQueue m).cid || (s.queue? n).isSome then refusal s
    else (s.setQueue n (installQueue m), .done .ok [(0, BitVec.ofNat 32 n)]))

def execQdestroy (m : MbReq) (s : State) : Answer :=
  .next (s.command m 0x0011 true (m.fits 0 14 && m.endsAt 1) fun s =>
    let f := s.func m.fn
    let n := f.qbase + m.arg 0
    if m.arg 0 ≥ f.qcount then badName s
    else match s.queue? n with
      | none => refusal s
      | some q =>
        if !s.owns m.fn q.cid then badName s
        else if q.recs.any Rec.busy then refusal s
        else okay (s.destroyQueue n))

/-- The header of a new fault queue (R412). -/
def State.faultHeader (s : State) (cid va : Nat) : State :=
  match s.sysWrite cid va (bytesOf 4 0 ++ bytesOf 4 0 ++ bytesOfWord (s.ctx cid).lost ++ List.replicate 52 0) with
  | .ok s => s
  | .error (s, _) => s

def execFqinstall (m : MbReq) (s : State) : Answer :=
  .next (s.command m 0x0012 true (m.fits 0 7 && m.vaOk 1 && fld (m.arg 3) 4 4 == 0 && m.fits 3 11 && m.endsAt 4) fun s =>
    let cid := m.arg 0
    let n := fld (m.arg 3) 0 4
    if !s.owns m.fn cid then badName s
    else if !s.ctxOpen cid || decide (n < 4) || decide (12 < n) || m.arg2 1 % 64 != 0 then refusal s
    else
      let s := s.modCtx cid fun c => { c with fq := some { va := m.arg2 1, log2 := n, vec := fld (m.arg 3) 8 3 } }
      okay (s.faultHeader cid (m.arg2 1)))

/-! ### Translations (R369, R370) -/

def execInval (m : MbReq) (s : State) : Answer :=
  let all := fld (m.arg 0) 8 1 == 1
  .next (s.command m 0x0020 true (m.invalArgs all) fun s =>
    let cid := m.arg 0 % 128
    if !s.owns m.fn cid then badName s
    else if !all && (m.arg2 1 % 65536 != 0 || m.arg 3 == 0 || decide (m.arg 3 > 2 ^ 20)) then refusal s
    else (s.modFunc m.fn fun f => { f with acks := 0, removed := [] },
      .wait (.inval cid (if all then none else some (m.arg2 1, m.arg 3 * 65536)))))

/-- An access that holds a translation of global memory. -/
def Acc.translated (a : Acc) : Bool := !a.held && a.locs.any fun l => match l.2 with
  | .glb .. => true
  | .scr _ => false

/-- A byte that a context has written and that has not reached its home, of one of some physical blocks. -/
def CByte.waits (cid : Nat) (blocks : List (Nat × Nat)) (x : CByte) : Bool :=
  x.dirty && x.cid == cid && blocks.any fun r => decide (r.1 ≤ x.addr) && decide (x.addr < r.1 + r.2)

/-- No access of a context that has been translated is still to perform, and no store through a removed translation has still to
perform at system scope: none of its bytes is dirty in an L1 or an RDC (R293). -/
def State.translationsIdle (s : State) (cid : Nat) (blocks : List (Nat × Nat)) : Bool :=
  (s.billets.all fun (_, x) => !(x.l1.any fun c => c.waits cid blocks) &&
    (!(x.page.any fun p => p.cid = cid) || (List.range 8).all fun t => !((x.pending t).any Acc.translated))) &&
    s.sides.all fun d => !(d.rdc.any fun c => c.waits cid blocks)

/-- The command of a function that waits completes. -/
def State.waitsDone (s : State) (w : MbWait) : State :=
  { s with funcs := s.funcs.map fun (n, f) =>
      (n, if f.waits = some w ∧ f.state = .running then { f with waits := none, state := .done, result := .ok } else f) }

/-- The dies that acknowledge an invalidation. -/
def dies : Nat := 8

/-- A die removes its translations and acknowledges. -/
def State.ackInval (s : State) (fn die cid : Nat) (range : Option (Nat × Nat)) : State :=
  let gone := (s.tlbNamed die cid range).map fun e => (e.pa, 2 ^ e.lo)
  (s.tlbInval die cid range).modFunc fn fun f => { f with acks := f.acks + 1, removed := f.removed ++ gone }

/-- The command of one function that waits completes. -/
def State.commandDone (s : State) (fn : Nat) : State := s.modFunc fn fun f => { f with waits := none, state := .done, result := .ok }

/-- An invalidation goes on: the next die acknowledges; after eight acknowledgements it completes once no access that used a removed
translation is under way. -/
def execInvalidationComplete (fn : Nat) (s : State) : Answer :=
  .next (match (s.func fn).waits with
    | some (.inval cid range) =>
      if (s.func fn).acks < dies then s.ackInval fn (s.func fn).acks cid range
      else if s.translationsIdle cid (s.func fn).removed then s.commandDone fn
      else s
    | _ => s)

def sameGran (g : Nat) (va : Option Nat) : Bool := va.any fun v => v / 65536 == g

/-- A wake token for each access and copy of a billet that is held on a granule, as a RESUME or an ABORT. -/
def Billet.wakeHeld (g : Nat) (abort : Bool) (x : Billet) : Billet :=
  let acc (a : Acc) : Acc := if sameGran g (x.heldVa a) then { a with wake := true, aborted := a.aborted || abort } else a
  let copy (k : Copy) : Copy := if sameGran g k.held then { k with wake := true, aborted := k.aborted || abort } else k
  { x with
    tiles := x.tiles.map fun t => { t with port := t.port.map acc }
    ctxs := x.ctxs.map fun c => { c with queue := c.queue.map copy } }

/-- The driver's answer reaches every held access and copy of a context: in its resident pages, and in the records of those that have
been evicted, which meet it when they are restored (R217, R370). -/
def State.wakePages (s : State) (cid g : Nat) (abort : Bool) : State :=
  let saved (r : SavedPage) : SavedPage := { r with billet := r.billet.wakeHeld g abort }
  let page (p : PageState) : PageState := { p with record := p.record.map saved }
  { s with
    billets := s.billets.map fun (b, x) => (b, if x.page.any fun p => p.cid = cid then x.wakeHeld g abort else x)
    launches := s.launches.map fun (l : Launch) => if l.cid = cid then { l with pages := l.pages.map page } else l }

/-- A wake token for each access, copy and record of a context that is held on a granule (R190, R212, R329). -/
def State.wakeAll (s : State) (cid g : Nat) : State :=
  let s := s.wakePages cid g false
  { s with
    queues := s.queues.map fun (n, q) => (n, if q.cid = cid then
      { q with recs := q.recs.map fun r => if sameGran g r.held then { r with wake := true } else r } else q) }

def State.answered (s : State) (cid g : Nat) : State := s.modCtx cid fun c => { c with xlate := c.xlate.filter fun x => x ≠ g }

def execFaultresume (m : MbReq) (s : State) : Answer :=
  .next (s.command m 0x0021 true m.faultArgs fun s =>
    if !s.owns m.fn (m.arg 0) then badName s
    else okay ((s.wakeAll (m.arg 0) (m.arg2 1 / 65536)).answered (m.arg 0) (m.arg2 1 / 65536)))

def State.abortRecs (s : State) (cid g : Nat) : State :=
  let held := (s.queues.filter fun p => p.2.cid = cid).flatMap fun (n, q) =>
    (q.recs.filter fun r => sameGran g r.held).map fun r => ((⟨n, r.slot⟩ : RecId), r.held.getD 0)
  held.foldl (fun s (p : RecId × Nat) => s.permRec cid p.1 p.2) s

def execFaultabort (m : MbReq) (s : State) : Answer :=
  .next (s.command m 0x0022 true m.faultArgs fun s =>
    let cid := m.arg 0
    let g := m.arg2 1 / 65536
    if !s.owns m.fn cid then badName s
    else okay (((s.wakePages cid g true).abortRecs cid g).answered cid g))

/-! ### REBALANCE (R353, R401) -/

/-- The billet of a running launch's page that can be moved. -/
def State.movable (s : State) (cid : Nat) (r : RecId) (k : Nat) : Option Nat :=
  (s.launch? r).bind fun l => if l.cid = cid ∧ l.st = .running then
    (l.placeOf k).bind fun b => if (s.billet b).load.isNone ∧ (s.billet b).evict.isNone then some b else none
  else none

/-- The relocation that a function waits for has opened its page's gates, or its launch has ended. -/
def State.moveDone (s : State) (r : RecId) (k : Nat) : Bool :=
  match s.launch? r with
  | none => true
  | some l => (l.placeOf k).any fun b => (s.billet b).load.isNone && (s.billet b).evict.isNone

def State.rebalance (s : State) (m : MbReq) : State :=
  s.command m 0x0030 m.pf0 (m.fits 0 7 && fld (m.arg 1) 14 2 == 0 && fld (m.arg 2) 9 7 == 0 && m.fits 2 17 && m.endsAt 3) fun s =>
    let r : RecId := ⟨m.arg 1 % 2 ^ 14, fld (m.arg 1) 16 16⟩
    let k := m.arg 2 % 512
    if s.power != .c0 || s.entering then (s, .done .busy [])
    else match s.movable (m.arg 0) r k, s.freeBillets (fld (m.arg 2) 16 1) with
      | some b, t :: ts =>
        let (n, s) := s.draw
        let goal := nthD t (t :: ts) (n % (ts.length + 1))
        (s.modBillet b fun x => { x with evict := some { relocate := some goal } }, .wait (.page r k))
      | _, _ => refusal s

def execRebalance (m : MbReq) (s : State) : Answer :=
  .next (match (s.func m.fn).waits with
    | some (.page r k) => if s.moveDone r k then s.waitsDone (.page r k) else s
    | _ => s.rebalance m)

/-! ### Debug permits and time (R374, R375, R421) -/

/-- A session may hold an unlock for a context. -/
def State.permit (s : State) (id cid : Nat) : State :=
  { s with sessions := s.sessions.map fun (x : Session) =>
      if x.id = id ∧ x.permits.contains cid = false then { x with permits := cid :: x.permits } else x }

def execDebugPermit (m : MbReq) (s : State) : Answer :=
  .next (s.command m 0x0032 true (m.fits 0 7 && m.endsAt 2) fun s =>
    if !s.owns m.fn (m.arg 0) then badName s
    else if !(s.sessions.any fun x => x.id = m.arg 1) || !s.ctxOpen (m.arg 0) then refusal s
    else okay (s.permit (m.arg 1) (m.arg 0)))

def boolBit (b : Bool) (n : Nat) : Nat := if b then 2 ^ n else 0

/-- DV_TSYNC (R375). -/
def Dtb.tsync (d : Dtb) : Nat :=
  boolBit d.stepped 7 + boolBit d.holdover 6 + boolBit d.slewing 5 + boolBit d.locked 4 + d.src.toNat

/-- A read of DV_DTBLO latches the rest (R374). -/
def Dtb.latch (d : Dtb) : Dtb := { d with latHi := half d.ns true, latSub := d.sub }

def execDtbread (m : MbReq) (s : State) : Answer :=
  .next (s.command m 0x0040 m.pf0 (m.endsAt 0) fun s =>
    let d := s.dtb.latch
    ({ s with dtb := d },
      .done .ok [(0, half d.ns false), (1, d.latHi), (2, d.latSub.zeroExtend 32), (3, BitVec.ofNat 32 d.tsync), (4, d.toffset)]))

/-- A write to DV_TSYNC: STEPPED clears on 1; a new SRC starts its measurements; SRC 11 is ignored. -/
def Dtb.writeTsync (d : Dtb) (v : Word) : Dtb :=
  let d := if v.getLsbD 7 then { d with stepped := false } else d
  let src := v.extractLsb' 0 2
  if src = 3 ∨ src = d.src then d
  else { d with src := src, good := 0, locked := false, holdover := false, lastEdge := none, lastEdgeNs := d.ns.toNat, edgePending := false }

def execTsyncwrite (m : MbReq) (s : State) : Answer :=
  .next (s.command m 0x0043 m.pf0 (m.endsAt 1) fun s => okay { s with dtb := s.dtb.writeTsync (nthD 0 m.args 0) })

/-! ### The fault log and registers (R420, R426, R427, R431, R442, R443) -/

def execFaultlog (m : MbReq) (s : State) : Answer :=
  .next (s.command m 0x0041 m.pf0 (fld (m.arg 0) 6 2 == 0 && m.fits 0 13 && m.endsAt 1) fun s =>
    let n := fld (m.arg 0) 8 5
    if n = 0 ∨ 16 < n then refusal s
    else
      let recs := (List.range n).flatMap fun i => nthD (List.replicate 16 0) s.faultLog ((m.arg 0 % 64 + i) % 64)
      (s, .done .ok ((0, BitVec.ofNat 32 s.faultLogNext) :: recs.zipIdx.map fun (w, i) => (16 + i, w))))

def Role.code : Role → Nat
  | .off => 0 | .compute => 1 | .memory => 2

/-- DV_LAYERCAP (R426). -/
def State.layerCap (s : State) : Nat :=
  ((List.range 8).map fun k =>
    let d := s.side (k / 4)
    let l := k % 4
    ((nthD .off d.roles l).code + boolBit (d.paired l) 2 + boolBit (d.sitemap.any fun e => e.1 / 16 == l) 3) * 2 ^ (4 * k)).sum

/-- DV_FABCFG (R427). -/
def State.fabCfg (s : State) : Nat :=
  boolBit (s.side 1).iso 22 + 2 ^ 18 * (s.side 1).clk + 2 ^ 16 * (s.side 0).clk + 2 ^ 8 * (s.tenantBillets 1).length +
    (s.tenantBillets 0).length

/-- SK_SITEMAPn (R431). -/
def Side.siteWord (d : Side) (n : Nat) : Nat :=
  match d.sitemap.find? fun e => e.1 = n with
  | none => 0
  | some e => 1 + e.2.1 * 2 + e.2.2 * 32

/-- A register by its code and instance word; none for another code or instance (R442). -/
def State.regRead (s : State) (code inst : Nat) : Option Nat :=
  if code = 0x01 ∧ inst = 0 then some s.layerCap
  else if code = 0x02 ∧ inst = 0 then some s.fabCfg
  else if code = 0x03 ∧ inst = 0 then some s.dtb.tsync
  else if code = 0x04 ∧ inst = 0 then some s.dtb.toffset.toNat
  else if code = 0x05 ∧ inst = 0 then some s.pwrCap.toNat
  else if code = 0x10 ∧ fld inst 6 10 = 0 ∧ inst < 2 ^ 17 then some ((s.side (fld inst 16 1)).siteWord (inst % 64))
  else if code = 0x20 ∧ inst < 128 then some (s.billet inst).guardDrop.toNat
  else if code = 0x21 ∧ inst < 128 then some (s.billet inst).gen.toNat
  else if code = 0x30 ∧ fld inst 7 1 = 0 ∧ inst < 2 ^ 11 then some (s.mtCapWord (inst % 128)).toNat
  else none

def execRegread (m : MbReq) (s : State) : Answer :=
  .next (s.command m 0x0042 m.pf0 (m.fits 0 8 && m.endsAt 2) fun s =>
    match s.regRead (m.arg 0) (m.arg 1) with
    | none => refusal s
    | some v => (s, .done .ok [(2, BitVec.ofNat 32 v)]))

/-- DV_PWRCAP takes 200 to 450 W (R443). -/
def capInRange (v : Nat) : Bool := decide (200 ≤ v) && decide (v ≤ 450)

def execRegwrite (m : MbReq) (s : State) : Answer :=
  .next (s.command m 0x0044 m.pf0 (m.fits 0 8 && m.endsAt 3) fun s =>
    if m.arg 0 = 5 ∧ m.arg 1 = 0 ∧ capInRange (m.arg 2) = true then okay { s with pwrCap := BitVec.ofNat 9 (m.arg 2) } else refusal s)

def execPwrcapI3cWrite (watts : Nat) (s : State) : Answer :=
  .next (if capInRange watts then { s with pwrCap := BitVec.ofNat 9 watts } else s)

end Sys2Proof.Machine
end

