-- ==== Sys2Proof/Machine/Stack.lean ====
section
/-! DEFINITION. Layer roles, clock steps and site sparing (17 R425 to R433, R436, 18 R451): FABRIC records, pages that must leave their
billets, SETROLE, SITE_SPARE, and what a side or layers that are cut off lose. Choices and readings: log entries 29, 33, 39, 45. -/

namespace Sys2Proof.Machine

/-! ### FABRIC records (R433) -/

def uniq (l : List Nat) : List Nat := l.foldl (fun acc x => if acc.contains x then acc else insertBy id x acc) []

/-- Contexts with a launch on a side: one that its Front Desk serves, or that holds a page there. -/
def State.launchCtxs (s : State) (side : Nat) : List Nat :=
  uniq ((s.launches.filter fun (l : Launch) => l.side = side ∨ ∃ b ∈ s.billetsOf l.id, sideOf b = side).map Launch.cid)

def State.validIds (s : State) : List Nat := uniq (s.validCtxs.map Prod.fst)

/-- Writes one record to each context of a list. -/
def State.recordTo (s : State) (f : FaultInfo) : List Nat → State
  | [] => s
  | c :: cs => (s.writeRecord { f with cid := c }).recordTo f cs

/-- A UE or LINK record to each context of a list, each with its copy in the device fault log (R420). -/
def State.copyTo (s : State) (f : FaultInfo) : List Nat → State
  | [] => s
  | c :: cs => ((s.writeRecord { f with cid := c }).logRecord f).copyTo f cs

/-- A FABRIC record of a cause and side, with the registers as they read now. -/
def State.fabricTo (s : State) (cause side : Nat) (cids : List Nat) : State :=
  s.recordTo { cls := clsFabric, detail := cause + 16 * side, addr := s.layerCap + 2 ^ 32 * s.fabCfg } cids

/-! ### Clock steps (R428, R451) -/

def State.billetsOn (s : State) (side : Nat) : List Nat := (s.billets.map Prod.fst).filter fun b => sideOf b = side

/-- The Innkeeper of a side acts. -/
def State.keeperUp (s : State) (side : Nat) : Bool := s.power == .c0 && s.boot == .running && !(s.side side).innkeeperDown

/-- The clock code that the roles give a side. -/
def Side.baseClk (d : Side) : Nat := clkOfLayers d.computeLayers

/-- A step: every billet of the side freezes until the clock has changed. -/
def State.startStep (s : State) (side next : Nat) : State :=
  (s.freeze (s.billetsOn side) .clock).modSide side fun d => { d with stepTo := some next, stepNs := s.ns }

/-- One step down, never below 1.6 GHz. -/
def State.stepDown (s : State) (side : Nat) : State :=
  let d := s.side side
  if s.keeperUp side && d.stepTo.isNone && decide (d.clk < 2) then s.startStep side (d.clk + 1) else s

def execThermalStepDown (side : Nat) (s : State) : Answer := .next (s.stepDown side)

def execPowerCapExceeded (side : Nat) (s : State) : Answer := .next (s.stepDown side)

/-- Time for which every layer must have been cool, in ns. -/
def coolTime : Nat := 100000000

def execThermalStepUp (side : Nat) (s : State) : Answer :=
  .next (
    let d := s.side side
    if s.keeperUp side && d.stepTo.isNone && decide (d.baseClk < d.clk) && decide (d.stepNs + coolTime ≤ s.ns) then
      s.startStep side (d.clk - 1)
    else s)

/-- The clock changes, and the side's billets go on exactly (R394). -/
def State.setClock (s : State) (side c : Nat) : State :=
  (s.modSide side fun d => { d with clk := c, stepTo := none }).unfreeze (s.billetsOn side) [.clock]

/-- A step ends, and the contexts with a launch on the side hear of it; that of a role change ends with it (R430). -/
def State.resumeStep (s : State) (side : Nat) : State :=
  match (s.side side).stepTo with
  | none => s
  | some c => if (s.side side).roleClock then s else (s.setClock side c).fabricTo 2 side (s.launchCtxs side)

def execClockStepResume (side : Nat) (s : State) : Answer := .next (if s.keeperUp side then s.resumeStep side else s)

/-- The device stops; what it records is the fault log's alone, under a class the spec does not give. -/
def execThermalShutdown (s : State) : Answer :=
  .next { s.logRecord { cls := Config.shutdownClass % 256 } with power := .shutdown }

/-! ### Pages that must leave their billets (R430 step 1, R432, R449) -/

/-- A page of the launch is wanted back from an instant on (R343). -/
def Launch.faultingAt (l : Launch) (page ns : Nat) : Launch :=
  { l with pages := modNth (fun (y : PageState) => { y with faulting := true, faultNs := ns }) page l.pages }

/-- A billet in service is on its way to be free for any page. -/
def State.freeing (s : State) : Bool := s.billets.any fun p =>
  !s.withheld p.1 && p.2.evict.any fun e => e.next.isNone && e.relocate.isNone

/-- A pinned page for which no billet is free: a change of roles has an unpinned page leave one that stays in service and waits for it (R430);
at sparing the page comes back to the same billet (R432). -/
def State.pinnedOut (s : State) (b : Nat) (p : Resident) (away : Bool) : State :=
  if away then
    if s.freeing then s
    else match s.victimIn (fun v => !s.withheld v) fun _ => true with
      | some v => s.wantEvict v
      | none => s
  else (s.modLaunch p.launch fun l => l.faultingAt p.page s.ns).wantEvict b

/-- A page is asked out of its billet: a pinned one goes to a free billet. -/
def State.wantOut (s : State) (b : Nat) (away : Bool := false) : State :=
  match (s.billet b).page, (s.billet b).evict with
  | some p, none =>
    if (s.launch? p.launch).any fun l => l.pinnedPage p.page then
      match s.freeBillets (sideOf b) ++ s.freeBillets (1 - sideOf b) with
      | t :: ts =>
        let (n, s) := s.draw
        s.modBillet b fun x => { x with evict := some { relocate := some (nthD t (t :: ts) (n % (ts.length + 1))) } }
      | [] => s.pinnedOut b p away
    else s.wantEvict b
  | _, _ => s

/-- The pages of billets that a role change affects are asked out. -/
def State.wantOuts (s : State) : List Nat → State
  | [] => s
  | b :: bs => (s.wantOut b true).wantOuts bs

/-- No page stands in a billet, and none is on its way out of it. -/
def State.empty (s : State) (b : Nat) : Bool := (s.billet b).page.isNone && (s.billet b).evict.isNone

/-- A role change or sparing action is in progress (R429, R449). -/
def State.restructuring (s : State) : Bool := s.sides.any fun d => d.roleTo.isSome || !d.spareWanted.isEmpty

/-! ### SETROLE (R425, R429, R430) -/

def Role.ofCode (c : Nat) : Option Role := if c = 0 then some .off else if c = 1 then some .compute else if c = 2 then some .memory else none

/-- Four roles from an argument. -/
def rolesOf (v : Nat) : Option (List Role) :=
  (List.range 4).foldr (fun k acc => (Role.ofCode (fld v (2 * k) 2)).bind fun r => acc.map fun rs => r :: rs) (some [])

/-- The rows of R4, from L0 to L3. -/
def rolePatterns : List (List Role) :=
  [[.compute, .memory, .compute, .memory], [.compute, .compute, .compute, .memory], [.compute, .compute, .compute, .compute]]

/-- A row of R4, or a row whose layers above one are off (R425). -/
def patternOk (rs : List Role) : Bool :=
  rolePatterns.any fun p => (List.range 4).any fun k => rs == p.take (k + 1) ++ List.replicate (3 - k) .off

def Side.withRoles (d : Side) (rs : List Role) : Side := { d with roles := rs }

/-- A layer whose role or PAIRED bit changes (R430). -/
def Side.layerChanges (d : Side) (rs : List Role) (l : Nat) : Bool :=
  nthD .off rs l != nthD .off d.roles l || (d.withRoles rs).paired l != d.paired l

/-- The layers that a change to some roles affects. -/
def Side.changed (d : Side) (rs : List Role) : List Nat := (List.range 4).filter fun l => d.layerChanges rs l

/-- The billets of some layers of a side. -/
def billetsIn (side : Nat) (layers : List Nat) : List Nat :=
  ((List.range 64).filter fun n => layers.contains (n / 16)).map fun n => side * 64 + n

/-- A role change begins: its pattern, the layers it affects, the command that asked for it. -/
def Side.beginRoles (d : Side) (rs : List Role) (m : MbReq) : Side :=
  { d with roleTo := some rs, roleHit := d.changed rs, roleReq := some m }

def State.withRoles (s : State) (side : Nat) (rs : List Role) : State := s.modSide side fun d => d.withRoles rs

/-- Pages that RUNNING launches pin. -/
def State.pinnedRunning (s : State) : Nat :=
  ((s.launches.filter fun (l : Launch) => !l.pagein && l.st == .running).map fun l => (l.graph.pages.filter fun g => g.pin).length).sum

/-- R429: the pattern, reserves, pins, and no other change in progress. -/
def State.roleOk (s : State) (side : Nat) (rs : List Role) : Bool :=
  let new := s.withRoles side rs
  patternOk rs && ((List.range 4).all fun k => nthD .off (s.side side).roles k != .off || nthD .off rs k == .off) &&
    decide ((s.validCtxs.map fun p => p.2.qreserve.toNat).sum ≤ new.patternTenants) &&
    decide (s.pinnedRunning ≤ new.tenants) && !s.restructuring

/-- The clock that new roles give, under the steps that heat has taken. -/
def Side.newClk (d : Side) (rs : List Role) : Nat := min 2 ((d.withRoles rs).baseClk + (d.clk - d.baseClk - d.roleSlow))

def State.clearScrs (s : State) : List Nat → State
  | [] => s
  | b :: bs => (s.clearScr b).clearScrs bs

/-- Step 2 of R430: the side's L2 and RDC go back, the M-tiles of the affected layers are zeroed. -/
def State.roleFlush (s : State) (side : Nat) : State := (s.flushSide side).clearScrs (billetsIn side (s.side side).roleHit)

/-- Steps 4 and 5 of R430: the new roles stand, and the contexts hear of them. -/
def State.finishRole (s : State) (side : Nat) (rs : List Role) : State :=
  let s := (s.roleFlush side).modSide side fun d =>
    { (d.withRoles rs) with roleTo := none, roleHit := [], roleClock := false, roleSlow := 0, roleReq := none }
  let s := s.tlbOff fun sd l => sd == side && nthD .off rs l == .off
  (s.fabricTo 1 side s.validIds).waitsDone (.role side)

/-- Steps 2 to 5 of R430, once the affected billets are empty: where the clock changes, the side's billets freeze, and the rest follows when
it has. -/
def State.roleDrained (s : State) (side : Nat) (rs : List Role) : State :=
  let c := (s.side side).newClk rs
  if c = (s.side side).clk then s.finishRole side rs
  else ((s.roleFlush side).startStep side c).modSide side fun d => { d with roleClock := true }

/-- A role change goes on: step 1, until the affected billets are empty and no other clock step is under way; or the end of step 3. -/
def State.roleStep (s : State) (side : Nat) : State :=
  match (s.side side).roleTo with
  | none => s
  | some rs =>
    if (s.side side).roleClock then
      match (s.side side).stepTo with
      | some c => (s.setClock side c).finishRole side rs
      | none => s.finishRole side rs
    else
      let bs := billetsIn side (s.side side).roleHit
      let s := s.wantOuts bs
      if bs.all s.empty && (s.side side).stepTo.isNone then s.roleDrained side rs else s

def State.setrole (s : State) (m : MbReq) : State :=
  s.command m 0x0031 m.pf0 (m.fits 0 1 && m.fits 1 8 && m.endsAt 2) fun s =>
    let side := m.arg 0
    if s.power != .c0 || s.entering then (s, .done .busy [])
    else match rolesOf (m.arg 1) with
      | none => refusal s
      | some rs =>
        if s.roleOk side rs then (s.modSide side fun d => d.beginRoles rs m, .wait (.role side))
        else refusal s

/-- The change that a command asked for is under way on a side. -/
def State.roleUnderWay (s : State) (m : MbReq) : Bool := (s.side (m.arg 0)).roleReq == some m

/-- A new command, or the next step of the change that it asked for (which a reset of PF0 does not stop, R430). -/
def execSetrole (m : MbReq) (s : State) : Answer :=
  .next (
    let s := if s.roleUnderWay m then s else s.setrole m
    if s.roleUnderWay m && s.keeperUp (m.arg 0) then s.roleStep (m.arg 0) else s)

/-! ### What is cut off (R436) -/

/-- A place out of a billet's reach. -/
def State.locBeyond (s : State) (b : Nat) : Loc → Bool
  | .glb pa _ => s.outOfReach b pa
  | .scr _ => false

/-- Billets of side 0 with an access on its way to side 1, or one that watches a word there. -/
def State.reaching (s : State) : List Nat :=
  (s.billetsOn 0).filter fun b => ((s.billet b).watches.any fun w => s.locBeyond b w.loc) ||
    (List.range 8).any fun t => ((s.billet b).pending t).any fun a => a.locs.any fun l => s.locBeyond b l.2

def State.remoteAll (s : State) : List Nat → State
  | [] => s
  | b :: bs => (s.remoteLost b).remoteAll bs

def State.sideLostAll (s : State) : List RecId → State
  | [] => s
  | r :: rs => (s.launchSideLost r).sideLostAll rs

/-- Queues of side 1 go to side 0; what they had in execution completes with SIDE_LOST. -/
def State.moveQueues (s : State) : State :=
  let mine := (s.queues.filter fun p => p.2.side = 1).map Prod.fst
  mine.foldl (fun s n =>
    ((s.leaveTable n).modQueue n fun q => { q with side := 0, recs := q.recs.map fun x =>
      if x.busy ∧ x.outcome = none ∧ x.ty ≠ 1 then { x with outcome := some (.sideLost, 0, 0) } else x }).addKnock n 0) s

/-- SIDE_ISOLATE: side 1 accepts nothing more, its launches end with SIDE_LOST, its queues move (R436). -/
def State.isolate (s : State) : State :=
  if (s.side 1).iso then s
  else
    let hit := (s.launches.filter fun (l : Launch) => l.side = 1 ∨ ∃ b ∈ s.billetsOf l.id, sideOf b = 1).map Launch.id
    let s := (s.freeze (s.billetsOn 1) .iso).modSide 1 fun d => { d with iso := true }
    let s := { s with launches := s.launches.map fun (l : Launch) => { l with side := 0 } }
    let s := (s.sideLostAll hit).moveQueues
    s.remoteAll s.reaching

/-- Physical ranges that a table and those below it map. -/
def State.leavesOf (s : State) : List (Nat × Nat × Bool) → Nat → List (Nat × Nat)
  | [], _ => []
  | (lo, n, leafOk) :: rest, table => (List.range (2 ^ n)).flatMap fun i =>
    let p := natOf (s.homeReads (table + 8 * i) 8)
    let pa := 2 ^ 16 * (p / 2 ^ 16 % 2 ^ 26)
    if pteBad p then []
    else if p / 8 % 2 = 1 then (if !leafOk || pa % 2 ^ lo ≠ 0 then [] else [(pa, 2 ^ lo)])
    else if p / 2 % 4 ≠ 0 ∨ p / 16 % 16 ≠ 0 then []
    else s.leavesOf rest pa

/-- Physical ranges that a context's page table maps (R371). -/
def State.mappedBy (s : State) (cid : Nat) : List (Nat × Nat) := s.leavesOf walkLevels (2 ^ 16 * (s.ctx cid).root.toNat)

def inRanges (rs : List (Nat × Nat)) (a : Nat) : Bool := rs.any fun r => decide (r.1 ≤ a) && decide (a < r.1 + r.2)

/-- DETAIL of a LINK record (R418). -/
def linkCode (side layer link port : Nat) : Nat := side * 2 ^ 8 + layer * 2 ^ 6 + link * 2 ^ 4 + port % 16

/-- The roles of a pattern below a cut. -/
def cutRoles (layer : Nat) (rs : List Role) : List Role := (List.range 4).map fun k => if k ≤ layer then nthD .off rs k else .off

/-- The request that stands for a role change without PF0: its side, and the roles. -/
def ownRoles (side : Nat) (rs : List Role) : MbReq :=
  { fn := pf1OwnRoles, tag := 0, args := [BitVec.ofNat 32 side, BitVec.ofNat 32 ((rs.zipIdx.map fun (r, k) => r.code * 4 ^ k).sum)] }
where pf1OwnRoles : Nat := 1023

/-- The layers above a cut are off at once; the change of R430 that follows takes in the layers it affects, and a change that was under way
goes on without them. -/
def Side.cutAt (d : Side) (side layer : Nat) : Side :=
  let now := cutRoles layer d.roles
  let goal := cutRoles layer (d.roleTo.getD d.roles)
  { (d.withRoles now) with
    roleTo := some goal
    roleHit := (List.range 4).filter fun l => d.roleHit.contains l || d.layerChanges now l
    roleSlow := d.roleSlow + (d.baseClk - (d.withRoles now).baseClk)
    roleReq := some (d.roleReq.getD (ownRoles side goal)) }

/-- Layers above a lost vertical link: their pages' launches end with FAULT, their slices' dirty lines are lost, they are off, and a role
change runs without PF0 (R425, R434, R436). -/
def State.cutLayers (s : State) (side layer port : Nat) : State :=
  let above (b : Nat) : Bool := sideOf b == side && decide (layer < layerOf b)
  let gone := s.launches.filter fun (l : Launch) => (s.billetsOf l.id).any above
  let s := s.copyTo { cls := clsLink, detail := linkCode side layer 1 port } (uniq (gone.map Launch.cid))
  let s := gone.foldl (fun s (l : Launch) => s.failLaunch l.id .fault 0) s
  let cut := (s.side side).l2lines.filter fun x => decide (layer < layerOf x.slice)
  let lost := (s.side side).l2.filter fun (x : CByte) => cut.any fun k => k.line == lineOf x.addr
  let hurt := s.validIds.filter fun c => let rs := s.mappedBy c; lost.any fun (x : CByte) => x.dirty && inRanges rs x.addr
  let s := s.copyTo { cls := clsUe, detail := 2 } hurt
  let s := s.modSide side fun d => { d.cutAt side layer with
    l2 := d.l2.filter fun (x : CByte) => !lost.contains x, l2lines := d.l2lines.filter fun x => !cut.contains x }
  s.tlbOff fun sd l => sd == side && decide (layer < l)

/-! ### Site sparing (R431, R432) -/

/-- The billet of a site. -/
def siteBillet (side layer x y : Nat) : Nat := side * 64 + layer * 16 + y / 4 * 4 + x / 4

/-- The billet whose page uses a site: for a memory layer the one below, whose M-tiles the layer is paired with (R284). -/
def State.siteUser (s : State) (side layer x y : Nat) : Nat :=
  siteBillet side (if nthD .off (s.side side).roles layer = .memory then layer - 1 else layer) x y

/-- A free spare of the site's kind in its layer. -/
def Side.freeSpare (d : Side) (layer x y : Nat) : Option Nat :=
  (List.range 16).find? fun i => i % 2 == (x + y) % 2 && !(d.sitemap.any fun e => e.1 == layer * 16 + i)

/-- A billet goes out of service; a shortfall of reserves is named (R432). -/
def State.retire (s : State) (b : Nat) : State :=
  let side := sideOf b
  let s := s.modSide side fun d => { d with retired := if d.retired.contains b then d.retired else d.retired ++ [b] }
  let s := s.fabricTo 4 side s.validIds
  if (s.validCtxs.map fun p => p.2.qreserve.toNat).sum > s.tenants then s.fabricTo 6 side s.validIds else s

/-- The spare serves the site, or there is none: the billet is retired; a Front Desk's side is lost, and for side 0 the device stops serving and
PF0 finds a record of it in the fault log (log entry 39). -/
def State.spareNow (s : State) (side layer x y : Nat) : State :=
  let b := s.siteUser side layer x y
  let s := s.modSide side fun d => { d with spareWanted := d.spareWanted.filter fun w => w ≠ (layer, x, y) }
  match (s.side side).freeSpare layer x y with
  | some i =>
    let s := s.modSide side fun d => { d with
      sitemap := (layer * 16 + i, x, y) :: d.sitemap.filter fun e => !(e.1 / 16 == layer && e.2 == (x, y)) }
    s.fabricTo 3 side s.validIds
  | none =>
    if b ≠ deskOf side then s.retire b
    else if side = 1 then s.isolate
    else (s.logRecord { cls := clsFabric, detail := 4, addr := s.layerCap + 2 ^ 32 * s.fabCfg }).modSide 0 fun d => { d with dead := true }

/-- A pinned page of a running launch stands in a billet. -/
def State.holdsPinned (s : State) (b : Nat) : Bool :=
  (s.billet b).page.any fun p => (s.launch? p.launch).any fun l => !l.pagein && l.pinnedPage p.page

/-- Proactive sparing waits for its billet; any other starts at once (R434). -/
def State.maySpare (s : State) (side layer x y : Nat) : Bool :=
  s.keeperUp side && s.sides.all (fun d => d.roleTo.isNone) &&
    (!(s.side side).spareLater.contains (layer, x, y) || !s.holdsPinned (s.siteUser side layer x y))

def execSiteSpare (side layer x y : Nat) (s : State) : Answer :=
  .next (if x < 16 ∧ y < 16 ∧ layer < 4 ∧ side < 2 ∧ s.maySpare side layer x y = true then
    let b := s.siteUser side layer x y
    let s := s.modSide side fun d => { d with
      spareWanted := if d.spareWanted.contains (layer, x, y) then d.spareWanted else (layer, x, y) :: d.spareWanted
      spareLater := d.spareLater.filter fun w => w ≠ (layer, x, y) }
    let s := s.wantOut b
    if s.empty b then s.spareNow side layer x y else s
  else s)

end Sys2Proof.Machine
end

