-- ==== Sys2Proof/Machine/Firmware.lean ====
section
/-! DEFINITION. The firmware image and boot (18 R445, R446, R448): verification, staging and commit, the power-on boot, and what survives
the loss of main power. Choices and readings: log entries 4, 13, 37, 46, 68. -/

namespace Sys2Proof.Machine

/-! ### The image (R445) -/

def imgWord32 (img : List Byte) (k : Nat) : Nat := natOf ((img.drop (4 * k)).take 4)

/-- SIZE, SVN and RAISE. -/
def fwSize (img : List Byte) : Nat := imgWord32 img 1
def fwSvn (img : List Byte) : Nat := imgWord32 img 2 % 2 ^ 16
def fwRaise (img : List Byte) : Bool := imgWord32 img 2 / 2 ^ 16 % 2 == 1
def fwKey (img : List Byte) : List Byte := (img.drop 0x40).take 1312
def fwSig (img : List Byte) : List Byte := (img.drop 0x560).take 2420

/-- The signed message: the digest of the header and the body. -/
def fwDigest (img : List Byte) : List Byte := Config.sha3 (img.take 0x40 ++ ((img.take (fwSize img)).drop 0x1000))

/-- MAGIC, VERSION and SIZE. -/
def fwFormOk (img : List Byte) : Bool :=
  imgWord32 img 0 == 0x5A460001 && decide (0x1000 ≤ fwSize img) && decide (fwSize img ≤ 8 * 2 ^ 20) && decide (fwSize img ≤ img.length)

/-- Step 3 of R446: the key's hash, the signature, the security version. -/
def State.fwVerifies (s : State) (img : List Byte) : Bool :=
  fwFormOk img && Config.sha3 (fwKey img) == s.keyHash && Config.mldsaVerify (fwKey img) (fwDigest img) (fwSig img) &&
    decide (s.minSvn ≤ fwSvn img)

/-! ### Loss of main power and boot (R446, R448) -/

/-- What the repair area keeps of a side: roles and repairs. -/
def Side.repairs (d : Side) : Side :=
  { roles := d.roles, retired := d.retired, sitemap := d.sitemap, waysOff := d.waysOff, sramRows := d.sramRows, sramCols := d.sramCols }

/-- What the repair area keeps of a link. -/
def Link.repairs (k : Link) : Link := { widths := k.widths, spares := k.spares, bonds := k.bonds, rate := k.rate }

/-- The device after a reset: DTB and fault log stay; the flash, the fuses and the host's memory are not touched, but a slot that is being
written is damaged. -/
def State.coldReset (s : State) : State :=
  { agenda := s.agenda, sel := s.sel, oracle := s.oracle, aux := s.aux, dtb := s.dtb, faultLog := s.faultLog, faultLogNext := s.faultLogNext
    keyHash := s.keyHash, minSvn := s.minSvn, flash := s.flash, torn := s.torn || s.writing.isSome, repairOk := s.repairOk
    withdrawn := s.withdrawn, msix := s.msix
    sides := s.sides.map Side.repairs, links := s.links.map fun (l, k) => (l, k.repairs)
    mem := s.mem.filter fun c => decide (Config.hostBase ≤ c.1) }

/-- Step 1 of R446: a repair area whose CRC fails counts as empty, and is recorded. -/
def State.applyRepairs (s : State) : State :=
  let s := if s.repairOk then s else { s.logRecord { cls := Config.repairClass % 256 } with sides := [{}, {}], links := [], withdrawn := [] }
  { s with sides := s.sides.map fun d => { d with clk := d.baseClk } }

/-- Step 2 of R446: each Front Desk is configured from ROM (R5). -/
def State.setDesks (s : State) : State := { s with sides := s.sides.map fun d => { d with deskSet := true } }

/-- Steps 3 to 6 of R446: the image runs, or the device is in ROM recovery. -/
def State.bootImage (s : State) : State :=
  if !s.torn && s.fwVerifies s.flash then
    let d := fwDigest s.flash
    { s with
      boot := .running, bootDigest := d, bootSvn := fwSvn s.flash, identity := some (Config.identityKey true Config.deviceSecret d,
        Config.identityKey false Config.deviceSecret d)
      minSvn := if fwRaise s.flash then fwSvn s.flash else s.minSvn }
  else { s with boot := .recovery }

def execPowerOnBoot (s : State) : Answer :=
  .next (if s.boot = .notBooted ∨ s.power = .d3cold ∨ s.power = .shutdown then
    { (s.coldReset.applyRepairs.setDesks).bootImage with power := .c0 }
  else s)

/-- What stands on auxiliary power only is gone where there is none (R448). -/
def State.withoutAux (s : State) : State := { s with dtb := {}, faultLog := [], faultLogNext := 0 }

/-- Auxiliary power comes or goes, which only the outside of the device decides. -/
def State.auxPower (s : State) (on : Bool) : State :=
  let s : State := { s with aux := on }
  if s.powered then s else s.withoutAux

/-- D3cold lasts until main power returns, which is POWER_ON_BOOT. -/
def execMainPowerRemoved (s : State) : Answer :=
  .next (({ s.coldReset with power := .d3cold } : State).auxPower s.aux)

/-! ### Staging (R446) -/

/-- A 1 KiB piece of an image goes into the staging buffer. -/
def execFwwrite (m : MbReq) (s : State) : Answer :=
  .next (s.command m 0x0060 m.pf0 (m.fits 0 13 && ((m.args.take 256).drop 1).all fun w => w == 0) fun s =>
    okay { s with staging := Tbl.put (m.arg 0) (bytesOfWords ((List.range 256).map fun k => nthD 0 m.args (256 + k))) s.staging })

/-- The staged image: its pieces in order. -/
def State.staged (s : State) (size : Nat) : List Byte :=
  ((List.range ((size + 1023) / 1024)).flatMap fun i => (Tbl.get i s.staging).getD []).take size

/-- An image that passes begins to be written over the slot. -/
def State.fwCommit (s : State) (m : MbReq) : State × MbAns :=
  let img := s.staged (m.arg 0)
  if s.writing.isNone && decide (m.arg 0 ≤ 8 * 2 ^ 20) && fwSize img == m.arg 0 && s.fwVerifies img then
    ({ s with writing := some (img, m) }, .wait .flash)
  else refusal s

/-- The slot has been written; in recovery the device resets itself. -/
def State.fwWritten (s : State) (img : List Byte) : State :=
  let s := ({ s with flash := img, writing := none, torn := false } : State).waitsDone .flash
  if s.boot = .recovery then { s.coldReset with power := .c0 } else s

/-- A new command, or the end of the writing that it began. -/
def execFwcommit (m : MbReq) (s : State) : Answer :=
  .next (match s.writing with
    | some (img, w) =>
      if w = m then (if s.power == .d3cold || s.power == .shutdown then s else s.fwWritten img)
      else s.command m 0x0061 m.pf0 (m.endsAt 1) fun s => s.fwCommit m
    | none => s.command m 0x0061 m.pf0 (m.endsAt 1) fun s => s.fwCommit m)

end Sys2Proof.Machine
end

