-- ==== Sys2Proof/Machine/Sessions.lean ====
section
/-! DEFINITION. Debug sessions and their unlocks (16 R421, R422): SPDM sessions begin and end, ATTACH, DETACH, and the end of a stop when
the last debugger leaves. Choices and readings: log entry 42. -/

namespace Sys2Proof.Machine

/-- Number of PF1 among the functions: after PF0 and the 512 VFs. -/
def pf1 : Nat := 513

/-- The STOPPED launches of a context that no debugger is attached to any more leave their stop (R380). -/
def State.endStops (s : State) (cid : Nat) : State :=
  if s.attached cid then s
  else (s.launches.filter fun (l : Launch) => l.cid = cid ∧ l.st = .stopped).foldl (fun s (l : Launch) => s.endStop l) s

/-- Breakpoints that sessions have set end, in the debug function's store and in the billets: they live until the session that set them has
detached (16, opening paragraph). gone takes a session and a context. -/
def State.endBreaks (s : State) (gone : Nat → Nat → Bool) : State :=
  { s with
    brkStore := s.brkStore.filter fun e => !gone e.2.2.owner e.1
    billets := s.billets.map fun (b, x) => (b, { x with breaks := x.breaks.filter fun k => !(x.page.any fun p => gone k.owner p.cid) }) }

/-- Sessions go, and with them their unlocks and their breakpoints. -/
def State.dropSessions (s : State) (p : Session → Bool) : State :=
  let cids := (s.sessions.filter p).flatMap Session.unlocks
  let s := s.endBreaks fun id _ => s.sessions.any fun x => x.id == id && p x
  let s := { s with sessions := s.sessions.filter fun x => !p x }
  cids.foldl (fun s c => s.endStops c) s

/-- The function answers over DOE (R437, R446). -/
def State.doeUp (s : State) (fn : Nat) : Bool :=
  (fn == 0 || fn == pf1) && !(s.func fn).resetting && (s.power == .c0 || s.power == .c2 || s.power == .c3) &&
    (match s.boot with
     | .running => true
     | .recovery => fn == 0
     | .notBooted => false)

def execSpdmSessionEstablish (fn id : Nat) (s : State) : Answer :=
  .next (if s.doeUp fn && !(s.sessions.any fun x => x.id == id) then { s with sessions := s.sessions ++ [{ id := id, fn := fn }] } else s)

def execSpdmSessionEnd (id : Nat) (s : State) : Answer := .next (s.dropSessions fun x => x.id == id)

/-! ### Debug commands -/

def State.session? (s : State) (id : Nat) : Option Session :=
  if s.doeUp pf1 then s.sessions.find? fun x => x.id = id ∧ x.fn = pf1 else none

def State.modSession (s : State) (id : Nat) (f : Session → Session) : State :=
  { s with sessions := s.sessions.map fun x => if x.id = id then f x else x }

/-- The session holds an unlock for the command's context. -/
def State.unlocked (s : State) (d : DbgReq) : Bool := (s.session? d.session).any fun x => x.unlocks.contains d.cid

def State.say (s : State) (a : DebugAnswer) : State := { s with answer := a }

/-- A command that names a context: it acts only with an unlock, and is refused on the conditions of R422. -/
def State.debugCmd (s : State) (d : DbgReq) (ok : Bool) (run : State → State) : State :=
  if s.unlocked d && ok then run s else s.say .refused

def execAttach (d : DbgReq) (s : State) : Answer :=
  .next (if (s.session? d.session).any fun x => x.permits.contains d.cid then
    (s.modSession d.session fun x => { x with unlocks := if x.unlocks.contains d.cid then x.unlocks else d.cid :: x.unlocks }).say .ok
  else s.say .refused)

def execDetach (d : DbgReq) (s : State) : Answer :=
  .next (if (s.session? d.session).any fun x => x.permits.contains d.cid then
    ((s.modSession d.session fun x => { x with
        permits := x.permits.filter fun c => c ≠ d.cid, unlocks := x.unlocks.filter fun c => c ≠ d.cid }).endBreaks
      (fun id cid => id == d.session && cid == d.cid)).endStops d.cid |>.say .ok
  else s.say .refused)

end Sys2Proof.Machine
end

