-- ==== Sys2Proof/Machine/Attest.lean ====
section
/-! DEFINITION. Attestation (18 R447): versions, algorithms and measurements of the two SPDM responders. Choices and readings: log entry
43. -/

namespace Sys2Proof.Machine

/-- SPDM 1.2, 1.3 and 1.4, as their version bytes. -/
def spdmOffered : List Nat := [0x12, 0x13, 0x14]

def execSpdmGetVersion (fn : Nat) (s : State) : Answer :=
  .next (if s.doeUp fn then { s with spdmVersions := Tbl.put fn spdmOffered s.spdmVersions } else s)

/-- ML-DSA-44 where a requester of 1.4 selects a post-quantum algorithm; ECDSA P-384 otherwise. -/
def spdmChoice (version : Nat) (pqc : Bool) : SpdmSig := if version = 0x14 ∧ pqc = true then .mldsa44 else .ecdsaP384

def execSpdmNegotiateAlgorithms (fn version : Nat) (pqc : Bool) (s : State) : Answer :=
  .next (if s.doeUp fn && spdmOffered.contains version then { s with spdmAlgo := Tbl.put fn { sig := spdmChoice version pqc } s.spdmAlgo } else s)

/-- The identity key of a signature algorithm. -/
def State.keyFor (s : State) (g : SpdmSig) : Option (List Byte) :=
  s.identity.map fun k => match g with
    | .mldsa44 => k.1
    | .ecdsaP384 => k.2

/-- A certificate slot: 0 holds the chain of the ML-DSA-44 key, 1 that of the ECDSA key. -/
def State.certSlot (s : State) (i : Nat) : Option (List Byte) :=
  ((if i = 0 then s.keyFor .mldsa44 else if i = 1 then s.keyFor .ecdsaP384 else none)).map Config.certChain

/-- CIDs that some debug session has unlocked. -/
def State.unlockedCids (s : State) : Nat := (uniq (s.sessions.flatMap Session.unlocks)).length

/-- What the repair area holds: site maps, and the numbers of the other repairs. -/
def State.repairBytes (s : State) : List Byte :=
  Config.repairArea (s.sides.map Side.sitemap)
    (s.sides.map (fun d => d.roles.map Role.code ++ d.retired ++ [d.waysOff.toNat] ++ d.sramRows.flatMap (fun p => [p.1, p.2]) ++
      d.sramCols.flatMap fun p => [p.1, p.2]) ++ s.links.map fun p => p.2.widths ++ p.2.spares ++ p.2.bonds ++ [p.2.rate])

/-- Measurements 1 to 6. -/
def State.measurements (s : State) : List (List Byte) :=
  [Config.romDigest, s.bootDigest, bytesOf 2 s.bootSvn ++ bytesOf 2 s.minSvn, Config.sha3 s.repairBytes,
   bytesOf 4 s.layerCap ++ bytesOf 4 s.fabCfg, bytesOf 4 s.unlockedCids]

def execSpdmGetMeasurements (fn : Nat) (s : State) : Answer :=
  .next (match Tbl.get fn s.spdmAlgo with
    | none => s
    | some alg =>
      match s.keyFor alg.sig with
      | none => s
      | some key =>
        if s.doeUp fn then
          let ms := s.measurements
          { s with measured := Tbl.put fn (ms, Config.spdmSign (alg.sig == .mldsa44) key ms.flatten) s.measured }
        else s)

end Sys2Proof.Machine
end

