-- ==== Sys2Proof/Machine/Time.lean ====
section
/-! DEFINITION. The discipline of the DTB (14 R373 to R376, 18 R444): measurements against PTM or the card's 1PPS input, steps, slews,
holdover, and how the DTB advances in one fc. Choices and readings: log entries 6, 35. -/

namespace Sys2Proof.Machine

/-- Accuracy of a source in ns: 50 under PTM, 10 under 1PPS. -/
def Dtb.accuracy (d : Dtb) : Int := if d.src = 1 then 50 else 10

/-- Offsets up to this many ns are slewed. -/
def slewLimit : Int := 1000000

/-- An offset as DV_TOFFSET holds it: an i32 that saturates. -/
def satI32 (x : Int) : Word := BitVec.ofInt 32 (max (-(2 ^ 31)) (min (2 ^ 31 - 1) x))

/-- The DTB jumps by some 2^-16 ns, and its time of the last edge with it. -/
def Dtb.jump (d : Dtb) (k : Int) : Dtb :=
  let total := (d.sub.toNat : Int) + k
  { d with
    ns := d.ns + BitVec.ofInt 64 (total / 2 ^ 16), sub := BitVec.ofInt 16 (total % 2 ^ 16)
    lastEdgeNs := ((d.lastEdgeNs : Int) + k / 2 ^ 16).toNat }

/-- What the size of an offset in ns leads to, of which some 2^-16 ns are gone since it was measured: one forward step above +1 ms, else a
slew of what is left. -/
def Dtb.correct (d : Dtb) (off gone : Int) : Dtb :=
  let left := off * 2 ^ 16 - gone
  if slewLimit < off then { d.jump left with stepped := true, slewing := false, slew := 0, rate := 0 }
  else if left = 0 then { d with slew := 0, rate := 0 }
  else { d with slewing := true, slew := left, slow := decide (off < -slewLimit), rate := 0 }

/-- A measurement of the offset, source minus DTB, in ns. -/
def Dtb.measure (d : Dtb) (off gone : Int) : Dtb :=
  let good := if off.natAbs ≤ d.accuracy.toNat then d.good + 1 else 0
  { d with toffset := satI32 off, good := good, locked := decide (16 ≤ good), holdover := false }.correct off gone

/-- The last edge has the TAI second s, and the source time at it was s x 10^9 ns. -/
def Dtb.edgeAt (d : Dtb) (s : Nat) : Dtb :=
  { d with lastEdge := some s, edgePending := false, since := 0 }.measure ((s * 1000000000 : Nat) - d.lastEdgeNs) d.since

/-- An edge without a valid line counts as one second after the previous edge. -/
def Dtb.edgeNext (d : Dtb) : Dtb :=
  match d.lastEdge with
  | some s => d.edgeAt (s + 1)
  | none => { d with edgePending := false }

def execPpsEdge (s : State) : Answer :=
  .next (if s.dtb.src = 2 then
    let d := if s.dtb.edgePending then s.dtb.edgeNext else s.dtb
    { s with dtb := { d with lastEdgeNs := d.ns.toNat, edgePending := true, since := 0 } }
  else s)

/-- Decimal digits up to the next comma: their value, and the rest. -/
def digits : Nat → Option Nat → List Byte → Option (Nat × List Byte)
  | _, none, [] => none
  | _, some v, [] => some (v, [])
  | acc, seen, c :: cs =>
    if 48 ≤ c.toNat ∧ c.toNat ≤ 57 then digits (10 * acc + (c.toNat - 48)) (some (10 * acc + (c.toNat - 48))) cs
    else match seen with
      | some v => if c.toNat = 44 then some (v, cs) else none
      | none => none

/-- The seconds of a line ZTOD,s,v that is well formed and valid. -/
def ztodOf (line : List Byte) : Option Nat :=
  if (line.take 5).map BitVec.toNat = [90, 84, 79, 68, 44] then
    match digits 0 none (line.drop 5) with
    | some (s, rest) => if rest.map BitVec.toNat = [49] then some s else none
    | none => none
  else none

/-- A line belongs to the edge before it when it comes within 500 ms. -/
def lineWindow : Nat := 500000000

def execZtodLine (line : List Byte) (s : State) : Answer :=
  .next (if s.dtb.src = 2 ∧ s.dtb.edgePending = true ∧ s.ns ≤ s.dtb.lastEdgeNs + lineWindow then
    { s with dtb := match ztodOf line with
        | some v => s.dtb.edgeAt v
        | none => s.dtb.edgeNext }
  else s)

def execPtmDialogue (source : Int) (s : State) : Answer :=
  .next (if s.dtb.src = 1 then { s with dtb := s.dtb.measure (source - s.ns) 0 } else s)

/-- Time without an edge that means the source is lost. -/
def edgeWindow : Nat := 2000000000

/-- The selected source is lost: always an event from outside under PTM, after 2 s without an edge under 1PPS. -/
def Dtb.lost (d : Dtb) : Bool := d.src == 1 || (d.src == 2 && decide (d.lastEdgeNs + edgeWindow ≤ d.ns.toNat))

/-- The DTB runs on at its last rate. -/
def Dtb.hold (d : Dtb) : Dtb := { d with holdover := true, slewing := false, slew := 0, good := 0, locked := false, edgePending := false }

/-- An edge whose line has not come within its window counts as one second after the previous edge. -/
def Dtb.lineMissed (d : Dtb) : Dtb := if d.edgePending && decide (d.lastEdgeNs + lineWindow < d.ns.toNat) then d.edgeNext else d

def execHoldover (s : State) : Answer := .next (if s.dtb.lost then { s with dtb := s.dtb.hold } else s)

/-- The offset has reached 0: the nominal rate again. -/
def execSlewComplete (s : State) : Answer :=
  .next (if s.dtb.slewing && s.dtb.slew == 0 then { s with dtb := { s.dtb with slewing := false, slow := false, rate := 0 } } else s)

/-! ### One fc of the DTB (R373, R376) -/

/-- The rate's deviation in the next fc, in parts of 10^4: none, the slow limit, or a free one toward the offset within the limits. -/
def Dtb.nextRate (d : Dtb) (n : Nat) : Int :=
  if !d.slewing then d.rate
  else if d.slew = 0 then 0
  else if d.slow then -5
  else if 0 < d.slew then (n % 6 : Nat) else -((n % 6 : Nat) : Int)

/-- A correction that does not pass the offset that is left. -/
def Dtb.clip (d : Dtb) (c : Int) : Int :=
  if !d.slewing then c else if 0 ≤ d.slew then max 0 (min c d.slew) else min 0 (max c d.slew)

/-- One fc of 10/26, 10/21 or 10/16 ns, in units of 2^-16 ns with what the division leaves, at the rate of the discipline. -/
def Dtb.advance (d : Dtb) (div n : Nat) : Dtb :=
  let whole := 10 * 2 ^ 16 + d.phase % div
  let rate := d.nextRate n
  let corr := 10 * 2 ^ 16 * rate + d.slewPhase
  let unit : Int := ((div * 10000 : Nat) : Int)
  let c := d.clip (corr.tdiv unit)
  let total : Int := (d.sub.toNat + whole / div : Nat) + c
  { d with
    ns := d.ns + BitVec.ofInt 64 (total / 2 ^ 16)
    sub := BitVec.ofInt 16 (total % 2 ^ 16)
    phase := whole % div
    rate := rate
    slewPhase := corr.tmod unit
    slew := if d.slewing then d.slew - c else d.slew
    since := d.since + c }

end Sys2Proof.Machine
end

