-- ==== Sys2Proof/Machine/Cycle.lean ====
section
/-! DEFINITION. The end of an fc (01 R36 to R38, 05 R159, R162, R169, 08 R267, 14 R389, R392): stall counters, what takes effect at the
end of the fc, the off signals, and the passing of time. Choices and readings: log entries 6, 47, 50, 58, 66. -/

namespace Sys2Proof.Machine

/-! ### Stall counters (R38) -/

/-- A 16-bit counter that saturates. -/
def satInc (c : BitVec 16) : BitVec 16 := if c = 0xFFFF then c else c + 1

/-- Whether counter k increments: a firing issued for 0, a node that holds reason k for 1 to 14. -/
def Tile.counts (t : Tile) (k : Nat) : Bool := if k = 0 then t.issued else t.nodes.any fun n => n.2.stall == k

def Tile.countStalls (t : Tile) : Tile :=
  { t with stallCnt := t.stallCnt.zipIdx.map fun (c, k) => if t.counts k then satInc c else c }

/-! ### What takes effect at the end of an fc -/

/-- Absorbed tokens change the counts of a carry and a gate (R159, R162). -/
def Node.endFc (n : Node) : Node :=
  { n with carryCount := n.carryCount - n.carryDown, carryDown := 0, gateBack := n.gateBack + n.gateUp, gateUp := 0, fired := false }

/-- Consumed entries are free (R36); the marks of the fc end. -/
def Tile.endFc (t : Tile) (now : Nat) : Tile :=
  { t with
    store := t.store.filter fun e => !e.spent
    nodes := t.nodes.map fun n => (n.1, n.2.endFc)
    inCh := t.inCh.map fun c => (c.1, { c.2 with delivered := false, occSum := c.2.occSum + c.2.queue.length })
    issued := false, injected := 0, accepted := [], flagsNow := 0
    hist := t.hist.filter fun h => decide (now ≤ h.2.2 + 16) }

/-- A time base or slack that S4 reaches in this fc is sampled; the flags of a saturated slack join the firing's (R118, R125, R126). -/
def State.sampleFlight (s : State) (b now : Nat) (f : Flight) : Flight :=
  let due (o : Out) : Option (Payload × Flags) := match o.res with
    | .clock c => if f.due ≤ now + 3 then some (s.sample b c) else none
    | _ => none
  { f with
    outs := f.outs.map fun o => match due o with
      | some r => { o with res := .pay r.1 }
      | none => o
    flags := f.flags ||| flagsOr (f.outs.map fun o => ((due o).map Prod.snd).getD 0) }

def State.sampleTile (s : State) (b now : Nat) (t : Tile) : Tile := { t with flights := t.flights.map (s.sampleFlight b now) }

/-- What the next fc sees of a handler's pending slot (R273). -/
def Handler.settle (h : Handler) : Handler := { h with fresh := false }

/-- A handler's argument enters its channel in the fc after its firing (R273). -/
def Billet.landArgs (x : Billet) : List (Nat × Nat × Token) → Billet
  | [] => { x with args := [] }
  | (t, ch, tok) :: rest =>
    (x.modTile t fun y => { y with inCh := y.inCh.map fun c => (c.1, if c.1 = ch then { c.2 with queue := c.2.queue ++ [tok] } else c.2) }).landArgs rest

/-- A node of a handler or drain block fires or could fire (R345 step 3). -/
def Tile.drains (t : Tile) : Bool := t.nodes.any fun n =>
  (n.2.fired || n.2.stall == 10) && (t.block (n.1 / 64)).any fun b => hdrKind b.hdr == 1 || hdrKind b.hdr == 4

/-- A firing, an access or an arriving token (R448). -/
def Tile.busy (t : Tile) : Bool :=
  t.issued || !t.accepted.isEmpty || !t.flights.isEmpty || !t.port.isEmpty || !t.flying.isEmpty

/-- The nodes whose results wait in the tile for a channel that is OFF: replies, qget tokens and the head of the return queue (R268). -/
def Billet.offWaits (x : Billet) (cap now ti : Nat) (t : Tile) : List Nat :=
  let off (tgt : Target) (row : Option Nat) : Bool := match tgt with
    | .chan c => x.chanOff cap now ti c.toNat row
    | _ => false
  ((t.flights.filter fun f => f.loose && f.hold.isNone && decide (f.due ≤ now) && f.outs.any fun o => off o.tgt o.row).map fun f =>
    posOf f.blk f.slot) ++
  ((t.rets.take 1).filter fun r => decide (r.due ≤ now) && off r.tgt none).map RetTok.pos

/-- They hold OFF, unless a reason that R37 puts before it, or a firing of this fc, stands. -/
def Tile.holdOff (t : Tile) (ps : List Nat) : Tile := ps.foldl (fun t p => t.modNode p (Node.waits 4)) t

/-- The end of an fc in a billet that time passes for, up to the csr accesses at S6: samples, waits and counters. -/
def State.countBillet (s : State) (b now : Nat) (x : Billet) : Billet :=
  { x with tiles := x.tiles.zipIdx.map fun (t, ti) =>
      ((s.sampleTile b now t).holdOff (x.offWaits (s.mtCap b) now ti t)).countStalls }

/-- The end of an fc in a billet that time passes for, after the csr accesses at S6. -/
def State.endBillet (now : Nat) (x : Billet) : Billet :=
  let drains := x.tiles.any Tile.drains
  let idle := if x.tiles.any Tile.busy then 0 else x.idle + 1
  let y : Billet := { x with
    tiles := x.tiles.map (Tile.endFc · now)
    colours := x.colours.filter fun (c : Colour) => !c.freed
    ctxs := x.ctxs.map fun (c : CopyCtx) => { c with moved := 0 }
    handlerFired := false
    handlers := x.handlers.map Handler.settle
    idle := idle
    evict := x.evict.map fun (e : Evict) => { e with quiet := if drains then 0 else e.quiet + 1 } }
  let late := if x.handlerFired then 1 else 0
  let landing := x.args.take (x.args.length - late)
  let z := y.landArgs landing
  { z with lastUse := if landing.isEmpty then x.lastUse else now, args := x.args.drop (x.args.length - late) }

/-- A frozen billet: what had taken effect stays, and no time passes for it (R392, R394). -/
def Billet.endFrozen (x : Billet) (now : Nat) : Billet :=
  { (x.shift (· + 1)) with
    tiles := (x.shift (· + 1)).tiles.map fun t => { t.endFc now with inCh := t.inCh.map fun c => (c.1, { c.2 with delivered := false }) }
    colours := x.colours.filter fun (c : Colour) => !c.freed
    ctxs := x.ctxs.map fun (c : CopyCtx) => { c with moved := 0 }
    handlerFired := false
    handlers := x.handlers.map Handler.settle
    evict := x.evict.map fun (e : Evict) => { e with startFc := e.startFc + 1 } }

/-- A billet that no time passes for in this fc: frozen, and not by what takes effect at its end. -/
def Billet.stands (x : Billet) : Bool := x.isFrozen && !x.lateFreeze

/-- Time passes in this fc for a billet of the side. -/
def State.passes (s : State) (side b : Nat) : Bool := sideOf b == side && !(s.billet b).stands && s.power == .c0

/-- The csr accesses at S6 of the billets that time passes for. -/
def State.csrEnds (s : State) (side : Nat) : State :=
  ((s.billets.map Prod.fst).filter (s.passes side)).foldl (fun s b => (List.range 8).foldl (fun s t => s.csrEnd ⟨b, t⟩) s) s

def State.countBillets (s : State) (side : Nat) : State :=
  let now := (s.side side).fc
  { s with billets := s.billets.map fun (b, x) => (b, if s.passes side b then s.countBillet b now x else x) }

def State.endBillets (s : State) (side : Nat) : State :=
  let now := (s.side side).fc
  let s := (s.countBillets side).csrEnds side
  { s with billets := s.billets.map fun (b, x) =>
      (b, if sideOf b ≠ side then x else if s.passes side b then State.endBillet now x else x.endFrozen now) }

/-! ### Off signals (R267) -/

/-- The off signal of an input channel after an fc: asserted by a closed gate or OFF tokens, deasserted at ON. -/
def InChan.signal (c : InChan) : Bool :=
  if !c.gate || decide (c.off ≤ c.queue.length) then true else if c.queue.length ≤ c.on then false else c.asserted

/-- Views of a billet's channels whose overridden routes lead to a channel (R405). -/
def Billet.detourViews (x : Billet) (b dest tile ch : Nat) : List SignalTo :=
  let hits (r : Route) : Bool := r.detour == some (dest, tile, ch)
  x.tiles.zipIdx.flatMap fun (t, ti) => t.outCh.flatMap fun (n, c) =>
    let r : Route := nthD {} x.routes c.route
    let members := if r.kind = .steer ∧ r.detour = none then
      ((nthD [] x.steer r.set).zipIdx.filter fun p => hits (nthD {} x.routes p.1)).map Prod.snd else []
    ((if hits r then [0] else []) ++ members).map fun d => SignalTo.out ⟨b, ti⟩ n d

/-- The C-tile a sender's view stands in. -/
def SignalTo.tile : SignalTo → Option Nat
  | .out a _ _ => some a.t
  | _ => none

/-- The senders of overridden routes of one context that hear of a channel's signal. -/
def State.detoursTo (s : State) (b tile ch : Nat) : List (SignalTo × Nat) :=
  s.billets.flatMap fun (c, x) =>
    if (x.routes.any fun (r : Route) => r.detour.isSome) && s.cidOf c == s.cidOf b then
      (x.detourViews c b tile ch).map fun k => (k, s.now c + s.oneWay b c (some tile) k.tile)
    else []

/-- Those who hear of a channel's signal, with the fc it reaches them in: senders of the billet, the store of an edge, the Front Desk. -/
def State.listeners (s : State) (b tile ch : Nat) (x : Billet) : List (SignalTo × Nat) :=
  let near := ((x.localSenders b tile ch).map fun k => (k, s.now b + s.oneWay b b (some tile) k.tile)) ++ s.detoursTo b tile ch
  match x.page.bind fun p => (s.launch? p.launch).map fun l => (p, l) with
  | none => near
  | some (p, l) =>
    let stores := (l.edges.filter fun e => e.cons = p.page ∧ e.ctile = tile ∧ e.cch = ch ∧ e.st ≠ .direct).map fun e =>
      (SignalTo.drain l.id e.id, (s.side (l.homeSide e.cons)).fc + s.sliceTime b (l.storeSide e) (some tile))
    let desk := if l.args.any fun a => a.page = p.page ∧ a.tile = tile ∧ a.ch = ch then
        [(SignalTo.arg l.id p.page tile ch, (s.side l.side).fc + s.oneWay (deskOf l.side) b none (some tile))]
      else []
    near ++ stores ++ desk

/-- The signals that the channels of a billet send at the end of an fc. -/
def State.billetSignals (s : State) (b : Nat) (x : Billet) : List Signal :=
  x.tiles.zipIdx.flatMap fun (t, ti) => t.inCh.flatMap fun (ch, c) =>
    if c.signal = c.asserted then [] else (s.listeners b ti ch x).map fun p => { hearer := p.1, val := c.signal, due := p.2 }

def Tile.setSignals (t : Tile) : Tile := { t with inCh := t.inCh.map fun c => (c.1, { c.2 with asserted := c.2.signal }) }

/-- Every channel of a side takes its signal, and changes go out. -/
def State.endSignals (s : State) (side : Nat) : State :=
  let mine := s.billets.filter fun p => sideOf p.1 = side
  { s with
    signals := s.signals ++ mine.flatMap fun (b, x) => s.billetSignals b x
    billets := s.billets.map fun (b, x) => (b, if sideOf b = side then { x with tiles := x.tiles.map Tile.setSignals } else x) }

/-! ### The off signals of edges (R267, R351, R354) -/

/-- What an edge's producer should see: the consumer channel's signal while DIRECT, a full store otherwise. -/
def State.edgeOff (s : State) (l : Launch) (e : Edge) : Bool :=
  if e.st = .direct then
    (s.billet e.dest).isFrozen || ((Tbl.get e.cch ((s.billet e.dest).tile e.ctile).inCh).elim true InChan.asserted)
  else !s.storeRoom l e

/-- A producer that is resident and configured. -/
def State.produces (s : State) (l : Launch) (e : Edge) : Option Nat :=
  (l.placeOf e.prod).bind fun b => if (s.billet b).load.all fun d => d.phase == .closed || d.phase == .running then some b else none

/-- One edge at the end of an fc of its producer's side. -/
def State.endEdge (s : State) (side : Nat) (l : Launch) (e : Edge) : State :=
  match s.produces l e, s.producerView l e with
  | some b, some v =>
    if sideOf b ≠ side ∨ s.edgeOff l e = e.off then s
    else
      let time := if e.st = .direct then s.oneWay b e.dest (some e.ptile) (some e.ctile) else s.sliceTime b (l.storeSide e) (some e.ptile)
      let s' := s.modEdge l.id e.id fun x => { x with off := s.edgeOff l e }
      { s' with signals := s'.signals ++ [{ hearer := v, val := s.edgeOff l e, due := s.now b + time }] }
  | _, _ => if e.off then s else s.modEdge l.id e.id fun x => { x with off := true }

def State.endEdges (s : State) (side : Nat) : State :=
  (s.launches.flatMap fun (l : Launch) => l.edges.map fun e => (l, e)).foldl (fun s (p : Launch × Edge) => s.endEdge side p.1 p.2) s

/-! ### Time -/

/-- Run time counts while a billet of the launch has an open gate and is neither frozen nor gated (R389). -/
def State.runs (s : State) (l : Launch) : Bool :=
  (s.billetsOf l.id).any fun b =>
    let x := s.billet b
    !x.isFrozen && !x.bodyGated && x.tiles.any fun t => t.inCh.any fun c => c.2.gate

/-- The DTB goes on by one fc of side 0, and the launches' run time with it; a cached translation may be lost. -/
def State.endTime (s : State) : State :=
  let (n, s) := s.draw
  let d := if s.powered then s.dtb.advance (clkDiv (s.side 0).clk) n else s.dtb
  let ns := (d.ns - s.dtb.ns).toNat
  { s with dtb := d.lineMissed, tlb := tlbLoses (n / 2) s.tlb, launches := s.launches.map fun (l : Launch) => if s.runs l then { l with runNs := l.runNs + ns } else l }

def State.flitStands (s : State) (f : Flit) : Bool :=
  (s.billet f.src.b).stands || (f.dest.billet.any fun b => (s.billet b).stands)

/-- Flits and signals that a freeze holds are due an fc later (R392). -/
def State.holdFrozen (s : State) (side : Nat) : State :=
  let heldOut (k : SignalTo) : Bool := match k with
    | .out a _ _ => sideOf a.b == side && (s.billet a.b).stands
    | _ => false
  { s with
    flits := s.flits.map fun f => if sideOf f.src.b == side && s.flitStands f then { f with due := f.due + 1 } else f
    signals := s.signals.map fun g => if heldOut g.hearer then { g with due := g.due + 1 } else g }

/-- Length of an fc in the model's unit of time: 1/87360 ns. -/
def fcUnits (clk : Nat) : Nat := 87360 / clkDiv clk * 10

/-- The side's fc has passed; the leads of the two sides are counted from the one behind. -/
def State.passFc (s : State) (side : Nat) : State :=
  let s := s.modSide side fun d => { d with fc := d.fc + 1, lead := d.lead + fcUnits d.clk }
  let least := min (s.side 0).lead (s.side 1).lead
  { s with sides := s.sides.map fun d => { d with lead := d.lead - least } }

def State.passFreezes (s : State) (side : Nat) : State :=
  { s with billets := s.billets.map fun (b, x) => (b, if sideOf b = side then { x with lateFreeze := false } else x) }

/-- The end of an fc of a side. -/
def execStallCounterUpdate (side : Nat) (s : State) : Answer :=
  .next (
    let s := (((s.endBillets side).endSignals side).endEdges side).holdFrozen side |>.passFreezes side
    let s := if side = 0 then s.endTime else s
    s.passFc side)

end Sys2Proof.Machine
end

