-- ==== Sys2Proof/Machine/Matrix.lean ====
section
/-! DEFINITION. The matrix engine, rings, accumulator tiles and sparse accumulation (07 R224 to R237). Choices and readings: log entries
24, 71. -/

namespace Sys2Proof

def XX.accPointer (x : XX) : List Nat := (List.range 8).filter fun j => x.accmask.getLsbD j

/-- NPAIR; 0 means 1,024 (R92). -/
def XX.pairs (x : XX) : Nat := if x.npair = 0 then 1024 else x.npair.toNat

end Sys2Proof

namespace Sys2Proof.Machine

/-! ### Rings (R225, R227, R230) -/

def Billet.ring? (x : Billet) (r : Nat) : Option Ring := Tbl.get r x.rings
def Ring.headFull (g : Ring) : Bool := g.full.contains g.head

def Ring.stateWord (g : Ring) : Word :=
  BitVec.ofNat 32 (g.head + 2 ^ 10 * g.tail + 2 ^ 20 * g.full.length + (if g.claim.isSome then 2 ^ 31 else 0))

/-- Pops the head tile. -/
def Ring.pop (g : Ring) : Ring :=
  { g with full := g.full.filter (· ≠ g.head), head := (g.head + 1) % g.slots, reads := 0 }

/-- Counts one read of the head tile, which is popped after REUSE + 1 reads. -/
def Ring.countRead (g : Ring) : Ring := if g.reads + 1 > g.reuse then g.pop else { g with reads := g.reads + 1 }

def Ring.cleared (g : Ring) : Ring := { g with full := [], head := 0, tail := 0, reads := 0, part := 0 }

/-- Elements of a row in a ring's format (R230). -/
def ringK (fmt : Nat) : Nat := 16 * fmtK fmt

/-- The 256 words of a ring's tile. -/
def State.ringTile (s : State) (b : Nat) (g : Ring) (slot : Nat) : List Word :=
  wordsOfBytes 256 (Memory.reads s.scr (scrKey b g.mtile (g.base * 1024 + slot * 1024)) 1024)

/-- Element kind and elements per lane of a ring's format; LNS6 codes are six bits, five to a lane (R49, R52). -/
def ringElem (fmt : Nat) : Elem × Nat := (fmtElem fmt).getD (.int false 6, fmtK fmt)

/-- Row m of a tile as element codes. -/
def rowElems (fmt m : Nat) (tile : List Word) : List Nat :=
  elemsOf (ringElem fmt).1.width (ringElem fmt).2 ((tile.drop (16 * m)).take 16)

/-! ### Pair times (R233) -/

def ceilDiv (a b : Nat) : Nat := (a + b - 1) / b

/-- Width of an operand for the brick count: the PCF width, or the significand or integer width when that is less. -/
def operandWidth (el : Elem) (code : Nat) : Nat :=
  let f := match el with
    | .flt t => t.sig
    | .int _ w => w
  match pcfWidth code with
  | some w => min w f
  | none => f

/-- P of a pair of ring formats; 20 for LNS6 (format 14). -/
def pairTime (fa fb ca cb : Nat) : Nat :=
  if fa = 14 then 20
  else
    let kc := min (ringK fa) (ringK fb)
    let b := ceilDiv (operandWidth (ringElem fa).1 ca) 2 * ceilDiv (operandWidth (ringElem fb).1 cb) 2
    if b ≤ 16 then ceilDiv kc (16 / b) else kc * ceilDiv b 16

/-! ### Reads and steps of pairs (R230, R232, R233) -/

/-- The wider of a pair's rings, with its part count q, when the formats differ. -/
def widerRing (ra rb : Nat) (ga gb : Ring) : Option (Nat × Nat) :=
  if ringK ga.fmt > ringK gb.fmt then some (ra, ringK ga.fmt / ringK gb.fmt)
  else if ringK gb.fmt > ringK ga.fmt then some (rb, ringK gb.fmt / ringK ga.fmt)
  else none

/-- One read of a ring by a pair: the wider ring counts it after its last part. -/
def readRing (wide : Option (Nat × Nat)) (r : Nat) (g : Ring) : Ring :=
  match wide with
  | some (w, q) =>
    if w = r then
      (if g.part + 1 = q then { g with part := 0 }.countRead else { g with part := g.part + 1 })
    else g.countRead
  | none => g.countRead

/-- The node of a pair. -/
def Tile.mmaAt (t : Tile) (pos : Nat) : Option (XX × Bool × Bool × AccTy) :=
  match t.instrAt (pos / 64) (pos % 64) with
  | some (.mma x f l ty) => some (x, f, l, ty)
  | _ => none

/-- A pair has still to read the tile of a ring: its slot, where the ring is one of its node's. -/
def MPair.reads (p : MPair) (x : XX) (r : Nat) : Option Nat :=
  if x.ra.toNat = r then (if p.a.isEmpty then some p.ha else none)
  else if x.rb.toNat = r then (if p.b.isEmpty then some p.hb else none) else none

/-- The pair with the tile of a ring as its operand, or as both operands where both are of that ring (R230). -/
def MPair.take (p : MPair) (x : XX) (r : Nat) (ws : List Word) : MPair :=
  { p with a := if x.ra.toNat = r then ws else p.a, b := if x.rb.toNat = r then ws else p.b }

/-- The pairs of a tile that have still to read a slot of a ring take it. -/
def Tile.takeTile (t : Tile) (r slot : Nat) (ws : List Word) : Tile :=
  { t with mpairs := t.mpairs.map fun p => match t.mmaAt p.pos with
      | some (x, _, _, _) => if p.reads x r = some slot then p.take x r ws else p
      | none => p }

/-- Pops the head tile of a ring; every pair that started on it and has still to read it has read it by then (R225, R227). That the
tiles which share a ring all read what it held is the model's choice (log entry 24). -/
def State.popRing (s : State) (b r : Nat) (g : Ring) : State :=
  let ws := s.ringTile b g g.head
  s.modBillet b fun y => { y with tiles := y.tiles.map fun t => t.takeTile r g.head ws, rings := Tbl.put r g.pop y.rings }

/-- One pair reads its tile of one ring: the ring counts the read, and its tile is popped when that was the last (R225, R233). A pair whose
tile has gone has read it already. -/
def State.readOne (s : State) (a : TileAddr) (x : XX) (p : MPair) (r : Nat) : State :=
  let bl := s.billet a.b
  match bl.ring? x.ra.toNat, bl.ring? x.rb.toNat, bl.ring? r, p.reads x r with
  | some ga, some gb, some g, some slot =>
    let ws := s.ringTile a.b g slot
    let g' := readRing (widerRing x.ra.toNat x.rb.toNat ga gb) r g
    let popped := g.headFull && !g'.full.contains g.head
    let s := s.modTile a fun t => { t with mpairs := t.mpairs.map fun q => if q.pos = p.pos ∧ q.start = p.start then q.take x r ws else q }
    if g.head ≠ slot ∨ g.headFull = false then s
    else if popped then (s.popRing a.b r g).modBillet a.b fun y => { y with rings := Tbl.put r g' y.rings }
    else s.modBillet a.b fun y => { y with rings := Tbl.put r g' y.rings }
  | _, _, _, _ => s

/-- A pair's reads complete: its operands are taken, tiles read often enough are popped. -/
def State.readPair (s : State) (a : TileAddr) (x : XX) (p : MPair) : State :=
  let s := s.readOne a x p x.ra.toNat
  if x.ra = x.rb then s else s.readOne a x p x.rb.toNat

/-- The fc in which a pair's reads complete has come (R233). -/
def MPair.readsIn (p : MPair) (now : Nat) : Bool := decide (p.start + p.p ≤ now + 1)

/-- Completes the reads of every pair of a tile that are due by an fc. -/
def State.readsDue (s : State) (a : TileAddr) (now : Nat) : List MPair → State
  | [] => s
  | p :: ps =>
    let s := if p.readsIn now then
        match (s.tile a).mmaAt p.pos with
        | some (x, _, _, _) => s.readPair a x p
        | none => s
      else s
    s.readsDue a now ps

def execMmaReadsComplete (a : TileAddr) (s : State) : Answer :=
  .next (if s.active a.b then s.readsDue a (s.now a.b) (s.tile a).mpairs else s)

/-- The Kc codes of a row that a pair uses: all of a narrower row, part p of a wider one. -/
def partOf (kc p : Nat) (xs : List Nat) : List Nat := if xs.length = kc then xs else (xs.drop (p * kc)).take kc

/-- One word of the accumulator after a step (R67, R232). -/
def stepWord (ty : AccTy) (old : Word) (ea eb : Elem) (ca cb : Nat) (xs ys : List Nat) : Word × Flags :=
  match ty with
  | .q16 =>
    let ts := (xs.zip ys).map fun p => linFromLog p.1 p.2
    let (v, f) := q16Sat (old.toInt + (ts.map Prod.fst).foldl (· + ·) 0)
    (BitVec.ofInt 32 v, f ||| flagsOr (ts.map Prod.snd))
  | .f32 =>
    let ps := (xs.zip ys).map fun p => mulExact (reduceElem ea ca p.1) (reduceElem eb cb p.2)
    let (v, f1) := sumExact .rne (f32Of old :: ps.map Prod.fst)
    let (w, f2) := roundDir .f32 .rne v
    (f32Bits w, f1 ||| f2 ||| flagsOr (ps.map Prod.snd))
  | .i32 =>
    let ps := (xs.zip ys).map fun p => (mulExact (reduceElem ea ca p.1) (reduceElem eb cb p.2)).1
    let x := (toIntSat .rtz (-(2 ^ 80)) (2 ^ 80) 0 0 (sumExact .rne (Val.ofInt old.toInt :: ps)).1).1
    (BitVec.ofInt 32 x, Flags.when (decide (x < -2147483648 ∨ x > 2147483647)) fIOVF)

/-- All 256 words after a step, m outermost. -/
def stepTile (x : XX) (ty : AccTy) (fa fb kc part : Nat) (zero : Bool) (old a b : List Word) : List (Word × Flags) :=
  let rows := (List.range 16).map fun m => partOf kc part (rowElems fa m a)
  let cols := (List.range 16).map fun n => partOf kc part (rowElems fb n b)
  (rows.zipIdx).flatMap fun (r, m) => (cols.zipIdx).map fun (c, n) =>
    stepWord ty (if zero then 0 else nthD 0 old (16 * m + n)) (ringElem fa).1 (ringElem fb).1 x.wa.toNat x.wb.toNat r c

/-- The next set bit of a mask, cyclically. -/
def nextBit (bits : List Nat) (cur : Nat) : Nat := ((bits.find? fun j => j > cur).orElse fun _ => bits.head?).getD cur

/-- The accumulation of a pair retires (R232). -/
def Tile.retire (t : Tile) (x : XX) (last : Bool) (p : MPair) : Tile :=
  let t := { t with
    acc := modNth (fun (c : Accum) => { c with st := if last then .full else .opened, claim := none }) p.acc t.acc
    tlm := t.tlm + 1 }
  t.modNode p.pos fun n => { n with accTile := none, pairs := 0, ptr := some (nextBit x.accPointer p.acc) }

/-- Applies a pair's step to its accumulator tile. -/
def State.applyPair (s : State) (a : TileAddr) (p : MPair) : State :=
  match (s.tile a).mmaAt p.pos with
  | none => s
  | some (x, first, last, ty) =>
    match (s.billet a.b).ring? x.ra.toNat, (s.billet a.b).ring? x.rb.toNat with
    | some ga, some gb =>
      let kc := min (ringK ga.fmt) (ringK gb.fmt)
      let rs := stepTile x ty ga.fmt gb.fmt kc p.part (p.first && first) (nthD {} (s.tile a).acc p.acc).words p.a p.b
      let fl := flagsOr (rs.map Prod.snd)
      s.modTile a fun t =>
        let t := { t with
          mpairs := t.mpairs.drop 1
          fflags := t.fflags ||| fl
          flagsNow := t.flagsNow ||| fl
          acc := modNth (fun (c : Accum) => { c with words := rs.map Prod.fst, ty := ty }) p.acc t.acc }
        if p.last then t.retire x last p else t
    | _, _ => s

def execMmaStepApply (a : TileAddr) (s : State) : Answer :=
  .next (if s.active a.b then
    match (s.tile a).mpairs with
    | p :: _ => if !p.a.isEmpty && !p.b.isEmpty && decide (p.start + p.p + 4 ≤ s.now a.b) then s.applyPair a p else s
    | [] => s
  else s)

/-! ### mma (R230, R231) -/

/-- A tile that an mzero waits to empty opens no accumulation and starts no drain (R229). -/
def Tile.mzeroed (t : Tile) (j : Nat) : Bool := t.mzeros.any fun z => z.wait.contains j

/-- A tile is being drained. -/
def Tile.draining (t : Tile) (j : Nat) : Bool := t.nodes.any fun (_, n) => n.drain.any fun d => d.acc = j

/-- The current tile is free for a new accumulation (R231). -/
def Tile.accFree (t : Tile) (j : Nat) (first : Bool) (ty : AccTy) : Bool :=
  let c : Accum := nthD {} t.acc j
  c.claim.isNone && !t.mzeroed j && (if first then c.st == .empty else c.st == .opened && c.ty == ty)

/-- Starts a pair on the heads of its rings. -/
def State.startPair (s : State) (x : XX) (j : Nat) (ga gb : Ring) : State :=
  let now := s.now s.sel.b
  let nd := s.node s.sel
  let p := pairTime ga.fmt gb.fmt x.wa.toNat x.wb.toNat
  let part := match widerRing x.ra.toNat x.rb.toNat ga gb with
    | some (w, _) => if w = x.ra.toNat then ga.part else gb.part
    | none => 0
  let pair : MPair := { pos := s.sel.pos, acc := j, first := decide (nd.pairs = 0), start := now, p := p, part := part,
                        last := decide (nd.pairs + 1 = x.pairs), ha := ga.head, hb := gb.head }
  let s := s.modTile s.selTile fun t =>
    let t := { t with
      mtxFree := now + p
      rrMatrix := s.sel.pos
      mpairs := t.mpairs ++ [pair]
      acc := modNth (fun (c : Accum) => { c with claim := some s.sel.pos }) j t.acc }
    t.modNode s.sel.pos fun n => { n with accTile := some j, pairs := n.pairs + 1, stall := 0, fired := true }
  s.modBillet s.sel.b fun y => { y with lastUse := now, idle := 0 }

/-- mma holds the first of RING, ACC and FULL that applies; an accumulation whose last pair has started keeps the node at ACC. -/
def execMma (x : XX) (first last : Bool) (acc : AccTy) (s : State) : Answer :=
  .next (s.atNode (.mma x first last acc) fun _ =>
    let b := s.billet s.sel.b
    let t := b.tile s.sel.t
    let nd := t.node s.sel.pos
    match b.ring? x.ra.toNat, b.ring? x.rb.toNat with
    | some ga, some gb =>
      if !ga.headFull || !gb.headFull then s.setStall 12
      else
        let cur := nd.ptr.getD ((x.accPointer.head?).getD 0)
        match nd.accTile with
        | some j =>
          if nd.pairs ≥ x.pairs then s.setStall 13
          else if t.mtxFree ≤ s.now s.sel.b then s.startPair x j ga gb else s.setStall 0
        | none =>
          if !t.accFree cur first acc then s.setStall 13
          else if t.tileOps ≥ 16 then s.setStall 5
          else if t.mtxFree ≤ s.now s.sel.b then s.startPair x cur ga gb else s.setStall 0
    | _, _ => s.setStall 12)

/-! ### mzero and mdrain (R229, R234) -/

def maskBits (n : GNode) : List Nat := (List.range 8).filter fun j => n.imm.testBit j

/-- Empties accumulator tiles. -/
def Tile.emptyAcc (t : Tile) (js : List Nat) : Tile :=
  { t with acc := t.acc.zipIdx.map fun (c, j) => if js.contains j then {} else c }

/-- mzero issues whatever the tiles' states; MZERO_COMPLETE empties them at the end of an fc, this one the first (R229). -/
def execMzero (n : GNode) (s : State) : Answer :=
  let i : Instr := .mzero n
  .next (s.onLoose i fun f =>
    let p : Payload := .word (f.word .L)
    if !s.guardTrue i f then s.tryFire i { use := fun t => t.useAll f.took, outs := sendAll i f.tag.asData (.pay p) }
    else
      let x := s.billet s.sel.b
      let z : MZero := { id := x.nextId, blk := s.sel.blk, slot := s.sel.slot, tag := f.tag.asData, pay := p, wait := maskBits n }
      s.tryFire i
        { use := fun t => let t := t.useAll f.took; { t with mzeros := t.mzeros ++ [z] }
          outs := sendAll i f.tag.asData (.pay p), loose := true, busy := decide ((x.tile s.sel.t).tileOps ≥ 16)
          hold := some x.nextId, bill := fun y => { y with nextId := x.nextId + 1 } })

def execMzeroComplete (a : TileAddr) (k : Nat) (s : State) : Answer :=
  .next (if s.active a.b then
    match takeNth k (s.tile a).mzeros with
    | none => s
    | some (z, rest) =>
      let t := s.tile a
      let ready := z.wait.filter fun j => (nthD {} t.acc j).claim.isNone && !t.draining j
      let left := z.wait.filter fun j => !ready.contains j
      let s := s.modTile a fun t =>
        let t := t.emptyAcc ready
        { t with mzeros := if left.isEmpty then rest else setNth k { z with wait := left } t.mzeros }
      if left.isEmpty then s.deliver a z.id z.tag z.pay else s
  else s)

/-- The route of an output channel. -/
def Billet.routeOf (x : Billet) (tile ch : Nat) : Option Route :=
  (Tbl.get ch (x.tile tile).outCh).map fun c => nthD {} x.routes c.route

/-- Destinations of the steering set of mdrain's channel. -/
def Billet.steerCount (x : Billet) (tile : Nat) (t : Target) : Nat :=
  match t with
  | .chan c => ((x.routeOf tile c.toNat).map fun r => (nthD [] x.steer r.set).length).getD 0
  | _ => 0

def execMdrain (n : GNode) (s : State) : Answer :=
  let i : Instr := .mdrain n
  let dests := (s.billet s.sel.b).steerCount s.sel.t n.t0
  .next (s.onNode i
    (fun tag took =>
      let f := s.fireOf i tag took
      let t := s.tile s.selTile
      let nd := t.node s.sel.pos
      let cur := nd.ptr.getD (((maskBits n).head?).getD 0)
      let v := (f.word .L).toNat % 256
      if nd.drain.isSome || (nthD {} t.acc cur).st != .full || t.mzeroed cur then s.setStall 13
      else
        let d : Drain := { tag := tag, acc := cur, row := 0, dest := if v = 255 then none else some v, next := f.now + 6 }
        let fr : Firing :=
          { use := fun t => t.useAll took, loose := true, busy := decide (t.tileOps ≥ 16)
            outs := if v = 255 then [] else [{ tgt := n.t0, tag := tag, res := .pay (.word 0), row := some v }]
            node := fun x => { x with drain := some d, ptr := some cur } }
        if v ≠ 255 ∧ v ≥ dests then s.trapAt clsBounds tag 0 v
        else s.whenFree i fr (s.commit i { fr with outs := [] }))
    (fun tag level took =>
      if (s.node s.sel).drain.isSome then s.setStall 5
      else s.tryFire i (s.endFiring tag took ((List.range dests).map fun d => { endOut tag level n.t0 with row := some d }))))

/-- The value of an accumulator word (R234). -/
def accVal (ty : AccTy) (w : Word) : Val :=
  match ty with
  | .f32 => f32Of w
  | .i32 => Val.ofInt w.toInt
  | .q16 => (Val.ofInt w.toInt).scale (-16)

/-- A row as its channel sends it: raw words, or encoded at S6. -/
def Tile.drainRow (t : Tile) (ch : Nat) (c : Accum) (m now : Nat) : Payload × Flags :=
  let ws := (c.words.drop (16 * m)).take 16
  let oc : OutChan := (Tbl.get ch t.outCh).getD {}
  if oc.shape = .packed then encodeElems oc.fmt (t.scaleAt oc.scx (now - 1)) (ws.map (accVal c.ty)) else (.vec ws, 0)

/-- The drain after a row; row 15 empties the tile and advances the pointer. -/
def Tile.rowLeft (t : Tile) (n : NodeAddr) (g : GNode) (d : Drain) (now : Nat) : Tile :=
  if d.row = 15 then
    (t.emptyAcc [d.acc]).modNode n.pos fun x => { x with drain := none, ptr := some (nextBit (maskBits g) d.acc) }
  else t.modNode n.pos fun x => { x with drain := some { d with row := d.row + 1, next := now + 1 } }

/-- ITER of the token with index m under a tag (R234): ITER × 16 + m. -/
def rowTag (tag : Tag) (m : Nat) : Tag := { tag.asData with iter := tag.iter * 16 + BitVec.ofNat 16 m }

def State.sendRow (s : State) (n : NodeAddr) (g : GNode) (d : Drain) (ch : Nat) : State :=
  let a := n.tileAddr
  let now := s.now n.b
  match d.dest with
  | none => s.modTile a fun t => t.rowLeft n g d now
  | some k =>
    if (s.billet n.b).chanOff (s.mtCap n.b) now n.t ch (some k) then s.modNode n (Node.waits 4)
    else
      let (p, fl) := (s.tile a).drainRow ch (nthD {} (s.tile a).acc d.acc) d.row now
      s.modTile a fun t =>
        { (t.rowLeft n g d now) with
          pool := t.pool ++ [{ ch := ch, tok := ⟨rowTag d.tag d.row, p⟩, row := some k }]
          fflags := t.fflags ||| fl
          flagsNow := t.flagsNow ||| fl }

def execMdrainRow (n : NodeAddr) (s : State) : Answer :=
  .next (if s.active n.b then
    match (s.tile n.tileAddr).instrAt n.blk n.slot, (s.node n).drain with
    | some (.mdrain g), some d =>
      if d.next ≤ s.now n.b then
        (match g.t0 with
         | .chan c => s.sendRow n g d c.toNat
         | _ => s)
      else s
    | _, _ => s
  else s)

/-! ### rpush and ringst (R225 to R227) -/

/-- The row write of an rpush, in flight until it performs in the ring's M-tile. -/
def State.rowWrite (s : State) (i : Instr) (f : Fire) (g : Ring) (row : Nat) : Acc :=
  { s.newAcc i f [] (.vec (f.lanes 16 .L)) with
    locs := [(0, .scr (scrKey s.sel.b g.mtile (g.base * 1024 + g.tail * 1024 + row * 64)))] }

/-- rpush sends its row into flight; row 15's result waits until that row has performed (R226). -/
def execRpush (n : GNode) (s : State) : Answer :=
  let i : Instr := .rpush n
  let r := n.imm % 16
  .next (s.onNode i
    (fun tag took =>
      let f := s.fireOf i tag took
      let row := (s.node s.sel).rpushRow
      let x := s.billet s.sel.b
      match x.ring? r with
      | none => s.setStall 12
      | some g =>
        if row ≥ 16 || !g.mayFill (s.sel.t, s.sel.pos) then s.setStall 12
        else
          s.tryFire i
            { use := fun t => let t := t.useAll took; { t with flying := t.flying ++ [s.rowWrite i f g row] }
              outs := if row = 15 then sendAll i tag.asData (.pay (.word 0)) else []
              loose := true, hold := some x.nextId
              node := fun x => { x with rpushRow := row + 1 }
              bill := fun y => { y with nextId := x.nextId + 1, rings := Tbl.put r { g with claim := some (s.sel.t, s.sel.pos) } y.rings } })
    (fun tag level took =>
      let row := (s.node s.sel).rpushRow
      if row = 0 then s.forwardEnd i tag tag level took
      else if row ≥ 16 then s.setStall 12
      else s.trapAt clsStreamMismatch tag 0 0))

/-- The billet's pairs whose read of the head tile of a ring falls in this fc complete it: a pop or reset follows it (R227, R233). -/
def State.readsOn (s : State) (b r : Nat) : List Nat → State
  | [] => s
  | t :: ts =>
    let a : TileAddr := ⟨b, t⟩
    (((s.tile a).mpairs.filter fun p => p.readsIn (s.now b)).foldl (fun s p => match (s.tile a).mmaAt p.pos with
      | some (x, _, _, _) => s.readOne a x p r
      | none => s) s).readsOn b r ts

/-- A ring after a pop. Where a pair's read in the same fc has popped the tile that the pop waited for, the pop takes the next tile if that one is
FULL, and otherwise has nothing left to take: the spec does not say which, and this is the model's choice (log entry 71). -/
def Ring.popAfterReads (g : Ring) : Ring := if g.headFull then g.pop else g

def execRingst (n : GNode) (op : RingOp) (s : State) : Answer :=
  let i : Instr := .ringst n op
  let r := n.imm % 16
  .next (s.onNode i
    (fun tag took =>
      let f := s.fireOf i tag took
      match (s.billet s.sel.b).ring? r with
      | none => s.setStall 12
      | some g =>
        let send (w : Word) : Firing := { use := fun t => t.useAll took, outs := sendAll i tag.asData (.pay (.word w)) }
        if op = .query || !s.guardTrue i f then s.tryFire i (send g.stateWord)
        else if (if op = .pop then !g.headFull else g.claim.isSome) then s.setStall 12
        else
          let s1 := s.readsOn s.sel.b r (List.range 8)
          let g1 := ((s1.billet s.sel.b).ring? r).getD g
          let g2 := if op = .pop then g1.popAfterReads else g1.cleared
          let fr := send g2.stateWord
          s.whenFree i fr (s1.commit i { fr with bill := fun y => { y with rings := Tbl.put r g2 y.rings } }))
    (fun tag level took => s.forwardEnd i tag tag level took))

/-! ### Sparse accumulation (R235 to R237) -/

def execSpacc (n : GNode) (s : State) : Answer :=
  let i : Instr := .spacc n
  .next (s.onLoose i fun f =>
    let outs := sendAll i f.tag.asData (.pay (.word 0))
    if !s.guardTrue i f then s.tryFire i { use := fun t => t.useAll f.took, outs := outs }
    else
      let x := s.billet s.sel.b
      let m := n.xmod % 8
      let cv := f.word .L
      let op : SparseOp := { tile := s.selTile, acc := x.nextId, instr := i, loc := .scr (scrKey s.sel.b m 0),
                             data := .vec [cv, f.word .R], pos := s.sel.pos, coord := some (m, cv.toNat / 65536) }
      let a := { s.newAcc i f [] (.word 0) with atUnit := true }
      let fr : Firing :=
        { use := fun t => let t := t.useAll f.took; { t with flying := t.flying ++ [a] }
          outs := outs, loose := true, hold := some x.nextId
          busy := x.counterFull s.sel.t i || decide ((s.sparse.filter fun o => o.unit = op.unit).length ≥ Config.sparseOps)
          bill := fun y => { y with nextId := x.nextId + 1 } }
      s.whenFree i fr (let s := s.commit i fr; { s with sparse := s.sparse ++ [op] }))

def execSpflush (n : GNode) (rm : Round) (s : State) : Answer :=
  let i : Instr := .spflush n rm
  .next (s.onNode i
    (fun tag took =>
      if (s.node s.sel).flush.isSome then s.setStall 5
      else
        let now := s.now s.sel.b
        s.tryFire i { use := fun t => t.useAll took, loose := true, busy := decide ((s.tile s.selTile).tileOps ≥ 16),
                      node := fun x => { x with flush := some { tag := tag, issue := now, next := now + 6 } } })
    (fun tag level took => if (s.node s.sel).flush.isSome then s.setStall 5 else s.forwardEnd i tag tag level took))

/-- spacc operations on an M-tile that were issued before a flush and have not been applied. -/
def State.spaccBefore (s : State) (b m issue : Nat) : Bool :=
  (List.range 8).any fun t => ((s.tile ⟨b, t⟩).flying).any fun a => match a.instr with
    | .spacc g => g.xmod % 8 == m && decide (a.issue < issue)
    | _ => false

/-- Whether every target takes a token now that is not issued through S1 to S6 (R36, R268). -/
def State.takesNow (s : State) (n : NodeAddr) (tag : Tag) : List Target → Room
  | [] => .ok
  | y :: ys =>
    let x := s.billet n.b
    let t := x.tile n.t
    let here : Room := match y with
      | .none => .ok
      | .port sl p => if t.takes (s.now n.b) n.blk sl.toNat p tag then .ok else (t.portSpace n.blk sl.toNat p tag).worse .hold
      | .chan c => if x.chanOff (s.mtCap n.b) (s.now n.b) n.t c.toNat none then .off else .ok
    here.worse (s.takesNow n tag ys)

/-- The stall reason of a lack of room (R37). -/
def Room.reason : Room → Nat
  | .dup => 6 | .full => 5 | .off => 4 | .hold => 10 | .ok => 0

/-- Sends a token that is not issued through S1 to S6 to its targets. -/
def State.sendNow (s : State) (n : NodeAddr) (tag : Tag) (p : Payload) : List Target → State
  | [] => s
  | y :: ys =>
    (s.offerOut n.tileAddr n.blk (s.now n.b) { tgt := y, tag := tag, res := .pay p }).sendNow n tag p ys

/-- The occupied entry of lowest coordinate that a flush has not passed. -/
def State.flushEntry (s : State) (b m floor : Nat) : Option (Nat × Word) :=
  (sortBy Prod.fst ((nthD {} (s.billet b).mtiles m).spacc.filter fun e => decide (floor ≤ e.1))).head?

/-- The next token of a flush: an entry as a CV32 word, which is cleared, or the END. -/
def State.flushNext (s : State) (n : NodeAddr) (g : GNode) (rm : Round) (f : Flush) : State :=
  let ts := tgts (.spflush g rm)
  let now := s.now n.b
  let m := g.xmod % 8
  let tag : Tag := { f.tag.asData with iter := BitVec.ofNat 16 f.sent }
  let room := s.takesNow n tag ts
  if room ≠ .ok then s.modNode n (Node.waits room.reason)
  else match s.flushEntry n.b m f.floor with
    | none =>
      (s.sendNow n { tag with kind := .fin } (.word (BitVec.ofNat 32 (g.imm % 8))) ts).modNode n fun x => { x with flush := none }
    | some (c, w) =>
      let (v, fl) := roundDir .f16 rm (f32Of w)
      let s := s.sendNow n tag (.word (BitVec.ofNat 32 (c * 65536 + FFmt.encode .f16 v))) ts
      let s := s.modTile n.tileAddr fun t => { t with fflags := t.fflags ||| fl, flagsNow := t.flagsNow ||| fl }
      let s := s.modBillet n.b fun x => { x with mtiles := modNth (fun (t : MTile) => { t with spacc := Tbl.del c t.spacc }) m x.mtiles }
      s.modNode n fun x => { x with flush := some { f with sent := f.sent + 1, floor := c + 1, next := now + 1 } }

def execSpflushEntry (n : NodeAddr) (s : State) : Answer :=
  .next (if s.active n.b then
    match (s.tile n.tileAddr).instrAt n.blk n.slot, (s.node n).flush with
    | some (.spflush g rm), some f =>
      let m := g.xmod % 8
      if f.next > s.now n.b then s
      else if !f.started && s.spaccBefore n.b m f.issue then s
      else s.flushNext n g rm { f with started := true }
    | _, _ => s
  else s)

end Sys2Proof.Machine
end

