-- ==== Sys2Proof/Machine/SysNodes.lean ====
section
/-! DEFINITION. The system nodes of row 0x7: raise, hset, hclr, trap, chk, csr, brk and halt (07 R238 to R245). -/

namespace Sys2Proof.Machine

/-- A node without targets consumes an END without effect (R223). -/
def State.dropEnd (s : State) (i : Instr) (tag : Tag) (took : List Entry) : State := s.tryFire i (s.endFiring tag took [])

/-- CTRL tokens that stand in the billet's control FIFO, on their way to it, or issued toward it (R238). -/
def Billet.ctrlUse (x : Billet) : Nat :=
  x.ctrl.length + x.arrivals.length + (x.tiles.map fun t => (t.flights.filter fun f => match f.fx with
    | .raise _ _ => true
    | _ => false).length).sum

def execRaise (n : GNode) (s : State) : Answer :=
  let i : Instr := .raise n
  .next (s.onNode i
    (fun tag took =>
      let f := s.fireOf i tag took
      let fr : Firing := { use := fun t => t.useAll took }
      let ctag : Tag := { tag with kind := .ctrl }
      if !s.guardTrue i f then s.tryFire i fr
      else if n.t0 = .none then
        s.tryFire i { fr with fx := .raise (n.imm % 32) ⟨ctag, .word (f.word .L)⟩,
                              busy := decide ((s.billet s.sel.b).ctrlUse ≥ Config.controlFifo) }
      else s.tryFire i { fr with outs := sendAll i ctag (.pay (.word (f.word .L))) })
    (fun tag _ took => s.dropEnd i tag took))

/-- hset and hclr: the change takes place as the result leaves S6; a false guard changes nothing (R222, R239). -/
def State.handlerNode (s : State) (i : Instr) (n : GNode) (set en pend : Bool) : State :=
  s.onNode i
    (fun tag took =>
      let f := s.fireOf i tag took
      s.tryFire i { use := fun t => t.useAll took, outs := sendAll i tag.asData (.pay (.word (f.word .L))),
                    fx := if s.guardTrue i f then .handler (n.imm % 32) set en pend tag else .nothing })
    (fun tag level took => s.forwardEnd i tag tag level took)

def execHset (n : GNode) (en pend : Bool) (s : State) : Answer := .next (s.handlerNode (.hset n en pend) n true en pend)

def execHclr (n : GNode) (en pend : Bool) (s : State) : Answer := .next (s.handlerNode (.hclr n en pend) n false en pend)

def execTrap (n : GNode) (s : State) : Answer :=
  let i : Instr := .trap n
  .next (s.onNode i
    (fun tag took =>
      if s.guardTrue i (s.fireOf i tag took) then s.trapAt clsTrap tag 0 n.imm
      else s.tryFire i { use := fun t => t.useAll took })
    (fun tag _ took => s.dropEnd i tag took))

def execChk (n : GNode) (c : ChkFlag) (s : State) : Answer :=
  let i : Instr := .chk n c
  .next (s.onLoose i fun f =>
    if s.guardTrue i f then s.issueRelease i f none .system (.word (f.word .L))
    else s.tryFire i { use := fun t => t.useAll f.took, outs := sendAll i f.tag.asData (.pay (.word 2)) })

/-- csr: every form returns the old value; the access takes place at S6 (R59, R245). -/
def execCsr (n : GNode) (op : CsrOp) (s : State) : Answer :=
  let i : Instr := .csr n op
  .next (s.onNode i
    (fun tag took =>
      let f := s.fireOf i tag took
      s.tryFire i { use := fun t => t.useAll took, outs := sendAll i tag.asData (.pay (.word 0)),
                    fx := .csr (n.imm % 4096) op (f.word .L) (s.guardTrue i f) })
    (fun tag level took => s.forwardEnd i tag tag level took))

/-- brk (R241, R242): forwards its token; counts, or stops the launch under a debugger. -/
def execBrk (n : GNode) (s : State) : Answer :=
  let i : Instr := .brk n
  .next (s.onNode i
    (fun tag took =>
      let f := s.fireOf i tag took
      let fr : Firing := { use := fun t => t.useAll took
                           outs := sendAll i { tag with kind := f.kindOf .L } (.pay (f.pay n.w .L)) }
      match (s.billet s.sel.b).page with
      | none => s
      | some p =>
        if s.attached p.cid then s.whenFree i fr ((s.commit i fr).stopAt p.launch s.sel.b (.brk n.imm))
        else s.whenFree i fr ((s.commit i fr).modTile s.selTile fun t =>
          { t with brkCnt := if t.brkCnt = 0xFFFF then t.brkCnt else t.brkCnt + 1 }))
    (fun tag level took => s.forwardEnd i tag tag level took))

def execHalt (n : GNode) (s : State) : Answer :=
  let i : Instr := .halt n
  .next (s.onNode i
    (fun tag took =>
      let f := s.fireOf i tag took
      if s.guardTrue i f then s.issueRelease i f none .system (.word 0) else s.tryFire i { use := fun t => t.useAll took })
    (fun tag _ took => s.dropEnd i tag took))

end Sys2Proof.Machine
end

