-- ==== Sys2Proof/Machine/NodeStep.lean ====
section
/-! DEFINITION. The meanings of the node opcodes by constructor, for a firing that a debugger asks for (16 R424). -/

namespace Sys2Proof.Machine

/-- What a node does when the issue comes to it; an event of a unit does nothing here. -/
def nodeStep (i : Instr) (s : State) : Answer :=
  match i with
  | .add n ty sat => execAdd n ty sat s
  | .sub n ty sat => execSub n ty sat s
  | .mul n ty sat => execMul n ty sat s
  | .mulh n ty => execMulh n ty s
  | .mad n ty sat => execMad n ty sat s
  | .min n ty => execMin n ty s
  | .max n ty => execMax n ty s
  | .absn n ty sat neg => execAbsn n ty sat neg s
  | .and n => execAnd n s
  | .or n => execOr n s
  | .xor n => execXor n s
  | .andn n => execAndn n s
  | .shl n ty sat => execShl n ty sat s
  | .shr n ty ar => execShr n ty ar s
  | .rot n ty right => execRot n ty right s
  | .cmp n c => execCmp n c s
  | .sel n => execSel n s
  | .clz n ty => execClz n ty s
  | .popc n ty => execPopc n ty s
  | .bext n sx => execBext n sx s
  | .bins n => execBins n s
  | .lea n sc => execLea n sc s
  | .const n m => execConst n m s
  | .mov n => execMov n s
  | .sat n dst => execSat n dst s
  | .icvt n dst sat => execIcvt n dst sat s
  | .iota n => execIota n s
  | .tagget n f => execTagget n f s
  | .tagset n f => execTagset n f s
  | .rdtime n f => execRdtime n f s
  | .rdslack n => execRdslack n s
  | .fadd n ty rm => execFadd n ty rm s
  | .fsub n ty rm => execFsub n ty rm s
  | .fmul n ty rm => execFmul n ty rm s
  | .ffma n ty rm => execFfma n ty rm s
  | .fmin n ty => execFmin n ty s
  | .fmax n ty => execFmax n ty s
  | .fcmp n c => execFcmp n c s
  | .fsgn n ty op => execFsgn n ty op s
  | .frcpe n ty => execFrcpe n ty s
  | .frsqe n ty => execFrsqe n ty s
  | .fexp2e n ty => execFexp2e n ty s
  | .flog2e n ty => execFlog2e n ty s
  | .frnd n ty rm => execFrnd n ty rm s
  | .fcvt n dst rm => execFcvt n dst rm s
  | .ftoi n dst rm => execFtoi n dst rm s
  | .itof n dst rm => execItof n dst rm s
  | .cvtch n rm => execCvtch n rm s
  | .pack n => execPack n s
  | .unpack n => execUnpack n s
  | .sround n => execSround n s
  | .lmul n => execLmul n s
  | .lacc n => execLacc n s
  | .lcvt n tolns => execLcvt n tolns s
  | .scl n ty rm => execScl n ty rm s
  | .qnt n => execQnt n s
  | .dqnt n rm => execDqnt n rm s
  | .dot n q sat rm => execDot n q sat rm s
  | .rsum n m => execRsum n m s
  | .rmax n ty => execRmax n ty s
  | .rmin n ty => execRmin n ty s
  | .perm n => execPerm n s
  | .bcast n => execBcast n s
  | .lsh n rot => execLsh n rot s
  | .scan n m => execScan n m s
  | .cmpx n ty => execCmpx n ty s
  | .splat n => execSplat n s
  | .lget n => execLget n s
  | .lset n => execLset n s
  | .wcv n => execWcv n s
  | .steer n inv => execSteer n inv s
  | .merge n => execMerge n s
  | .carry n inc => execCarry n inc s
  | .gate n count => execGate n count s
  | .sink n => execSink n s
  | .eos n count => execEos n count s
  | .isend n => execIsend n s
  | .join n flush => execJoin n flush s
  | .spawn n two => execSpawn n two s
  | .ret n => execRet n s
  | .cnt n => execCnt n s
  | .isect n => execIsect n s
  | .unio n => execUnio n s
  | .porter n => execPorter n s
  | .rng n => execRng n s
  | .reorder n => execReorder n s
  | .ld n sp o => execLd n sp o s
  | .st n sp o => execSt n sp o s
  | .ldx n sp o => execLdx n sp o s
  | .stx n sp o => execStx n sp o s
  | .amo n sp o op => execAmo n sp o op s
  | .red n sp o op => execRed n sp o op s
  | .fence n o => execFence n o s
  | .wtaddr n glb c => execWtaddr n glb c s
  | .waitq n => execWaitq n s
  | .tlinc n => execTlinc n s
  | .tlwait n => execTlwait n s
  | .prf n => execPrf n s
  | .cpy n => execCpy n s
  | .cpyr n => execCpyr n s
  | .qput n => execQput n s
  | .qget n => execQget n s
  | .mma x first last acc => execMma x first last acc s
  | .mzero n => execMzero n s
  | .mdrain n => execMdrain n s
  | .rpush n => execRpush n s
  | .ringst n op => execRingst n op s
  | .spacc n => execSpacc n s
  | .spflush n rm => execSpflush n rm s
  | .raise n => execRaise n s
  | .hset n en pend => execHset n en pend s
  | .hclr n en pend => execHclr n en pend s
  | .trap n => execTrap n s
  | .chk n f => execChk n f s
  | .csr n op => execCsr n op s
  | .brk n => execBrk n s
  | .halt n => execHalt n s
  | _ => .next s

end Sys2Proof.Machine
end

