-- ==== Sys2Proof/Machine/Debug.lean ====
section
/-! DEFINITION. The debug function's commands (16 R421 to R424, 15 R405): stop, resume, one firing, discard, scan chains, memory,
breakpoints and route overrides. Choices and readings: log entries 41, 42. -/

/-- Bit n of a billet's scan chain. -/
opaque Sys2Proof.Config.scanBit : Sys2Proof.Machine.Billet → Nat → Bool
/-- A billet after bits of its scan chain have been written from a position on. -/
opaque Sys2Proof.Config.scanWrite : Sys2Proof.Machine.Billet → Nat → List Bool → Sys2Proof.Machine.Billet
/-- A chain position that belongs to a station word. -/
opaque Sys2Proof.Config.scanStation : Nat → Bool

namespace Sys2Proof.Machine

/-! ### Stop and resume -/

/-- A launch of the command's context. -/
def State.debugLaunch (s : State) (d : DbgReq) (r : RecId) : Option Launch := (s.launch? r).bind fun l => if l.cid = d.cid then some l else none

def State.isStopped (s : State) (d : DbgReq) (r : RecId) : Bool := (s.debugLaunch d r).any fun l => l.st == .stopped

def execStop (d : DbgReq) (r : RecId) (s : State) : Answer :=
  .next (s.debugCmd d ((s.debugLaunch d r).any fun l => l.st == .running) fun s => (s.debugStop r).say .ok)

/-- The head token of the reported comparator's channel passes it once (R423). -/
def Tile.pass (t : Tile) (ch idx : Nat) : Tile :=
  { t with inCh := t.inCh.map fun (c, x) => (c, if c = ch ∧ x.passed.contains idx = false then { x with passed := idx :: x.passed } else x) }

def State.passBreak (s : State) (r : RecId) : State :=
  match (s.launch? r).bind Launch.report with
  | some (.comparator b idx) =>
    (match (s.billet b).breaks.find? fun k => k.idx = idx with
     | some k => s.modTile ⟨b, k.tile⟩ fun t => t.pass k.ch idx
     | none => s)
  | _ => s

def execResume (d : DbgReq) (r : RecId) (s : State) : Answer :=
  .next (s.debugCmd d (s.isStopped d r) fun s => ((s.passBreak r).resumeLaunch r).say .ok)

/-! ### STEP (R424)

The firing runs in a copy in which its billet is not frozen and everything else of its tile stands aside; the copy's fc goes on
until the firing has sent its results, and what stood aside is put back. -/

/-- What an answer leads to. -/
def afterOf (a : Answer) (s : State) : State :=
  match a with
  | .next t => t
  | _ => s

/-- Distance in fc that puts a result out of reach of the step. -/
def farFc : Nat := 2 ^ 40

def Flight.away (f : Flight) : Flight := { f with due := f.due + farFc }
def Flight.back (f : Flight) : Flight := if farFc ≤ f.due then { f with due := f.due - farFc } else f

/-- The tile as the stepped firing finds it: the frozen state as it stands, with the issue stream free. -/
def Tile.forStep (t : Tile) : Tile :=
  { t with flights := t.flights.map Flight.away, issued := false, issueFree := 0, held := none, accepted := []
           nodes := t.nodes.map fun n => (n.1, { n.2 with fired := false }) }

/-- The billet as the stepped firing finds it. -/
def Billet.forStep (x : Billet) (t : Nat) : Billet := { x.modTile t Tile.forStep with frozen := [], c1 := false }

/-- After the firing, the accesses and pairs that were there before it stand aside. -/
def Tile.alone (t old : Tile) : Tile := { t with port := t.port.drop old.port.length, mpairs := t.mpairs.drop old.mpairs.length }

/-- The tile with what stood aside put back; the stamps of the step's own tokens do not lie in the future. -/
def Tile.afterStep (t old : Tile) (now : Nat) : Tile :=
  { t with
    flights := t.flights.map Flight.back
    port := old.port ++ t.port, mpairs := old.mpairs ++ t.mpairs
    issued := old.issued, issueFree := old.issueFree, held := old.held, accepted := old.accepted
    nodes := t.nodes.map fun n => (n.1, { n.2 with fired := false })
    store := t.store.map fun e => { e with since := if old.store.contains e then e.since else min e.since now } }

def Billet.afterStep (x old : Billet) (t now : Nat) : Billet :=
  { x.modTile t fun y => y.afterStep (old.tile t) now with
    frozen := old.frozen ++ x.frozen.filter fun f => !old.frozen.contains f
    c1 := old.c1 }

/-- Offers every result of the step that is due. -/
def State.offerAll (a : TileAddr) : Nat → State → State
  | 0, s => s
  | n + 1, s => State.offerAll a n (afterOf (execPipelineResultOffer a s) s)

/-- What of the step's tile and billet stood there before its firing, in number. -/
structure StepBase where
  flying : Nat
  slots : Nat
  mzeros : Nat
  watches : Nat
  releases : Nat
  sparse : Nat

def State.stepBase (s : State) (a : TileAddr) : StepBase :=
  { flying := (s.tile a).flying.length, slots := (s.tile a).slots.length, mzeros := (s.tile a).mzeros.length
    watches := (s.billet a.b).watches.length, releases := (s.billet a.b).releases.length, sparse := s.sparse.length }

/-- One fc of the stepped firing: its accesses, its waits, its engine work, its results. -/
def State.stepFc (s : State) (n : NodeAddr) (o : StepBase) : State :=
  let a := n.tileAddr
  let s := s.modSide (sideOf n.b) fun d => { d with fc := d.fc + 1 }
  let s := s.modTile a fun t => { t with accepted := [] }
  let s := afterOf (execMemoryPortAccess a s) s
  let s := afterOf (execAccessRetry a s) s
  let s := afterOf (execAccessComplete a o.flying s) s
  let s := if o.sparse < s.sparse.length then afterOf (execSparseUpdateApply [o.sparse] s) s else s
  let s := afterOf (execReleaseComplete n.b o.releases s) s
  let s := afterOf (execWatchReread n.b o.watches s) s
  let s := afterOf (execMmaReadsComplete a s) s
  let s := afterOf (execMmaStepApply a s) s
  let s := afterOf (execMdrainRow n s) s
  let s := afterOf (execSpflushEntry n s) s
  let s := afterOf (execMzeroComplete a o.mzeros s) s
  let s := afterOf (execWaitSlotDeliver a o.slots s) s
  s.offerAll a 4

/-- A result of the step is still due: one that waits for something other than an access after S6 is the frozen domain's (R424). -/
def Flight.dueInStep (f : Flight) (now : Nat) : Bool := decide (f.due < farFc) && !(f.hold.isSome && decide (f.issue + 6 ≤ now))

/-- Nothing of the stepped firing is left. -/
def State.stepDone (s : State) (n : NodeAddr) (o : StepBase) : Bool :=
  let t := s.tile n.tileAddr
  (t.flights.all fun f => !f.dueInStep (s.now n.b)) && t.port.isEmpty && decide (t.flying.length ≤ o.flying) && t.mpairs.isEmpty &&
    (t.node n.pos).drain.isNone && (t.node n.pos).flush.isNone && decide ((s.billet n.b).releases.length ≤ o.releases) &&
    decide (s.sparse.length ≤ o.sparse)

/-- A trap or UE of the step stands. -/
def State.trapDue (s : State) : Bool := s.due.any fun e => match e with
  | .trap _ _ => true
  | .ue _ _ => true
  | _ => false

def State.runStep (n : NodeAddr) (o : StepBase) : Nat → State → State
  | 0, s => s
  | k + 1, s => if s.stepDone n o || s.trapDue then s else State.runStep n o k (s.stepFc n o)

/-- Cycles within which a firing whose operations can perform has done so: a whole drain or flush, or a pair (R233). -/
def State.stepFuel (s : State) (n : NodeAddr) : Nat := 512 + ((s.billet n.b).mtiles.map fun m => m.spacc.length).sum

/-- Puts back what stood aside. -/
def State.endStep (s old : State) (n : NodeAddr) : State :=
  let now := old.now n.b
  let s := s.modSide (sideOf n.b) fun d => { d with fc := now }
  { s.modBillet n.b fun x => x.afterStep (old.billet n.b) n.t now with sel := old.sel, due := old.due ++ s.due }

/-- One firing of a node; none where R35 does not hold for it. A firing that traps writes its record; the launch stays STOPPED. -/
def State.stepNode (s : State) (n : NodeAddr) (i : Instr) : Option State :=
  let s0 := { s.modBillet n.b fun x => x.forStep n.t with sel := n, due := [] }
  let s1 := afterOf (nodeStep i s0) s0
  if !((s1.tile n.tileAddr).node n.pos).fired && !s1.trapDue then none
  else
    let s2 := State.runStep n (s.stepBase n.tileAddr) (s1.stepFuel n) (s1.modTile n.tileAddr fun t => t.alone (s.tile n.tileAddr))
    some ((s2.endStep s n).say (.fcs (s.now n.b) (s2.now n.b)))

def execStep (d : DbgReq) (r : RecId) (n : NodeAddr) (s : State) : Answer :=
  .next (s.debugCmd d (s.isStopped d r && ((s.billet n.b).page.any fun p => p.launch = r) && s.power == .c0) fun s =>
    (((s.tile n.tileAddr).instrAt n.blk n.slot).bind fun i => (s.passBreak r).stepNode n i).getD (s.say .notReady))

/-! ### DISCARD -/

/-- The tokens that stand matched in a STREAM_MISMATCH of the selected node (R33): at each non-sticky port the first of the context, in static
mode the head. -/
def State.mismatched (s : State) (i : Instr) : List Entry :=
  let t := s.tile s.selTile
  let ps := t.reads s.sel.blk s.sel.slot i
  let es := fun p => t.at s.sel.blk s.sel.slot p
  if t.isStatic s.sel.blk then (i.loosePorts ps).filterMap fun p => (es p).head?
  else match t.taggedBad s.sel.blk s.sel.slot i ps with
    | some e => (i.loosePorts ps).filterMap fun p => (es p).find? fun d => d.tok.tag.ctx == e.tok.tag.ctx
    | none => []

/-- The tokens of an isect or unio pair that its firing consumes; both where it would trap (R173, R174). -/
def State.pairTokens (s : State) (l r : Entry) : List Entry :=
  let static := (s.tile s.selTile).isStatic s.sel.blk
  let g := (s.node s.sel).seg (if static then (0, 0, 0) else l.tok.tag.ctx)
  if (l.tok.isEnd && r.tok.isEnd) || notRising g.prevL l || notRising g.prevR r then [l, r]
  else (if coordOf l ≤ coordOf r then [l] else []) ++ (if coordOf r ≤ coordOf l then [r] else [])

/-- The tokens at the ports of a merge or carry that it would take next, whatever else holds it (R151, R155 to R159). -/
def State.singleTokens (s : State) (i : Instr) : List Entry :=
  let of (p : Port) : Option Entry := (Sys2Proof.Machine.earliest ((s.candidates p).filter fun e => !e.tok.isEnd)).orElse fun _ =>
    ((s.candidates p).filter fun e => s.endReady p e).head?
  match i with
  | .merge _ =>
    match ((s.candidates .L).filter (mergeBad .L) ++ (s.candidates .R).filter (mergeBad .R)).head?, s.mergePick, s.mergeEnds with
    | some e, _, _ => [e]
    | none, some e, some (l, r) => if mergeEndFirst e l r then [l, r] else [e]
    | none, some e, none => [e]
    | none, none, some (l, r) => [l, r]
    | none, none, none => []
  | _ => ((((s.candidates .Q).head?).orElse fun _ => of .R).orElse fun _ => of .L).toList

/-- What the porter would take next: a reply, an END at L, an arc's DATA or the ENDs of all arcs (R176, R177). -/
def State.porterTokens (s : State) (n : GNode) : Option (Tile → Tile) :=
  let ls := s.candidates .L
  match (Sys2Proof.Machine.earliest (ls.filter fun e => !e.tok.isEnd)).orElse fun _ => (ls.filter fun e => e.tok.isEnd && s.endReady .L e).head? with
  | some e => some fun t => t.spendAll [e]
  | none =>
    let heads := (List.range (porterArcs n)).map (s.arcHead n)
    if heads.all fun h => h.any fun k => k.isEnd then some fun t => t.popArcs n (List.range (porterArcs n))
    else ((arcOrder (porterArcs n) (s.node s.sel).lastArc).find? fun a => (nthD none heads a).any fun k => !k.isEnd).map fun a t => t.popArcs n [a]

/-- What frees the matched tokens of the selected node's oldest complete key: those a firing would consume (R24 to R33), for a node that R151
excepts those of its own condition, and those that stand in a STREAM_MISMATCH. -/
def State.freesKey (s : State) (i : Instr) : Option (Tile → Tile) :=
  let some' (es : List Entry) : Option (Tile → Tile) := if es.isEmpty then none else some fun t => t.spendAll es
  match i with
  | .merge _ => some' (s.singleTokens i)
  | .carry _ _ => some' (s.singleTokens i)
  | .isect _ => some' (((bestHeads s.heads).map fun p => s.pairTokens p.1 p.2).getD [])
  | .unio _ => some' (((bestHeads s.heads).map fun p => s.pairTokens p.1 p.2).getD [])
  | .porter n => s.porterTokens n
  | .reorder _ =>
    if (Tbl.get 0 (s.node s.sel).window).isSome then some fun t => t.modNode s.sel.pos fun x => { x with window := Tbl.del 0 x.window }
    else some' (((s.candidates .L).find? fun e => e.tok.isEnd).toList)
  | _ =>
    match (match i with
      | .gate _ true => s.chooseOn i [.L]
      | _ => (s.tile s.selTile).choose s.sel.blk s.sel.slot i) with
    | .fire _ took => some fun t => t.useAll took
    | .fin _ _ took => some fun t => t.spendAll took
    | .mismatch _ => some' (s.mismatched i)
    | .stall _ => none

/-- The chain place of a trapped access goes on as a no-op; otherwise the oldest complete key's tokens are freed. -/
def State.discardAt (s : State) (n : NodeAddr) : Option State :=
  let t := s.tile n.tileAddr
  match (t.node n.pos).trapped with
  | k :: ks => some (s.modNode n fun x => { x with trapped := ks, performed := x.performed ++ [k] })
  | [] => ((t.instrAt n.blk n.slot).bind fun i => ({ s with sel := n } : State).freesKey i).map fun f => s.modTile n.tileAddr f

def execDiscard (d : DbgReq) (r : RecId) (n : NodeAddr) (s : State) : Answer :=
  .next (s.debugCmd d (s.isStopped d r && (s.billet n.b).page.any fun p => p.launch = r) fun s =>
    match s.discardAt n with
    | some s => s.say .ok
    | none => s.say .refused)

/-! ### Scan chains

The spec gives no layout of a chain: its bits are free functions of the billet's state (notes/assumptions/41.md). -/


/-- The billet stands frozen under a stopped launch of the context. -/
def State.scannable (s : State) (d : DbgReq) (b : Nat) : Bool :=
  (s.billet b).isFrozen && (s.billet b).page.any fun p => p.cid = d.cid && (s.launch? p.launch).any fun l => l.st == .stopped

def execScanrd (d : DbgReq) (b off len : Nat) (s : State) : Answer :=
  .next (s.debugCmd d (s.scannable d b) fun s => s.say (.bits ((List.range len).map fun i => Config.scanBit (s.billet b) (off + i))))

/-- Station words, and what is no state of the billet's tiles, stay as they are. -/
def Billet.keepFixed (new old : Billet) : Billet :=
  { new with
    page := old.page, load := old.load, evict := old.evict, frozen := old.frozen, gen := old.gen, breaks := old.breaks
    tiles := new.tiles.zipIdx.map fun (t, i) => { t with blocks := (old.tile i).blocks } }

def execScanwr (d : DbgReq) (b off : Nat) (bits : List Bool) (s : State) : Answer :=
  .next (s.debugCmd d (s.scannable d b && !((List.range bits.length).any fun i => Config.scanStation (off + i))) fun s =>
    (s.modBillet b fun x => (Config.scanWrite x off bits).keepFixed x).say .ok)

/-! ### Memory -/

/-- Bytes that one MEMRD or MEMWR may touch. -/
def memLimit : Nat := 4096

/-- Parts of a range, one for each 64-byte granule: address and length. -/
def granules (va : Nat) : Nat → Nat → List (Nat × Nat)
  | 0, _ => []
  | fuel + 1, n => if n = 0 then [] else (va, firstPart va n) :: granules (va + firstPart va n) fuel (n - firstPart va n)

def parts (va n : Nat) : List (Nat × Nat) := granules va 66 n

def State.readParts (s : State) (cid : Nat) : List (Nat × Nat) → Except State (List Byte × State)
  | [] => .ok ([], s)
  | (va, n) :: rest =>
    match s.sysRead1 cid va n false with
    | .error (s, _) => .error s
    | .ok (bs, s) => (s.readParts cid rest).map fun (cs, s) => (bs ++ cs, s)

/-- Every part of a range may be written (R422): nothing is written where one may not. -/
def State.mayParts (s : State) (cid : Nat) : List (Nat × Nat) → Except State State
  | [] => .ok s
  | (va, _) :: rest =>
    match s.sysMay cid va with
    | .error (s, _) => .error s
    | .ok (_, s) => s.mayParts cid rest

def State.writeParts (s : State) (cid : Nat) : List (Nat × Nat) → List Byte → Except State State
  | [], _ => .ok s
  | (va, n) :: rest, bs =>
    match s.sysWrite1 cid va (bs.take n) with
    | .error (s, _) => .error s
    | .ok s => s.writeParts cid rest (bs.drop n)

def execMemrd (d : DbgReq) (va len : Nat) (s : State) : Answer :=
  .next (s.debugCmd d (decide (len ≤ memLimit)) fun s =>
    match s.readParts d.cid (parts va len) with
    | .ok (bs, s) => s.say (.bytes bs)
    | .error s => s.say .refused)

def execMemwr (d : DbgReq) (va : Nat) (bytes : List Byte) (s : State) : Answer :=
  .next (s.debugCmd d (decide (bytes.length ≤ memLimit)) fun s =>
    match (s.mayParts d.cid (parts va bytes.length)).bind fun s => s.writeParts d.cid (parts va bytes.length) bytes with
    | .ok s => s.say .ok
    | .error s => s.say .refused)

/-! ### Breakpoints (R423) -/

/-- The fields of BL_BPn. -/
def breakOf (idx : Nat) (v : BitVec 192) : Break :=
  { idx := idx, en := v.getLsbD 0, once := v.getLsbD 1, tile := (v.extractLsb' 2 3).toNat, ch := (v.extractLsb' 5 5).toNat,
    tagVal := v.extractLsb' 32 40, tagMask := v.extractLsb' 72 40, pVal := v.extractLsb' 112 32, pMask := v.extractLsb' 144 32,
    hits := v.extractLsb' 176 16 }

/-- A page's comparators, in the debug function's store and in the billets it occupies. -/
def State.modBreaks (s : State) (cid page idx : Nat) (new : Option Break) : State :=
  { s with
    brkStore := (s.brkStore.filter fun e => !(e.1 == cid && e.2.1 == page && e.2.2.idx == idx)) ++ new.toList.map fun k => (cid, page, k)
    billets := s.billets.map fun (b, x) => (b, if x.page.any fun p => p.cid == cid && p.page == page then
      { x with breaks := (x.breaks.filter fun k => k.idx ≠ idx) ++ new.toList } else x) }

def execBpset (d : DbgReq) (page idx : Nat) (v : BitVec 192) (s : State) : Answer :=
  .next (s.debugCmd d (decide (idx < 8) && v.extractLsb' 10 22 == 0) fun s => (s.modBreaks d.cid page idx (some { breakOf idx v with owner := d.session })).say .ok)

def execBpclr (d : DbgReq) (page idx : Nat) (s : State) : Answer :=
  .next (s.debugCmd d (decide (idx < 8)) fun s => (s.modBreaks d.cid page idx none).say .ok)

/-! ### Route overrides (R405) -/

/-- The views that the channels of a billet have of a route's destination. -/
def Billet.viewsOf (x : Billet) (b k : Nat) : List SignalTo :=
  x.tiles.zipIdx.flatMap fun (t, ti) => t.outCh.flatMap fun (n, c) =>
    let r : Route := nthD {} x.routes c.route
    let own := if c.route = k then [0] else []
    let members := if r.kind = .steer then ((nthD [] x.steer r.set).zipIdx.filter fun p => p.1 == k).map Prod.snd else []
    (own ++ members).map fun d => SignalTo.out ⟨b, ti⟩ n d

/-- The off signal that a sender sees of an overridden route's destination: the channel's, or, behind a guard, none (R358). -/
def State.detourSignal (s : State) (b dest tile ch : Nat) : Bool :=
  s.cidOf b == s.cidOf dest && ((Tbl.get ch (s.tile ⟨dest, tile⟩).inCh).elim true InChan.asserted || (s.billet dest).isFrozen)

def State.setViews (s : State) (v : Bool) : List SignalTo → State
  | [] => s
  | k :: ks => (s.setView k v).setViews v ks

/-- A route's override, with the PHYS and RTT of its destination; its senders see that destination's signal. -/
def State.overrideRoute (s : State) (b k dest tile ch : Nat) : State :=
  let ks := (s.billet b).viewsOf b k
  let v := s.detourSignal b dest tile ch
  let aimed (r : Route) : Route := { r with detour := some (dest, tile, ch), phys := dest }
  let s := s.modBillet b fun x => { x with routes := modNth (fun r => { aimed r with rtt := 2 * s.longest b k (aimed r) }) k x.routes }
  { s with signals := s.signals.filter fun g => !ks.contains g.hearer }.setViews v ks

def execRoute (d : DbgReq) (r : RecId) (b route dest tile ch : Nat) (s : State) : Answer :=
  .next (s.debugCmd d (s.isStopped d r && ((s.billet b).page.any fun p => p.launch = r) && decide (route < (s.billet b).routes.length) &&
      decide (dest < 128) && decide (tile < 8) && decide (ch < 32)) fun s =>
    (s.overrideRoute b route dest tile ch).say .ok)

end Sys2Proof.Machine
end

