-- ==== Sys2Proof/Machine/Links.lean ====
section
/-! DEFINITION. Links (16 R418, 17 R434 to R436): failed CRCs, the request FIFO, retrains, lane and bond repair, width and rate changes,
and what the loss of a link leads to. Choices and readings: log entry 34. -/

namespace Sys2Proof.Machine

def LinkKind.code : LinkKind → Nat
  | .mesh => 0 | .vertical => 1 | .ucieA => 2 | .ucieB => 3

def LinkKind.ucie : LinkKind → Bool
  | .ucieA | .ucieB => true
  | .mesh | .vertical => false

/-- The ends between which a launch's flits go: its billets, its Front Desk, and the L2 slices of the sides on which its context's pages are
homed. -/
def State.launchEnds (s : State) (x : Launch) : List (Nat × Nat) :=
  let bs := s.billetsOf x.id
  let homes := [0, 1].filter fun side => (s.mappedBy x.cid).any fun r => homeOf r.1 == some side
  let far := deskOf x.side :: homes.flatMap s.slicePlaces
  pairs bs bs ++ pairs bs far ++ pairs far bs
where pairs (xs ys : List Nat) : List (Nat × Nat) := xs.flatMap fun x => ys.map fun y => (x, y)

/-- Contexts with a launch whose flits use a link (R418). -/
def State.linkUsers (s : State) (l : LinkId) : List Nat :=
  uniq ((s.launches.filter fun (x : Launch) => (s.launchEnds x).any fun e => s.flitCrosses l e.1 e.2).map Launch.cid)

/-! ### Requests (R435) -/

/-- Entries of a link's request FIFO. -/
def linkFifo : Nat := 8

/-- Failures of one link in a row that start a retrain (R418). -/
def crcLimit : Nat := 8

def LinkReq.isWidth : LinkReq → Bool
  | .width _ => true
  | _ => false

/-- The request whose turn it is: the oldest, but a pending width change before a frequency change. -/
def Link.turn (k : Link) : Option LinkReq :=
  match k.reqs with
  | [] => none
  | .freq r :: rest => some ((rest.find? LinkReq.isWidth).getD (.freq r))
  | q :: _ => some q

/-- A request joins the FIFO behind those that wait for room in it; one that finds it full waits at its source. -/
def Link.join (k : Link) (q : LinkReq) : Link :=
  if k.waiting.isEmpty && decide (k.reqs.length < linkFifo) then { k with reqs := k.reqs ++ [q] } else { k with waiting := k.waiting ++ [q] }

/-- What waits at its source comes into the room there is. -/
def Link.refill (k : Link) : Link :=
  let n := linkFifo - k.reqs.length
  { k with reqs := k.reqs ++ k.waiting.take n, waiting := k.waiting.drop n }

/-- The request whose turn it is runs when none does. -/
def Link.start (k : Link) : Link :=
  match k.running, k.turn with
  | none, some q => { k with running := some q, reqs := k.reqs.erase q }.refill
  | _, _ => k

/-- A request of a link. -/
def State.linkRequest (s : State) (l : LinkId) (q : LinkReq) : State :=
  if (s.link (linkKey l)).lost then s else s.modLink (linkKey l) fun k => (k.join q).start

/-- What eight failures in a row ask for: a retrain, or, where they were replays on one bond or wire of a vertical or mesh link, its repair
(R434); which of them it was, a free number says. -/
def LinkKind.afterFails (k : LinkKind) (n : Nat) : LinkReq := if !LinkKind.ucie k && n % 2 == 1 then .repair (n / 2) else .retrain

def execFlitCrcFail (l : LinkId) (s : State) : Answer :=
  .next (
    let fails := (s.link (linkKey l)).crcFails + 1
    if fails < crcLimit then s.modLink (linkKey l) fun k => { k with crcFails := fails }
    else
      let (n, s) := s.draw
      (s.modLink (linkKey l) fun k => { k with crcFails := 0 }).linkRequest l (LinkKind.afterFails l.kind n))

/-- A number of a bond or wire group whose spare is not in use and not asked for. -/
def Link.freshBond (k : Link) : Nat :=
  let used := k.bonds ++ ((k.reqs ++ k.waiting ++ k.running.toList).filterMap fun q => match q with
    | .repair md => some md
    | _ => none)
  ((List.range (used.length + 1)).find? fun n => !used.contains n).getD 0

/-- Proactive sparing of a link whose monitor is low (R434): a spare that is left, of its first module or group that has one; with none left
it changes nothing. -/
def State.spareLink (s : State) (l : LinkId) : State :=
  let k := s.link (linkKey l)
  if LinkKind.ucie l.kind then
    match (List.range 4).find? fun md => nthD 0 k.widths md != 0 && nthD 0 k.spares md != 0 with
    | some md => s.linkRequest l (.repair md)
    | none => s
  else s.linkRequest l (.repair k.freshBond)

def execLinkRetrain (l : LinkId) (s : State) : Answer := .next (s.linkRequest l .retrain)

def execLaneRepair (l : LinkId) (md : Nat) (s : State) : Answer :=
  .next (if LinkKind.ucie l.kind && decide (4 ≤ md) then s else s.linkRequest l (.repair md))

def execWidthChange (l : LinkId) (module : Nat) (s : State) : Answer :=
  .next (if LinkKind.ucie l.kind && decide (module < 4) then s.linkRequest l (.width module) else s)

def execFrequencyChange (l : LinkId) (rate : Nat) (s : State) : Answer := .next (s.linkRequest l (.freq rate))

/-! ### The end of a retrain (R434 to R436) -/

/-- Widths a module goes down by: 64, 32, 16 lanes, disabled. -/
def narrower (w : Nat) : Nat := if w = 64 then 32 else if w = 32 then 16 else 0

/-- The billet at the higher coordinate of a mesh link. -/
def meshHigher (l : LinkId) : Nat := (meshEnds l).2

/-- What a link's loss leads to. -/
def State.linkGone (s : State) (l : LinkId) : State :=
  match l.kind with
  | .mesh => (s.wantOut (meshHigher l)).retire (meshHigher l)
  | .vertical => s.cutLayers l.side l.layer l.port
  | _ => if (s.link ⟨.ucieA, 0, 0, 0⟩).lost && (s.link ⟨.ucieB, 0, 0, 0⟩).lost then s.isolate else s

/-- A link is lost for good. -/
def State.loseLink (s : State) (l : LinkId) : State :=
  (s.modLink (linkKey l) fun k => { k with lost := true, reqs := [], waiting := [], running := none }).linkGone l

/-- LINK records of a link, to the contexts that use it; those of a vertical link go out as its layers are cut off. -/
def State.linkRecords (s : State) (l : LinkId) (port : Nat) : State :=
  if l.kind = .vertical then s
  else s.copyTo { cls := clsLink, detail := linkCode l.side l.layer (LinkKind.code l.kind) port } (s.linkUsers l)

/-- A module loses width; a link whose modules are all disabled is lost. -/
def State.degrade (s : State) (l : LinkId) (md : Nat) : State :=
  let s := s.modLink (linkKey l) fun k => { k with widths := modNth narrower md k.widths }
  let s := (s.linkRecords l md).fabricTo 5 l.side s.validIds
  if (s.link (linkKey l)).widths.all fun w => w == 0 then s.loseLink l else s

/-- A lane or bond repair: a spare goes into use, or there is none left. -/
def State.repair (s : State) (l : LinkId) (md : Nat) : State :=
  let k := s.link (linkKey l)
  if LinkKind.ucie l.kind then
    if nthD 0 k.spares md = 0 then s.degrade l md
    else s.modLink (linkKey l) fun k => { k with spares := modNth (fun n => n - 1) md k.spares }
  else if k.bonds.contains md then (s.linkRecords l l.port).loseLink l
  else s.modLink (linkKey l) fun k => { k with bonds := k.bonds ++ [md] }

/-- A retrain that succeeds has done what it was asked for. -/
def State.applyLink (s : State) (l : LinkId) : LinkReq → State
  | .retrain => s
  | .repair md => s.repair l md
  | .width module => s.degrade l module
  | .freq rate => s.modLink (linkKey l) fun k => { k with rate := rate }

def execLinkRetrainDone (l : LinkId) (good : Bool) (s : State) : Answer :=
  .next (match (s.link (linkKey l)).running with
    | none => s
    | some q =>
      let s := s.modLink (linkKey l) fun k => { k with running := none, crcFails := 0 }
      let s := if good then s.applyLink l q else (s.linkRecords l l.port).loseLink l
      s.modLink (linkKey l) Link.start)

end Sys2Proof.Machine
end

