-- ==== Sys2Proof/Machine/Integrity.lean ====
section
/-! DEFINITION. Integrity events (16 R417, R419, 17 R434): corrected and uncorrectable errors, sparing of SRAM rows and columns, L2 ways
and GDDR 7 pages, aging monitors, the Innkeeper's restart. Choices and readings: log entries 33, 40, 44, 69. -/

namespace Sys2Proof.Machine

/-! ### Places of corrected errors

The model numbers a place of an error as bank + 2^20 x row + 2^40 x column; a bank as Y + 2^5 X + 2^10 layer + 2^12 k, with k the L2 way
where the structure is an L2. A GDDR 7 place (structure 8) is the physical address. notes/assumptions/40.md -/

def placeBank (p : Nat) : Nat := p % 2 ^ 20
def placeRow (p : Nat) : Nat := p / 2 ^ 20 % 2 ^ 20
def placeCol (p : Nat) : Nat := p / 2 ^ 40

/-- A bank as SRAM_REMAP names it: its structure code above its number. -/
def bankCode (struct place : Nat) : Nat := 2 ^ 20 * struct + placeBank place

/-- The site of a bank: layer, X, Y. -/
def bankSite (bank : Nat) : Nat × Nat × Nat := (bank / 2 ^ 10 % 4, bank / 2 ^ 5 % 32, bank % 2 ^ 5)

/-- 24 h in ns. -/
def dayNs : Nat := 86400000000000

/-- Corrected errors in one row, column or page that call for sparing. -/
def ceLimit : Nat := 4

def execEccCorrection (side struct place : Nat) (s : State) : Answer :=
  .next (s.modSide side fun d => { d with ceHist := d.ceHist ++ [(struct, place, s.ns)] })

/-- The history of the last 24 h. -/
def State.recentCes (s : State) (side : Nat) : List (Nat × Nat × Nat) :=
  (s.side side).ceHist.filter fun e => decide (s.ns ≤ e.2.2 + dayNs)

/-! ### SRAM rows and columns -/

/-- Rows or columns of one bank that have a spare. -/
def spareLines (column : Bool) : Nat := if column then 4 else 8

/-- The row or column of an error. -/
def lineIn (column : Bool) (p : Nat) : Nat := if column then placeCol p else placeRow p

/-- A row or column of a bank with four corrected errors within 24 h. -/
def State.hotLine (s : State) (side bank : Nat) (column : Bool) : Option Nat :=
  let es := ((s.recentCes side).filter fun e => e.1 ≠ 8 ∧ bankCode e.1 e.2.1 = bank).map fun e => lineIn column e.2.1
  es.find? fun v => decide (ceLimit ≤ (es.filter fun w => w == v).length)

/-- The billet's page uses the M-tile of a bank, which is remapped when the page has left. -/
def State.bankHeld (s : State) (side bank : Nat) : Bool :=
  let (layer, x, y) := bankSite bank
  bank / 2 ^ 20 == 1 && (s.billet (s.siteUser side layer x y)).page.isSome

/-- Errors of a line that has been dealt with leave the history. -/
def Side.forget (d : Side) (bank line : Nat) (column : Bool) : Side :=
  { d with ceHist := d.ceHist.filter fun e => !(e.1 != 8 && bankCode e.1 e.2.1 == bank && lineIn column e.2.1 == line) }

/-- A bank whose spares are used up: its site is spared, or its L2 way is disabled. -/
def Side.exhausted (d : Side) (bank : Nat) : Side :=
  if bank / 2 ^ 20 = 2 then
    let way := bank / 2 ^ 12 % 16
    { d with waysWanted := if d.waysWanted.contains way then d.waysWanted else d.waysWanted ++ [way] }
  else
    let site := bankSite bank
    { d with spareWanted := if d.spareWanted.contains site then d.spareWanted else d.spareWanted ++ [site] }

/-- Takes a spare row or column of a bank. -/
def Side.takeSpare (d : Side) (bank : Nat) (column : Bool) : Side :=
  let used := (Tbl.get bank (if column then d.sramCols else d.sramRows)).getD 0
  if spareLines column ≤ used then d.exhausted bank
  else if column then { d with sramCols := Tbl.put bank (used + 1) d.sramCols }
  else { d with sramRows := Tbl.put bank (used + 1) d.sramRows }

def execSramRemap (side bank : Nat) (column : Bool) (s : State) : Answer :=
  .next (match s.hotLine side bank column with
    | none => s
    | some line =>
      if s.keeperUp side && !s.bankHeld side bank then s.modSide side fun d => (d.forget bank line column).takeSpare bank column
      else s)

/-! ### L2 ways and GDDR 7 pages -/

/-- Writes the dirty bytes of one way back to GDDR 7 and drops its lines. -/
def State.dropWay (s : State) (side way : Nat) : State :=
  (((s.side side).l2lines.filter fun x => x.way == way).map L2Line.line).foldl (fun s line => s.dropL2 side line) s

def execL2WayDisable (side way : Nat) (s : State) : Answer :=
  .next (if s.keeperUp side && (s.side side).waysWanted.contains way && decide (way < 16) then
    (s.dropWay side way).modSide side fun d =>
      { d with waysOff := d.waysOff ||| BitVec.ofNat 16 (2 ^ way), waysWanted := d.waysWanted.filter fun w => w ≠ way }
  else s)

/-- The side on which a 64 KiB page is homed. -/
def pageSide (page : Nat) : Nat := if page * 65536 < Config.side1Base then 0 else 1

/-- A page with an uncorrectable error, or with four corrected errors within 24 h. -/
def State.pageBad (s : State) (page : Nat) : Bool :=
  (s.badLines.any fun l => l * Config.lineBytes / 65536 == page) ||
    decide (ceLimit ≤ ((s.recentCes (pageSide page)).filter fun e => e.1 = 8 ∧ e.2.1 / 65536 = page).length)

def execGddrPageRetire (page : Nat) (s : State) : Answer :=
  .next (if s.keeperUp (pageSide page) && s.pageBad page && !s.withdrawn.contains page then
    { s.logRecord { cls := clsUe, detail := 8, addr := page * 65536 } with withdrawn := s.withdrawn ++ [page] }
  else s)

/-! ### Aging monitors -/

/-- Proactive sparing of a site is scheduled. -/
def Side.schedule (d : Side) (site : Nat × Nat × Nat) : Side :=
  { d with spareLater := if d.spareLater.contains site then d.spareLater else d.spareLater ++ [site] }

/-- What a monitor below its threshold leads to. -/
def State.aged (s : State) (side : Nat) : List AgingSite → State
  | [] => s
  | .site layer x y :: rest => (s.modSide side fun d => d.schedule (layer, x, y)).aged side rest
  | .link l :: rest => (s.spareLink l).aged side rest

def execAgingMonitorRead (side : Nat) (low : List AgingSite) (s : State) : Answer :=
  .next (if s.keeperUp side then s.aged side low else s)

/-! ### Uncorrectable errors (R419) -/

def Acc.reads (a : Acc) : Bool :=
  match a.instr with
  | .st .. | .stx .. | .qput .. => false
  | _ => true

def Acc.touches (a : Acc) (line : Nat) : Bool := a.locs.any fun l =>
  match l.2 with
  | .glb pa _ => lineOf pa == line
  | .scr _ => false

/-- The first access of a tile that reads a line, in flight or, by its located lanes, at the head of the port, and the tile without it. -/
def Tile.readerOf (t : Tile) (line : Nat) : Option (Acc × Tile) :=
  let p (x : Acc) : Bool := x.reads && x.touches line
  match takeFirst p t.flying with
  | some (acc, rest) => some (acc, { t with flying := rest })
  | none => (t.port.head?).bind fun acc => if p acc then some (acc, { t with port := t.port.drop 1 }) else none

/-- A wtaddr of a tile whose watch reads a line again, and the billet without it. -/
def Billet.watcherOf (x : Billet) (tile line : Nat) : Option (Acc × Billet) :=
  (takeFirst (fun (w : Watch) => w.tile == tile && (match w.loc with
    | .glb pa _ => lineOf pa == line
    | .scr _ => false)) x.watches).map fun (w, rest) => (w.acc, { x with watches := rest })

/-- An access that has met an error sends nothing, and its operation leaves its unit. -/
def State.ueAccess (s : State) (a : TileAddr) (acc : Acc) (pa : Nat) : State :=
  let s : State := { s with sparse := s.sparse.filter fun o => !(o.tile == a && o.acc == acc.id) }
  let s := s.modTile a fun t =>
    ({ t with flights := t.flights.filter fun f => f.hold ≠ some acc.id } : Tile).modNode (posOf acc.blk acc.slot) fun n =>
      { n with trapped := n.trapped ++ [t.chainKey acc.blk acc.tag] }
  let code := s.lineCode (sideOf a.b) pa
  (if code = 8 then s.badLine pa else s).ueBillet a.b code pa a.t (posOf acc.blk acc.slot) (some acc.tag)

/-- The access that reads a bad line does not perform; its billet freezes. A line in error in GDDR 7 stays so. -/
def State.ueLine (s : State) (a : TileAddr) (pa : Nat) : State :=
  match (s.tile a).readerOf (lineOf pa) with
  | some (acc, t) => (s.modTile a fun _ => t).ueAccess a acc pa
  | none =>
    match (s.billet a.b).watcherOf a.t (lineOf pa) with
    | some (acc, x) => (s.setBillet a.b x).ueAccess a acc pa
    | none => s

/-- A line found by write-back, drain or scrub: later reads return the error again. -/
def State.ueScrub (s : State) (pa : Nat) : State :=
  (s.logRecord { cls := clsUe, detail := s.lineCode (pageSide (pa / 65536)) pa, addr := pa }).badLine pa

/-- A context record that fails its check; its page's load finds it. -/
def State.ueRecord (s : State) (r : RecId) (page : Nat) : State :=
  s.modLaunch r fun l => { l with
    pages := modNth (fun (p : PageState) => { p with record := p.record.map fun x => { x with good := false } }) page l.pages }

/-- A queue of the rebuilt residency table: its records are gone from the Front Desk, and it stands as its save area has it (R326). -/
def State.reloadQueue (s : State) (side i n : Nat) : State :=
  (s.modQueue n fun q => { q with recs := [], pend := [], waitDec := [] }).loadQueue n side i

/-- The residency table rebuilt from the save areas. -/
def State.rebuildTable (s : State) (side : Nat) : State :=
  (s.side side).resid.zipIdx.foldl (fun s p => match p.1.1 with
    | some n => s.reloadQueue side p.2 n
    | none => s) s

/-- The records of a side's queues that have their status complete. -/
def State.completeSide (s : State) (side : Nat) : State :=
  ((s.queues.filter fun p => p.2.side = side).flatMap fun (n, q) => (q.recs.filter fun x => x.outcome.isSome && !x.done).map fun x =>
    (⟨n, x.slot⟩ : RecId)).foldl State.completeRec s

/-- The Front Desk is reconfigured: its launches end with FAULT, and so do the records it had in execution; then its table is rebuilt from
the save areas. -/
def State.ueDesk (s : State) (side : Nat) : State :=
  let mine := s.launches.filter fun (l : Launch) => l.side = side
  let s := s.copyTo { cls := clsUe, detail := 0x0B } (uniq (mine.map Launch.cid))
  let s := mine.foldl (fun s (l : Launch) => s.failLaunch l.id .fault 0) s
  let busy (q : VQueue) (x : Rec) : Bool := decide (q.side = side) && x.busy && x.outcome.isNone
  let cut (q : VQueue) : VQueue := { q with
    recs := q.recs.map fun x => if busy q x then { x with outcome := some (.fault, 0, 0) } else x }
  let s : State := { s with queues := s.queues.map fun p => (p.1, cut p.2) }
  (s.completeSide side).rebuildTable side

/-- The Innkeeper goes down until it has restarted. -/
def State.ueInnkeeper (s : State) (side : Nat) : State :=
  (s.logRecord { cls := clsUe, detail := 0x0A }).modSide side fun d => { d with innkeeperDown := true }

def execUe (u : UeSite) (s : State) : Answer :=
  .next (match u with
    | .billet b tile slot code => s.ueBillet b code 0 tile slot
    | .line a pa => s.ueLine a pa
    | .scrub pa => s.ueScrub pa
    | .record r page => s.ueRecord r page
    | .steward b => s.ueBillet b 9 0
    | .frontDesk side => s.ueDesk side
    | .innkeeper side => s.ueInnkeeper side)

/-- The Innkeeper acts again: billets that nothing else holds go on, and a clock step that it left pending ends. -/
def execInnkeeperRestart (side : Nat) (s : State) : Answer :=
  .next (if (s.side side).innkeeperDown then
    ((s.modSide side fun d => { d with innkeeperDown := false }).unfreeze (s.billetsOn side) [.keeper]).resumeStep side
  else s)

end Sys2Proof.Machine
end

