-- ==== Sys2Proof/Machine/Power.lean ====
section
/-! DEFINITION. Power states and resets (18 R437, R448 to R450, 12 R340, 13 R348, R371): SETPWR, wake events, D3hot, function-level resets
and zeroing. Choices and readings: log entries 32, 36, 38, 72. -/

namespace Sys2Proof.Machine

/-! ### SETPWR (R449, R450) -/

/-- A launch with a deadline is not ENDED. -/
def State.deadlineRuns (s : State) : Bool := s.launches.any fun l => l.deadline != 2 ^ 64 - 1 && l.st != .ended

/-- The conditions under which SETPWR is BUSY. -/
def State.powerBusy (s : State) : Bool := s.deadlineRuns || s.restructuring || s.entering || s.wakeAt.isSome

def State.setpwr (s : State) (m : MbReq) (code : Nat) (run : State → State × MbAns) : State :=
  s.command m 0x0050 m.pf0 (m.arg 0 == code && m.endsAt 1) fun s => if s.powerBusy then (s, .done .busy []) else run s

/-- Pages that a launch pins and that stand in no billet are wanted back, and the launch does not go on before they are there (R449). -/
def Launch.wantPinned (l : Launch) (now : Nat) : Launch :=
  let out (p : PageState) (k : Nat) : Bool := p.place.isNone && l.pinnedPage k
  { l with
    waking := l.pages.zipIdx.any fun (p, k) => out p k
    pages := l.pages.zipIdx.map fun (p, k) => if out p k then { p with faulting := true, faultNs := now } else p }

/-- Queues that hold unread or unfinished work knock. -/
def State.knockAll (s : State) : List (Nat × VQueue) → State
  | [] => s
  | (n, q) :: rest => (if q.head ≠ q.tail ∧ s.isResident n = false then s.addKnock n q.side else s).knockAll rest

/-- The return to C0: frozen billets go on exactly, evicted pinned pages are reloaded, saved queues come back. -/
def State.wake (s : State) : State :=
  let deep := s.power == .c3 || s.power == .d3hot
  let waits (b : Nat) : Bool := (s.billet b).page.any fun p => (s.launch? p.launch).any fun (l : Launch) => l.waking
  let s := s.unfreeze ((s.billets.map Prod.fst).filter fun b => !waits b) [.power]
  let s := ({ s with power := .c0, wakeAsked := false, wakeAt := none } : State).waitsDone .wake
  if deep then ({ s with launches := s.launches.map fun (l : Launch) => l.wantPinned s.ns }).knockAll s.queues else s

/-- Wake latency in ns (R448). -/
def wakeLatency (p : Power) : Nat := if p = .c2 then 15000 else 600000

/-- A wake has been called for: the device is in C0 once the wake latency has passed. -/
def State.startWake (s : State) : State :=
  if s.wakeAt.isSome then s else { s with wakeAt := some (s.ns + wakeLatency s.power), wakeAsked := false }

def execSetpwrC0 (m : MbReq) (s : State) : Answer :=
  .next (s.setpwr m 0 fun s => if s.power == .c0 then okay s else (s.startWake, .wait .wake))

/-- Entry to C2: every launch freezes in place. -/
def State.enterC2 (s : State) : State :=
  let s := if s.power == .c0 then s else s.wake
  let bs := (s.billets.filter fun p => p.2.page.isSome).map Prod.fst
  { (s.freeze bs .power) with power := .c2 }

def execSetpwrC2 (m : MbReq) (s : State) : Answer := .next (s.setpwr m 2 fun s => okay s.enterC2)

/-- A side's resident queues are saved and leave its table. -/
def State.saveTable (s : State) (side : Nat) : State :=
  ((s.side side).resid.filterMap Prod.fst).foldl (fun s n => (s.saveQueue n).leaveTable n) s

/-- Every billet is empty of pages. -/
def State.noPages (s : State) : Bool := s.billets.all fun p => p.2.page.isNone && p.2.evict.isNone

/-- C3 once every page has left: the tables are saved, the RDCs drained. -/
def State.finishC3 (s : State) : State :=
  let s := (s.saveTable 0).saveTable 1
  let s := { s with sides := s.sides.map fun (d : Side) => { d with rdc := [] }, tlb := [], power := .c3, entering := false, enterReq := none }
  s.waitsDone .power

/-- Entry to C3 goes on: every page, pinned or not, is evicted. -/
def State.stepC3 (s : State) : State :=
  let s := s.wantEvicts ((s.billets.filter fun p => p.2.page.isSome).map Prod.fst)
  if s.noPages then s.finishC3 else s

/-- A new command, or the next step of the entry that it asked for. -/
def execSetpwrC3 (m : MbReq) (s : State) : Answer :=
  .next (
    let s := if s.enterReq == some m then s else s.setpwr m 3 fun s =>
      if s.power == .c3 then okay s
      else ({ (if s.power == .c0 then s else s.wake) with entering := true, enterReq := some m }, .wait .power)
    if s.enterReq == some m then s.stepC3 else s)

/-! ### Wake events (R450) -/

/-- A ready TIMEGATE falls due within the wake latency. -/
def State.gateDue (s : State) : Bool := s.queues.any fun p => p.2.recs.any fun x =>
  decide (x.ty = 9) && !x.done && x.outcome.isNone && decide (x.count = 0) && decide (x.d 4 ≤ s.ns + wakeLatency s.power)

/-- A notify, a TIMEGATE or a function's reset calls for C0. -/
def State.wakeCalled (s : State) : Bool := s.wakeAsked || s.gateDue || s.funcs.any fun p => p.2.resetting

/-- A wake starts at once where one is called for, and ends after the wake latency; a TIMEGATE's starts that much before its T. -/
def execPowerWake (s : State) : Answer :=
  .next (if s.power == .c2 || s.power == .c3 then
    match s.wakeAt with
    | some t => if t ≤ s.ns then s.wake else s
    | none => if s.wakeCalled then s.startWake else s
  else s)

/-! ### D3hot (R448, R450) -/

/-- Every launch ends with STATUS FAULT and flags NONE. -/
def State.faultAll (s : State) : List RecId → State
  | [] => s
  | r :: rs => ((s.modLaunch r fun l => { l with chk := none, late := false, faulted := false }).failLaunch r .fault 0).faultAll rs

/-- The records that have their status complete before the state is lost. -/
def State.completeAll (s : State) : State :=
  (s.queues.flatMap fun (n, q) => (q.recs.filter fun x => x.outcome.isSome && !x.done).map fun x => (⟨n, x.slot⟩ : RecId)).foldl
    State.completeRec s

/-- What D3hot keeps: GDDR 7, contexts, queues, DTB, fault log, and what no power state changes. -/
def State.d3hot (s : State) : State :=
  let s := (s.faultAll (s.launches.map Launch.id)).completeAll
  let s := (s.saveTable 0).saveTable 1
  let s := (s.flushL2 0).flushL2 1
  { s with billets := [], scr := [], flits := [], late := [], signals := [], sparse := [], tlb := [], power := .d3hot, entering := false
           enterReq := none, wakeAsked := false, wakeAt := none, sides := s.sides.map fun d => { d with knocks := [] } }

def execD3hotEntry (s : State) : Answer :=
  .next (if (s.power == .c0 || s.power == .c2 || s.power == .c3) && s.boot == .running then s.d3hot else s)

def execD3hotExit (s : State) : Answer := .next (if s.power == .d3hot then s.wake else s)

/-! ### Function-level resets and zeroing (R340, R348, R371, R437, R441) -/

/-- Contexts of a function whose zeroing starts. -/
def State.ownedBy (s : State) (fn : Nat) : List Nat :=
  (s.contexts.filter fun p => p.2.valid && decide (p.2.func.toNat = fn)).map Prod.fst

def State.zeroAll (s : State) : List Nat → State
  | [] => s
  | c :: cs => (s.startZeroing c).zeroAll cs

/-- A context of the function is being zeroed. -/
def State.zeroes (s : State) (fn : Nat) : Bool := s.contexts.any fun p => p.2.zeroing && decide (p.2.func.toNat = fn)

/-- The reset of one function: its contexts, its queues, its debug sessions and its mailbox. -/
def State.resetFn (s : State) (fn : Nat) : State :=
  let f := s.func fn
  let mine (n : Nat) : Bool := decide (f.qbase ≤ n) && decide (n < f.qbase + f.qcount)
  let s := s.zeroAll (s.ownedBy fn)
  let s := s.dropLaunches ((s.launches.filter fun (l : Launch) => mine l.id.queue).map Launch.id)
  let s := s.destroyQueues ((s.queues.filter fun p => mine p.1).map Prod.fst)
  let s := s.dropSessions fun x => x.fn == fn
  let s : State := { s with goWaits := s.goWaits.filter fun g => g.1.fn ≠ fn }
  s.modFunc fn fun _ => { resetting := s.zeroes fn }

def State.resetFns (s : State) : List Nat → State
  | [] => s
  | fn :: fns => (s.resetFn fn).resetFns fns

/-- Functions that a reset touches: PF0's is that of every VF as well. Only functions with state need one. -/
def State.resetSet (s : State) (fn : Nat) : List Nat :=
  if fn = 0 then (uniq (0 :: (s.funcs.map Prod.fst ++ s.contexts.map fun p => p.2.func.toNat))).filter fun n => decide (n ≤ 512)
  else [fn]

/-- A reset reaches a function: one that the endpoint shows, in any power state with main power (R437, R446). -/
def State.resetReaches (s : State) (fn : Nat) : Bool :=
  (s.power == .c0 || s.power == .c2 || s.power == .c3 || s.power == .d3hot) &&
    (match s.boot with
     | .running => true
     | .recovery => fn == 0
     | .notBooted => false)

/-- Any function's reset wakes the device (R450). -/
def execFunctionLevelReset (fn : Nat) (s : State) : Answer :=
  .next (if s.resetReaches fn then (s.resetFns (s.resetSet fn)).askWake else s)

def notIn (rs : List (Nat × Nat)) (a : Nat) : Bool := !inRanges rs a

def Cache.without (c : Cache) (rs : List (Nat × Nat)) : Cache := List.filter (fun x : CByte => notIn rs x.addr) c

/-- The zeroing pass over the pages that a context's table maps. -/
def State.zeroPages (s : State) (cid : Nat) : State :=
  let rs := s.mappedBy cid
  { s with
    mem := s.mem.filter fun c => notIn rs c.1
    tlb := s.tlb.filter fun e => e.cid ≠ cid
    sides := s.sides.map fun d => { d with
      l2 := Cache.without d.l2 rs, rdc := Cache.without d.rdc rs, l2lines := d.l2lines.filter fun x => notIn rs (x.line * Config.lineBytes) }
    billets := s.billets.map fun (b, x) => (b, { x with l1 := Cache.without x.l1 rs }) }

/-- A function whose last zeroing has ended reports ready. -/
def State.readyFns (s : State) : State :=
  { s with funcs := s.funcs.map fun (n, f) => (n, { f with resetting := f.resetting && s.zeroes n }) }

def execZeroingComplete (cid : Nat) (s : State) : Answer :=
  .next (if (s.ctx cid).zeroing && s.power == .c0 then
    (((s.zeroPages cid).modCtx cid fun _ => {}).waitsDone (.zero cid)).readyFns
  else s)

end Sys2Proof.Machine
end

