-- ==== Sys2Proof/Machine/Dispatch.lean ====
section
/-! DEFINITION. One arm per constructor of Instr, each a direct call of its meaning. -/

namespace Sys2Proof.Machine

def exec (i : Instr) (s : State) : Host.Outcome State Fault Refusal :=
  match i with
  | .add n ty sat => Sys2Proof.Machine.execAdd n ty sat s
  | .sub n ty sat => Sys2Proof.Machine.execSub n ty sat s
  | .mul n ty sat => Sys2Proof.Machine.execMul n ty sat s
  | .mulh n ty => Sys2Proof.Machine.execMulh n ty s
  | .mad n ty sat => Sys2Proof.Machine.execMad n ty sat s
  | .min n ty => Sys2Proof.Machine.execMin n ty s
  | .max n ty => Sys2Proof.Machine.execMax n ty s
  | .absn n ty sat neg => Sys2Proof.Machine.execAbsn n ty sat neg s
  | .and n => Sys2Proof.Machine.execAnd n s
  | .or n => Sys2Proof.Machine.execOr n s
  | .xor n => Sys2Proof.Machine.execXor n s
  | .andn n => Sys2Proof.Machine.execAndn n s
  | .shl n ty sat => Sys2Proof.Machine.execShl n ty sat s
  | .shr n ty ar => Sys2Proof.Machine.execShr n ty ar s
  | .rot n ty right => Sys2Proof.Machine.execRot n ty right s
  | .cmp n c => Sys2Proof.Machine.execCmp n c s
  | .sel n => Sys2Proof.Machine.execSel n s
  | .clz n ty => Sys2Proof.Machine.execClz n ty s
  | .popc n ty => Sys2Proof.Machine.execPopc n ty s
  | .bext n sx => Sys2Proof.Machine.execBext n sx s
  | .bins n => Sys2Proof.Machine.execBins n s
  | .lea n sc => Sys2Proof.Machine.execLea n sc s
  | .const n m => Sys2Proof.Machine.execConst n m s
  | .mov n => Sys2Proof.Machine.execMov n s
  | .sat n dst => Sys2Proof.Machine.execSat n dst s
  | .icvt n dst sat => Sys2Proof.Machine.execIcvt n dst sat s
  | .iota n => Sys2Proof.Machine.execIota n s
  | .tagget n f => Sys2Proof.Machine.execTagget n f s
  | .tagset n f => Sys2Proof.Machine.execTagset n f s
  | .rdtime n f => Sys2Proof.Machine.execRdtime n f s
  | .rdslack n => Sys2Proof.Machine.execRdslack n s
  | .fadd n ty rm => Sys2Proof.Machine.execFadd n ty rm s
  | .fsub n ty rm => Sys2Proof.Machine.execFsub n ty rm s
  | .fmul n ty rm => Sys2Proof.Machine.execFmul n ty rm s
  | .ffma n ty rm => Sys2Proof.Machine.execFfma n ty rm s
  | .fmin n ty => Sys2Proof.Machine.execFmin n ty s
  | .fmax n ty => Sys2Proof.Machine.execFmax n ty s
  | .fcmp n c => Sys2Proof.Machine.execFcmp n c s
  | .fsgn n ty op => Sys2Proof.Machine.execFsgn n ty op s
  | .frcpe n ty => Sys2Proof.Machine.execFrcpe n ty s
  | .frsqe n ty => Sys2Proof.Machine.execFrsqe n ty s
  | .fexp2e n ty => Sys2Proof.Machine.execFexp2e n ty s
  | .flog2e n ty => Sys2Proof.Machine.execFlog2e n ty s
  | .frnd n ty rm => Sys2Proof.Machine.execFrnd n ty rm s
  | .fcvt n dst rm => Sys2Proof.Machine.execFcvt n dst rm s
  | .ftoi n dst rm => Sys2Proof.Machine.execFtoi n dst rm s
  | .itof n dst rm => Sys2Proof.Machine.execItof n dst rm s
  | .cvtch n rm => Sys2Proof.Machine.execCvtch n rm s
  | .pack n => Sys2Proof.Machine.execPack n s
  | .unpack n => Sys2Proof.Machine.execUnpack n s
  | .sround n => Sys2Proof.Machine.execSround n s
  | .lmul n => Sys2Proof.Machine.execLmul n s
  | .lacc n => Sys2Proof.Machine.execLacc n s
  | .lcvt n tolns => Sys2Proof.Machine.execLcvt n tolns s
  | .scl n ty rm => Sys2Proof.Machine.execScl n ty rm s
  | .qnt n => Sys2Proof.Machine.execQnt n s
  | .dqnt n rm => Sys2Proof.Machine.execDqnt n rm s
  | .dot n q sat rm => Sys2Proof.Machine.execDot n q sat rm s
  | .rsum n m => Sys2Proof.Machine.execRsum n m s
  | .rmax n ty => Sys2Proof.Machine.execRmax n ty s
  | .rmin n ty => Sys2Proof.Machine.execRmin n ty s
  | .perm n => Sys2Proof.Machine.execPerm n s
  | .bcast n => Sys2Proof.Machine.execBcast n s
  | .lsh n rot => Sys2Proof.Machine.execLsh n rot s
  | .scan n m => Sys2Proof.Machine.execScan n m s
  | .cmpx n ty => Sys2Proof.Machine.execCmpx n ty s
  | .splat n => Sys2Proof.Machine.execSplat n s
  | .lget n => Sys2Proof.Machine.execLget n s
  | .lset n => Sys2Proof.Machine.execLset n s
  | .wcv n => Sys2Proof.Machine.execWcv n s
  | .steer n inv => Sys2Proof.Machine.execSteer n inv s
  | .merge n => Sys2Proof.Machine.execMerge n s
  | .carry n inc => Sys2Proof.Machine.execCarry n inc s
  | .gate n count => Sys2Proof.Machine.execGate n count s
  | .sink n => Sys2Proof.Machine.execSink n s
  | .eos n count => Sys2Proof.Machine.execEos n count s
  | .isend n => Sys2Proof.Machine.execIsend n s
  | .join n flush => Sys2Proof.Machine.execJoin n flush s
  | .spawn n two => Sys2Proof.Machine.execSpawn n two s
  | .ret n => Sys2Proof.Machine.execRet n s
  | .cnt n => Sys2Proof.Machine.execCnt n s
  | .isect n => Sys2Proof.Machine.execIsect n s
  | .unio n => Sys2Proof.Machine.execUnio n s
  | .porter n => Sys2Proof.Machine.execPorter n s
  | .rng n => Sys2Proof.Machine.execRng n s
  | .reorder n => Sys2Proof.Machine.execReorder n s
  | .ld n sp o => Sys2Proof.Machine.execLd n sp o s
  | .st n sp o => Sys2Proof.Machine.execSt n sp o s
  | .ldx n sp o => Sys2Proof.Machine.execLdx n sp o s
  | .stx n sp o => Sys2Proof.Machine.execStx n sp o s
  | .amo n sp o op => Sys2Proof.Machine.execAmo n sp o op s
  | .red n sp o op => Sys2Proof.Machine.execRed n sp o op s
  | .fence n o => Sys2Proof.Machine.execFence n o s
  | .wtaddr n glb c => Sys2Proof.Machine.execWtaddr n glb c s
  | .waitq n => Sys2Proof.Machine.execWaitq n s
  | .tlinc n => Sys2Proof.Machine.execTlinc n s
  | .tlwait n => Sys2Proof.Machine.execTlwait n s
  | .prf n => Sys2Proof.Machine.execPrf n s
  | .cpy n => Sys2Proof.Machine.execCpy n s
  | .cpyr n => Sys2Proof.Machine.execCpyr n s
  | .qput n => Sys2Proof.Machine.execQput n s
  | .qget n => Sys2Proof.Machine.execQget n s
  | .mma x first last acc => Sys2Proof.Machine.execMma x first last acc s
  | .mzero n => Sys2Proof.Machine.execMzero n s
  | .mdrain n => Sys2Proof.Machine.execMdrain n s
  | .rpush n => Sys2Proof.Machine.execRpush n s
  | .ringst n op => Sys2Proof.Machine.execRingst n op s
  | .spacc n => Sys2Proof.Machine.execSpacc n s
  | .spflush n rm => Sys2Proof.Machine.execSpflush n rm s
  | .raise n => Sys2Proof.Machine.execRaise n s
  | .hset n en pend => Sys2Proof.Machine.execHset n en pend s
  | .hclr n en pend => Sys2Proof.Machine.execHclr n en pend s
  | .trap n => Sys2Proof.Machine.execTrap n s
  | .chk n f => Sys2Proof.Machine.execChk n f s
  | .csr n op => Sys2Proof.Machine.execCsr n op s
  | .brk n => Sys2Proof.Machine.execBrk n s
  | .halt n => Sys2Proof.Machine.execHalt n s
  | .pipelineResultOffer t => Sys2Proof.Machine.execPipelineResultOffer t s
  | .channelDelivery t ch => Sys2Proof.Machine.execChannelDelivery t ch s
  | .outputInject t ch => Sys2Proof.Machine.execOutputInject t ch s
  | .offSignalViewUpdate k => Sys2Proof.Machine.execOffSignalViewUpdate k s
  | .flitIngress k => Sys2Proof.Machine.execFlitIngress k s
  | .boundaryGuard k neighbour => Sys2Proof.Machine.execBoundaryGuard k neighbour s
  | .frontDeskRedeliver side => Sys2Proof.Machine.execFrontDeskRedeliver side s
  | .memoryPortAccess t => Sys2Proof.Machine.execMemoryPortAccess t s
  | .accessRetry t => Sys2Proof.Machine.execAccessRetry t s
  | .accessComplete t k => Sys2Proof.Machine.execAccessComplete t k s
  | .sparseUpdateApply group => Sys2Proof.Machine.execSparseUpdateApply group s
  | .releaseComplete b k => Sys2Proof.Machine.execReleaseComplete b k s
  | .watchReread b u => Sys2Proof.Machine.execWatchReread b u s
  | .waitSlotDeliver t k => Sys2Proof.Machine.execWaitSlotDeliver t k s
  | .copyGranuleMove b ctx => Sys2Proof.Machine.execCopyGranuleMove b ctx s
  | .copyComplete b ctx => Sys2Proof.Machine.execCopyComplete b ctx s
  | .ringTileFilled b ring => Sys2Proof.Machine.execRingTileFilled b ring s
  | .mmaReadsComplete t => Sys2Proof.Machine.execMmaReadsComplete t s
  | .mmaStepApply t => Sys2Proof.Machine.execMmaStepApply t s
  | .mzeroComplete t k => Sys2Proof.Machine.execMzeroComplete t k s
  | .mdrainRow n => Sys2Proof.Machine.execMdrainRow n s
  | .spflushEntry n => Sys2Proof.Machine.execSpflushEntry n s
  | .returnQueueDeliver t => Sys2Proof.Machine.execReturnQueueDeliver t s
  | .ctrlTokenArrive b => Sys2Proof.Machine.execCtrlTokenArrive b s
  | .controlFifoAdvance b => Sys2Proof.Machine.execControlFifoAdvance b s
  | .handlerFire b => Sys2Proof.Machine.execHandlerFire b s
  | .stageBalancerRun b => Sys2Proof.Machine.execStageBalancerRun b s
  | .floatTileReassign b f => Sys2Proof.Machine.execFloatTileReassign b f s
  | .c1Enter b => Sys2Proof.Machine.execC1Enter b s
  | .c1Exit b => Sys2Proof.Machine.execC1Exit b s
  | .notifyWrite fn qn v => Sys2Proof.Machine.execNotifyWrite fn qn v s
  | .knockService side => Sys2Proof.Machine.execKnockService side s
  | .slotRead q => Sys2Proof.Machine.execSlotRead q s
  | .launch r => Sys2Proof.Machine.execLaunch r s
  | .copyRecord r => Sys2Proof.Machine.execCopyRecord r s
  | .signalRecord r => Sys2Proof.Machine.execSignalRecord r s
  | .waitmem r => Sys2Proof.Machine.execWaitmem r s
  | .waittl r => Sys2Proof.Machine.execWaittl r s
  | .joinRecord r => Sys2Proof.Machine.execJoinRecord r s
  | .pagein r => Sys2Proof.Machine.execPagein r s
  | .evict r => Sys2Proof.Machine.execEvict r s
  | .timegate r => Sys2Proof.Machine.execTimegate r s
  | .recordComplete r => Sys2Proof.Machine.execRecordComplete r s
  | .decrementDeliver q => Sys2Proof.Machine.execDecrementDeliver q s
  | .launchGatesOpen r => Sys2Proof.Machine.execLaunchGatesOpen r s
  | .argumentTokenInject r => Sys2Proof.Machine.execArgumentTokenInject r s
  | .checkoutTimeReached r => Sys2Proof.Machine.execCheckoutTimeReached r s
  | .deadlineReached r => Sys2Proof.Machine.execDeadlineReached r s
  | .pageFault r page => Sys2Proof.Machine.execPageFault r page s
  | .pageFaultServe side => Sys2Proof.Machine.execPageFaultServe side s
  | .pageLoad b => Sys2Proof.Machine.execPageLoad b s
  | .tileCrcAck t good => Sys2Proof.Machine.execTileCrcAck t good s
  | .stewardRoutesDone b => Sys2Proof.Machine.execStewardRoutesDone b s
  | .pageEvict b => Sys2Proof.Machine.execPageEvict b s
  | .drainGateTimeout b => Sys2Proof.Machine.execDrainGateTimeout b s
  | .tileTaskBoundary b => Sys2Proof.Machine.execTileTaskBoundary b s
  | .evictionBudgetExpire b => Sys2Proof.Machine.execEvictionBudgetExpire b s
  | .scanOutComplete b => Sys2Proof.Machine.execScanOutComplete b s
  | .generationFlushComplete b => Sys2Proof.Machine.execGenerationFlushComplete b s
  | .waystationDrain r edge => Sys2Proof.Machine.execWaystationDrain r edge s
  | .eccCorrection side struct place => Sys2Proof.Machine.execEccCorrection side struct place s
  | .ue u => Sys2Proof.Machine.execUe u s
  | .flitCrcFail l => Sys2Proof.Machine.execFlitCrcFail l s
  | .linkRetrain l => Sys2Proof.Machine.execLinkRetrain l s
  | .laneRepair l md => Sys2Proof.Machine.execLaneRepair l md s
  | .widthChange l module => Sys2Proof.Machine.execWidthChange l module s
  | .frequencyChange l rate => Sys2Proof.Machine.execFrequencyChange l rate s
  | .linkRetrainDone l good => Sys2Proof.Machine.execLinkRetrainDone l good s
  | .thermalStepDown side => Sys2Proof.Machine.execThermalStepDown side s
  | .thermalStepUp side => Sys2Proof.Machine.execThermalStepUp side s
  | .clockStepResume side => Sys2Proof.Machine.execClockStepResume side s
  | .powerCapExceeded side => Sys2Proof.Machine.execPowerCapExceeded side s
  | .thermalShutdown => Sys2Proof.Machine.execThermalShutdown s
  | .agingMonitorRead side low => Sys2Proof.Machine.execAgingMonitorRead side low s
  | .siteSpare side layer x y => Sys2Proof.Machine.execSiteSpare side layer x y s
  | .sramRemap side bank column => Sys2Proof.Machine.execSramRemap side bank column s
  | .l2WayDisable side way => Sys2Proof.Machine.execL2WayDisable side way s
  | .gddrPageRetire page => Sys2Proof.Machine.execGddrPageRetire page s
  | .ppsEdge => Sys2Proof.Machine.execPpsEdge s
  | .ztodLine line => Sys2Proof.Machine.execZtodLine line s
  | .ptmDialogue source => Sys2Proof.Machine.execPtmDialogue source s
  | .holdover => Sys2Proof.Machine.execHoldover s
  | .ctxwrite m => Sys2Proof.Machine.execCtxwrite m s
  | .ctxread m => Sys2Proof.Machine.execCtxread m s
  | .qrange m => Sys2Proof.Machine.execQrange m s
  | .qinstall m => Sys2Proof.Machine.execQinstall m s
  | .qdestroy m => Sys2Proof.Machine.execQdestroy m s
  | .fqinstall m => Sys2Proof.Machine.execFqinstall m s
  | .inval m => Sys2Proof.Machine.execInval m s
  | .invalidationComplete fn => Sys2Proof.Machine.execInvalidationComplete fn s
  | .faultresume m => Sys2Proof.Machine.execFaultresume m s
  | .faultabort m => Sys2Proof.Machine.execFaultabort m s
  | .rebalance m => Sys2Proof.Machine.execRebalance m s
  | .setrole m => Sys2Proof.Machine.execSetrole m s
  | .debugPermit m => Sys2Proof.Machine.execDebugPermit m s
  | .dtbread m => Sys2Proof.Machine.execDtbread m s
  | .tsyncwrite m => Sys2Proof.Machine.execTsyncwrite m s
  | .faultlog m => Sys2Proof.Machine.execFaultlog m s
  | .regread m => Sys2Proof.Machine.execRegread m s
  | .regwrite m => Sys2Proof.Machine.execRegwrite m s
  | .pwrcapI3cWrite watts => Sys2Proof.Machine.execPwrcapI3cWrite watts s
  | .setpwrC0 m => Sys2Proof.Machine.execSetpwrC0 m s
  | .setpwrC2 m => Sys2Proof.Machine.execSetpwrC2 m s
  | .setpwrC3 m => Sys2Proof.Machine.execSetpwrC3 m s
  | .powerWake => Sys2Proof.Machine.execPowerWake s
  | .d3hotEntry => Sys2Proof.Machine.execD3hotEntry s
  | .fwwrite m => Sys2Proof.Machine.execFwwrite m s
  | .fwcommit m => Sys2Proof.Machine.execFwcommit m s
  | .powerOnBoot => Sys2Proof.Machine.execPowerOnBoot s
  | .functionLevelReset fn => Sys2Proof.Machine.execFunctionLevelReset fn s
  | .zeroingComplete cid => Sys2Proof.Machine.execZeroingComplete cid s
  | .attach d => Sys2Proof.Machine.execAttach d s
  | .detach d => Sys2Proof.Machine.execDetach d s
  | .stop d r => Sys2Proof.Machine.execStop d r s
  | .resume d r => Sys2Proof.Machine.execResume d r s
  | .step d r n => Sys2Proof.Machine.execStep d r n s
  | .discard d r n => Sys2Proof.Machine.execDiscard d r n s
  | .scanrd d b off len => Sys2Proof.Machine.execScanrd d b off len s
  | .scanwr d b off bits => Sys2Proof.Machine.execScanwr d b off bits s
  | .memrd d va len => Sys2Proof.Machine.execMemrd d va len s
  | .memwr d va bytes => Sys2Proof.Machine.execMemwr d va bytes s
  | .bpset d page idx v => Sys2Proof.Machine.execBpset d page idx v s
  | .bpclr d page idx => Sys2Proof.Machine.execBpclr d page idx s
  | .route d r b route dest tile ch => Sys2Proof.Machine.execRoute d r b route dest tile ch s
  | .spdmGetVersion fn => Sys2Proof.Machine.execSpdmGetVersion fn s
  | .spdmNegotiateAlgorithms fn version pqc => Sys2Proof.Machine.execSpdmNegotiateAlgorithms fn version pqc s
  | .spdmGetMeasurements fn => Sys2Proof.Machine.execSpdmGetMeasurements fn s
  | .stallCounterUpdate side => Sys2Proof.Machine.execStallCounterUpdate side s
  | .slewComplete => Sys2Proof.Machine.execSlewComplete s
  | .mainPowerRemoved => Sys2Proof.Machine.execMainPowerRemoved s
  | .d3hotExit => Sys2Proof.Machine.execD3hotExit s
  | .spdmSessionEstablish fn id => Sys2Proof.Machine.execSpdmSessionEstablish fn id s
  | .spdmSessionEnd id => Sys2Proof.Machine.execSpdmSessionEnd id s
  | .innkeeperRestart side => Sys2Proof.Machine.execInnkeeperRestart side s
  | .stewardRouteRecompute b => Sys2Proof.Machine.execStewardRouteRecompute b s

end Sys2Proof.Machine
end

