-- ==== Sys2Proof/Machine/Plan.lean ====
section
/-! DEFINITION. The agenda of one fc of a side (log entry 1): the order of R41 in a tile, and the order in which the events of the other
units are offered. An event that is not enabled when its act comes leaves the state as it is. Choices and readings: log entries 1, 18, 48,
51. -/

namespace Sys2Proof.Machine

/-! ### Selection in a tile (R41, R233) -/

/-- Positions in round-robin order after a pointer. -/
def after (rr : Nat) (ps : List Nat) : List Nat := ps.filter (fun p => decide (rr < p)) ++ ps.filter (fun p => decide (p ≤ rr))

def isMma (i : Instr) : Bool :=
  match i with
  | .mma .. => true
  | _ => false

/-- Slot positions of a tile's nodes in blocks of a class, and of an HPRI for handler blocks; mma nodes apart. -/
def Tile.classPositions (t : Tile) (cls : Nat) (pri : Option Nat) : List Nat :=
  sortBy id (t.allNodes.filterMap fun (b, slot, i) =>
    if isMma i = false ∧ t.classOf b.n = cls ∧ pri.all (· == hdrPri b.hdr) = true then some (posOf b.n slot) else none)

def Tile.mmaPositions (t : Tile) : List Nat :=
  sortBy id (t.allNodes.filterMap fun (b, slot, i) => if isMma i then some (posOf b.n slot) else none)

/-- The order in which a tile's nodes try to issue: a held selection, then class by class. -/
def Tile.issueOrder (t : Tile) : List Nat :=
  let handlers := [3, 2, 1, 0].flatMap fun p => after t.rrHandler (t.classPositions 0 (some p))
  let rest := handlers ++ after t.rrCheckout (t.classPositions 1 none) ++ after t.rrBody (t.classPositions 2 none)
  match t.held with
  | none => rest
  | some h => h :: rest.filter (· ≠ h)

def issuesAt (a : TileAddr) (ps : List Nat) : List Act := ps.map fun p => .issue ⟨a.b, a.t, p / 64, p % 64⟩

def State.selection (s : State) (a : TileAddr) : List Act := issuesAt a (s.tile a).issueOrder

/-- The mma nodes of a tile in the matrix engine's own round-robin. -/
def State.engineOrder (s : State) (a : TileAddr) : List Act := issuesAt a (after (s.tile a).rrMatrix (s.tile a).mmaPositions)

/-! ### Sweeps -/

def Sweep.size (s : State) : Sweep → Nat
  | .signals => s.signals.length
  | .guards => s.flits.length
  | .flits => s.flits.length
  | .sparse => s.sparse.length
  | .offers t => (s.tile t).flights.length
  | .flying t => (s.tile t).flying.length + 1
  | .waits t => (s.tile t).slots.length
  | .mzeros t => (s.tile t).mzeros.length
  | .releases a => (s.billet a.b).releases.length
  | .watches b => (s.billet b).watches.length
  | .arrivals b => (s.billet b).arrivals.length

/-- The egresses a flit's guards look at on its path (R357): the first that drops it, or else the one toward its destination. -/
def State.guardActs (s : State) (k : Nat) : List Act :=
  match s.flits[k]? with
  | none => []
  | some f =>
    match if f.checked then none else f.dest.billet with
    | some d => [.row (.boundaryGuard k (((s.path f.src.b d).find? fun nb => !s.guardPass f nb d).getD d))]
    | none => []

/-- Operations that are merged with one (R200): a free choice, by the bits of a number, of those of one place, operation and size that
stand behind it. -/
def State.mergeable (s : State) (pick k : Nat) : List Nat :=
  match s.sparse[k]? with
  | none => []
  | some o => k :: ((List.range s.sparse.length).filter fun j =>
      decide (k < j) && s.groupOk (o :: (s.sparse[j]?).toList) && pick.testBit (j - k - 1))

/-- An event that reads a line in error meets the error. -/
def State.badActs (s : State) (t : TileAddr) (ls : List Loc) (acts : List Act) : List Act :=
  match s.badAmong ls with
  | some pa => [.row (.ue (.line t pa))]
  | none => acts

/-- An access whose next event reads a line in error meets the error; any other performs when it may. -/
def State.flyingActs (s : State) (t : TileAddr) (k : Nat) : List Act :=
  match (s.tile t).performing k with
  | none => []
  | some (_, a) => s.badActs t (if s.readsBad a.next && !a.atUnit then a.next.locs.map Prod.snd else []) [.maybe (.accessComplete t k)]

/-- The same of an operation at its unit, and of a watch that looks again. -/
def State.sparseActs (s : State) (pick k : Nat) : List Act :=
  match s.sparse[k]? with
  | none => []
  | some o => s.badActs o.tile [o.loc] [.maybe (.sparseUpdateApply (s.mergeable pick k)), .maybe (.sparseUpdateApply [k])]

def State.watchActs (s : State) (b k : Nat) : List Act :=
  match (s.billet b).watches[k]? with
  | none => []
  | some w => s.badActs ⟨b, w.tile⟩ (if w.hit || decide (w.next ≤ s.now b) then [w.loc] else []) [.row (.watchReread b k)]

def Sweep.acts (s : State) (pick k : Nat) : Sweep → List Act
  | .signals => [.row (.offSignalViewUpdate k)]
  | .guards => s.guardActs k
  | .flits => [.row (.flitIngress k)]
  | .sparse => s.sparseActs pick k
  | .offers t => [.row (.pipelineResultOffer t)]
  | .flying t => s.flyingActs t k
  | .waits t => [.row (.waitSlotDeliver t k)]
  | .mzeros t => [.row (.mzeroComplete t k)]
  | .releases a => if (s.billet a.b).releases[k]?.any fun r => r.tile == a.t then [.maybe (.releaseComplete a.b k)] else []
  | .watches b => s.watchActs b k
  | .arrivals b => [.row (.ctrlTokenArrive b)]

/-- What a sweep with some elements left does next: elements are counted from the end, so that one that leaves its list moves none
of those still to come. A free number makes the choices the spec leaves open. -/
def State.sweepActs (s : State) (u : Sweep) (pick : Nat) : Option Nat → List Act
  | none => [.sweep u (some (u.size s))]
  | some 0 => []
  | some (n + 1) => u.acts s pick (u.size s - (n + 1)) ++ [.sweep u (some n)]

/-! ### One fc of a billet -/

def pairsOf (xs ys : List Nat) : List (Nat × Nat) := xs.flatMap fun x => ys.map fun y => (x, y)

def tilesOf (b : Nat) : List TileAddr := (List.range 8).map fun t => ⟨b, t⟩

/-- Results, return queues and channel deliveries of a tile (R36, R120, R171). -/
def State.tileFront (s : State) (a : TileAddr) : List Act :=
  [.sweep (.offers a) none, .row (.returnQueueDeliver a)] ++ ((s.tile a).inCh.map fun c => .row (.channelDelivery a c.1))

/-- Rows of an accumulator drain and entries of a flush. -/
def State.nodeRows (s : State) (a : TileAddr) : List Act :=
  (s.tile a).nodes.flatMap fun (p, n) =>
    let at_ : NodeAddr := ⟨a.b, a.t, p / 64, p % 64⟩
    (if n.drain.isSome then [.row (.mdrainRow at_)] else []) ++ (if n.flush.isSome then [.row (.spflushEntry at_)] else [])

/-- The matrix engine, the memory port and the egress of a tile. A pair may start and complete its reads in one fc (R233). -/
def State.tileBack (s : State) (a : TileAddr) : List Act :=
  let t := s.tile a
  (if t.mmaPositions.isEmpty then [] else [.row (.mmaReadsComplete a)]) ++ (t.mpairs.map fun _ => .row (.mmaStepApply a)) ++ s.nodeRows a ++
    [.sweep (.mzeros a) none, .sweep (.waits a) none] ++
    (t.port.map fun _ => .maybe (.memoryPortAccess a)) ++ [.row (.accessRetry a), .sweep (.flying a) none, .sweep (.releases a) none] ++
    ((after t.rrInject (sortBy id (t.outCh.map Prod.fst))).map fun c => .row (.outputInject a c))

/-- The tiles and the copy engine of a billet: writes of one fc reach an M-tile by ascending tile, releases among them, and then from the
copy engine, whose contexts are offered twice, since the two that move may be 3 and 0 in this order (R297, R207, R211). -/
def State.billetWrites (s : State) (b : Nat) : List Act :=
  (tilesOf b).flatMap s.tileBack ++ ((List.range 8).map fun c => .maybe (.copyGranuleMove b (c % 4))) ++
    ((List.range 4).map fun c => .maybe (.copyComplete b c))

/-- The units a billet's tiles share. -/
def State.billetUnits (s : State) (b : Nat) : List Act :=
  let x := s.billet b
  [.sweep (.arrivals b) none, .row (.handlerFire b), .sweep (.watches b) none] ++
    (x.rings.map fun r => .row (.ringTileFilled b r.1)) ++ [.row (.stageBalancerRun b)] ++
    ((List.range x.floats.length).map fun f => .row (.floatTileReassign b f))

/-- Loading, eviction and the steward of a billet. -/
def billetPager (b : Nat) : List Act :=
  [.maybe (.pageLoad b)] ++ ((List.range 8).map fun t => .maybe (.tileCrcAck ⟨b, t⟩ true)) ++
    [.maybe (.stewardRoutesDone b), .maybe (.stewardRouteRecompute b), .maybe (.pageEvict b), .row (.drainGateTimeout b),
     .row (.tileTaskBoundary b), .row (.evictionBudgetExpire b), .maybe (.scanOutComplete b), .maybe (.generationFlushComplete b)]

/-! ### The Front Desk, the pager and the Innkeeper of a side -/

/-- The row of a record's type (R329). -/
def recRow (r : RecId) (ty : Nat) : List Instr :=
  if ty = 1 then [.launch r] else if ty = 2 then [.copyRecord r] else if ty = 3 then [.signalRecord r] else if ty = 4 then [.waitmem r]
  else if ty = 5 then [.waittl r] else if ty = 6 then [.joinRecord r] else if ty = 7 then [.pagein r] else if ty = 8 then [.evict r]
  else if ty = 9 then [.timegate r] else []

def queueRows (n : Nat) (q : VQueue) : List Act :=
  [.maybe (.slotRead n), .row (.decrementDeliver n)] ++ q.recs.flatMap fun x =>
    ((recRow ⟨n, x.slot⟩ x.ty).map Act.maybe) ++ [.maybe (.recordComplete ⟨n, x.slot⟩)]

def launchRows (l : Launch) : List Act :=
  [.maybe (.launchGatesOpen l.id), .maybe (.argumentTokenInject l.id)] ++
    ((List.range l.pages.length).map fun k => .row (.pageFault l.id k)) ++
    (l.edges.map fun e => .row (.waystationDrain l.id e.id))

/-- Deadlines come before checkout times that fall in the same fc. -/
def timeRows (l : Launch) : List Act := [.row (.deadlineReached l.id), .row (.checkoutTimeReached l.id)]

def State.deskActs (s : State) (side : Nat) : List Act :=
  [.maybe (.knockService side), .row (.frontDeskRedeliver side)] ++
    ((s.queues.filter fun p => p.2.side = side).flatMap fun p => queueRows p.1 p.2) ++
    ((s.launches.filter fun (l : Launch) => l.side = side).flatMap launchRows) ++ [.maybe (.pageFaultServe side)]

/-- Banks with an error in the history. -/
def Side.hotBanks (d : Side) : List Nat := uniq ((d.ceHist.filter fun e => e.1 ≠ 8).map fun e => bankCode e.1 e.2.1)

/-- 64 KiB pages of GDDR 7 with an error. -/
def State.badPages (s : State) (side : Nat) : List Nat :=
  uniq ((s.badLines.map fun l => l * Config.lineBytes / 65536) ++ ((s.side side).ceHist.filter fun e => e.1 = 8).map fun e => e.2.1 / 65536)

/-- Work of the Innkeeper that no outside event calls for. -/
def State.keeperActs (s : State) (side : Nat) : List Act :=
  let d := s.side side
  ((d.hotBanks.flatMap fun k => [Act.maybe (.sramRemap side k false), .maybe (.sramRemap side k true)])) ++
    (d.waysWanted.map fun w => .maybe (.l2WayDisable side w)) ++
    ((s.badPages side).map fun p => .maybe (.gddrPageRetire p)) ++
    ((d.spareWanted ++ d.spareLater).map fun w => .maybe (.siteSpare side w.1 w.2.1 w.2.2)) ++
    (if d.stepTo.isSome then [.maybe (.clockStepResume side)] else []) ++
    (if d.innkeeperDown then [.maybe (.innkeeperRestart side)] else []) ++
    (match d.roleReq with
     | some m => [.maybe (.setrole m)]
     | none => [])

/-- What the device's own units do: boot, wake, power, links, time, zeroing, invalidations and moves that a command waits for. -/
def State.deviceActs (s : State) : List Act :=
  (if s.boot = .notBooted && s.power == .c0 then [.row .powerOnBoot] else []) ++
    (match s.writing with
     | some (_, m) => [.maybe (.fwcommit m)]
     | none => []) ++
    (if s.mbServes then ((s.goWaits.head?).bind fun g => goRow g.2 g.1).toList.map Act.row else []) ++
    (if s.power == .c2 || s.power == .c3 then [.row .powerWake] else []) ++
    (match s.enterReq with
     | some m => [.maybe (.setpwrC3 m)]
     | none => []) ++
    (s.links.filterMap fun p => if p.2.running.isSome then some (Act.maybe (.linkRetrainDone p.1 true)) else none) ++
    (s.contexts.filterMap fun p => if p.2.zeroing then some (Act.maybe (.zeroingComplete p.1)) else none) ++
    (s.funcs.flatMap fun (n, f) => match f.waits with
      | some (.inval ..) => [Act.maybe (.invalidationComplete n)]
      | some (.page ..) => [.maybe (.rebalance ⟨n, f.tag, []⟩)]
      | _ => []) ++
    (if s.dtb.slewing && s.dtb.slew == 0 then [.row .slewComplete] else []) ++
    (if s.dtb.src == 2 && s.dtb.lost && !s.dtb.holdover then [.row .holdover] else [])

/-! ### The plan -/

/-- The side whose fc is furthest behind. -/
def State.nextSide (s : State) : Nat := if (s.side 1).lead < (s.side 0).lead then 1 else 0

def State.sideBillets (s : State) (side : Nat) : List Nat :=
  (s.billets.filter fun p => sideOf p.1 = side && (p.2.page.isSome || p.2.evict.isSome)).map Prod.fst

/-- One fc of a side. The matrix engines of all tiles come before any other issue: R231's conditions hold at the start of the fc. -/
def State.plan (s : State) (side : Nat) : List Act :=
  let bs := s.sideBillets side
  let ts := bs.flatMap tilesOf
  (if side = 0 then s.deviceActs else []) ++
    (bs.map fun b => .row (.c1Exit b)) ++ (bs.map fun b => .row (.controlFifoAdvance b)) ++ (ts.map .engine) ++ (ts.map .select) ++
    [.sweep .signals none, .sweep .guards none, .sweep .flits none] ++ (ts.flatMap s.tileFront) ++ (bs.flatMap s.billetWrites) ++ [.sweep .sparse none] ++
    (bs.flatMap s.billetUnits) ++ (bs.flatMap billetPager) ++ s.deskActs side ++ s.keeperActs side ++
    [.settle side] ++ ((s.launches.filter fun (l : Launch) => l.side = side).flatMap timeRows) ++ (bs.map fun b => .row (.c1Enter b)) ++ [.row (.stallCounterUpdate side)]

end Sys2Proof.Machine
end

