-- ==== Sys2Proof/Machine/Fetch.lean ====
section
/-! DEFINITION. What a step does (log entry 1): it takes the next act of the agenda, and fetches a node's words at its station position;
and the state in which a given instruction is the one to run next (log entry 13). Choices and readings: log entries 1, 2, 11, 13, 18, 48,
56. -/

namespace Sys2Proof.Machine

/-! ### Fetching a node (R76, R79) -/

/-- The station words from a position on, as its tile's block holds them. -/
def State.wordsAt (s : State) (n : NodeAddr) : List Word :=
  match (s.tile n.tileAddr).block n.blk with
  | none => []
  | some b => b.words.drop n.slot

/-- The node whose words stand at a position. -/
def State.fetch (s : State) (n : NodeAddr) : Option Instr :=
  match decode (s.wordsAt n) with
  | .ok (i, _) => some i
  | .error _ => none

/-! ### Acts -/

/-- A selection held for a free result fc is tried first; it is held anew when its result fc is still taken, and let go when its node can no
longer issue (R36, R42). -/
def State.releaseHeld (s : State) (t : TileAddr) : State := if s.live t.b then s.modTile t fun x => { x with held := none } else s

/-- An event row takes its own step. -/
def runRow (i : Instr) (s : State) : Answer := if i.isNode then .fault .nodeAsEvent else exec i s

/-- Runs one act; a node whose page has left in this fc does nothing. What an act leaves for later goes in front of the rest of the agenda. -/
def runAct (a : Act) (s : State) : Answer :=
  match a with
  | .issue n =>
    (match s.fetch n with
     | some i => exec i { s with sel := n }
     | none => if s.live n.b then .fault .stationWord else .next s)
  | .row i => runRow i s
  | .maybe i => let (n, s) := s.draw; if n % 2 = 1 then runRow i s else .next s
  | .engine t => .next { s with agenda := s.engineOrder t ++ s.agenda }
  | .select t => .next { s.releaseHeld t with agenda := s.selection t ++ s.agenda }
  | .sweep u left => let (n, s) := s.draw; .next { s with agenda := s.sweepActs u n left ++ s.agenda }
  | .settle side => .next (s.settle side)

/-- An empty agenda is laid out anew, for one fc of the side that is behind. -/
def State.nextStep (s : State) : Answer :=
  match s.agenda with
  | [] => .next { s with agenda := s.plan s.nextSide }
  | a :: rest => runAct a { s with agenda := rest }

/-! ### A state in which an instruction runs next (log entry 13) -/

/-- The billet and position a placed instruction stands at: billet 1 of side 0, C-tile c0, block 0, slot 0. -/
def placeSite : NodeAddr := ⟨1, 0, 0, 0⟩

/-- The record of the launch a placed instruction's page belongs to. -/
def placeRec : RecId := ⟨0, 0⟩

/-- The words of an instruction of nbits bits, in two station words; bits above nbits are zero. -/
def placeWords (nbits w : Nat) : List Word :=
  let v := w % 2 ^ nbits
  [BitVec.ofNat 32 v, BitVec.ofNat 32 (v >>> 32)]

/-- A body block in static mode that holds the words. -/
def placeBlock (ws : List Word) : Block := { n := 0, hdr := 0x04000000, words := ws }

/-- A page of context 1 that runs, with its gates open: the words in its one block, and a token of zero at each port its node reads. -/
def placeTile (ws : List Word) : Tile :=
  let t : Tile := { blocks := [placeBlock ws] }
  match decode ws with
  | .error _ => t
  | .ok (i, _) =>
    { t with store := (t.reads 0 0 i).map fun p => { blk := 0, slot := 0, port := p, tok := {} } }

def placeBillet (ws : List Word) : Billet :=
  { page := some ⟨1, placeRec, 0⟩, tiles := placeTile ws :: List.replicate 7 {} }

/-- A launch whose one page stands in the billet. -/
def placeLaunch : Launch :=
  { id := placeRec, cid := 1, side := 0, gdesc := 0, st := .running, deadline := 2 ^ 64 - 1, budget := 0, resultVa := 0, cls := 0,
    graph := { npage := 1, pages := [{ image := 0, size := 0, side := 0, pin := false, entry := true, bases := [] }] }, edges := [],
    caravans := [], pages := [{ place := some 1, loadedOnce := true }] }

/-- The state with the words as the node that the next step issues. -/
def State.place (s : State) (nbits w : Nat) : State :=
  { s with
    agenda := .issue placeSite :: s.agenda
    power := .c0
    contexts := Tbl.put 1 { s.ctx 1 with valid := true } s.contexts
    launches := placeLaunch :: s.launches.filter fun (l : Launch) => l.id ≠ placeRec
    billets := Tbl.put 1 (placeBillet (placeWords nbits w)) s.billets }

end Sys2Proof.Machine
end

