-- ==== Sys2Proof/Machine/Step.lean ====
section
/-! DEFINITION. The step, and the state in which a given instruction is the one it runs next. -/

namespace Sys2Proof.Machine

/-- One step: the next act of the agenda, or the layout of a new one (log entry 1). -/
def step (s : State) : Host.Outcome State Fault Refusal := s.nextStep

/-- The state with an instruction stored where step fetches its next one (log entry 13). -/
def State.withFetchWord (s : State) (nbits w : Nat) : State := s.place nbits w

end Sys2Proof.Machine
end

