-- ==== Sys2Proof/Machine/HostPort.lean ====
section
/-! DEFINITION. What the outside of the device meets at its ports (18 R438 to R441, R446, R451): BAR 0 of a function with its notify
words, mailbox registers and MSI-X structures, configuration requests, the PCIe request of an access to the host, and the I3C target. A
write to a BAR is an input beside the rows of the opcode table: those of a mailbox command and a notify stand for the writes that carry
them out. Choices and readings: log entries 31, 33, 75. -/

namespace Sys2Proof.Machine

/-! ### BAR 0 (R438, R440) -/

/-- MSI-X vectors of a function (R437). -/
def vectorsOf (fn : Nat) : Nat := if fn = 0 then 32 else if fn = pf1 then 4 else 8

/-- The request that stands in a function's mailbox registers. -/
def Func.request (f : Func) (fn : Nat) : MbReq :=
  { fn := fn, tag := f.cmdTag, args := (List.range 512).map fun i => (Tbl.get i f.args).getD 0 }

/-- GO: the command in MBCMD starts (R441). -/
def State.go (s : State) (fn : Nat) : Answer :=
  let m := (s.func fn).request fn
  match goRow (s.func fn).cmdOp.toNat m with
  | some i => exec i s
  | none => .next (s.unknownCommand m (s.func fn).cmdOp.toNat)

/-- A word of the MSI-X table is written; a vector that pends and is no longer masked sends its message. -/
def State.writeVector (s : State) (fn i : Nat) (v : Word) : State :=
  let s := s.modFunc fn fun f => { f with vectors := Tbl.put i v f.vectors }
  let f := s.func fn
  if f.pending.contains (i / 4) && !f.masked (i / 4) then
    (s.modFunc fn fun f => { f with pending := f.pending.filter fun k => k ≠ i / 4 }).sendMsix fn (i / 4)
  else s

/-- A 32-bit write at an offset of a function's BAR 0. -/
def State.barWrite (s : State) (fn off : Nat) (v : Word) : Answer :=
  if !s.barUp fn then .next s
  else if off < 0x10000 ∧ off % 4 = 0 then execNotifyWrite fn (off / 4) v s
  else if off = 0x10000 then .next (s.modFunc fn fun f => { f with cmdTag := half16 v true, cmdOp := half16 v false })
  else if off = 0x10008 then (if v.getLsbD 0 then s.go fn else .next s)
  else if 0x10040 ≤ off ∧ off < 0x10840 ∧ off % 4 = 0 then
    .next (s.modFunc fn fun f => { f with args := Tbl.put ((off - 0x10040) / 4) v f.args })
  else if 0x11000 ≤ off ∧ off < 0x11000 + 16 * vectorsOf fn ∧ off % 4 = 0 then .next (s.writeVector fn ((off - 0x11000) / 4) v)
  else .next s
where
  half16 (v : Word) (high : Bool) : BitVec 16 := v.extractLsb' (if high then 16 else 0) 16

/-- Word i of the pending-bit array. -/
def Func.pendingWord (f : Func) (i : Nat) : Word :=
  BitVec.ofNat 32 (((List.range 32).filter fun k => f.pending.contains (32 * i + k)).map fun k => 2 ^ k).sum

/-- A 32-bit read at an offset of a function's BAR 0; what has no register there reads as zero. -/
def State.barRead (s : State) (fn off : Nat) : Word :=
  let f := s.func fn
  if !s.barUp fn then 0
  else if 0x11000 ≤ off ∧ off < 0x11000 + 16 * vectorsOf fn ∧ off % 4 = 0 then f.vectorWord ((off - 0x11000) / 4)
  else if 0x11800 ≤ off ∧ off < 0x11900 ∧ off % 4 = 0 then f.pendingWord ((off - 0x11800) / 4)
  else f.mailboxRead off

/-! ### Configuration requests (R446) -/

/-- How the endpoint answers a configuration request for a function. -/
inductive ConfigAnswer | retry | success | absent | silent
  deriving DecidableEq, Repr

/-- Request Retry Status until the boot has ended; in ROM recovery only PF0 enumerates. -/
def State.configAnswer (s : State) (fn : Nat) : ConfigAnswer :=
  if s.power = .d3cold ∨ s.power = .shutdown then .silent
  else match s.boot with
    | .notBooted => .retry
    | .recovery => if fn = 0 then .success else .absent
    | .running => if fn ≤ pf1 then .success else .absent

/-! ### Requests to the host (R439) -/

/-- A PCIe request: its bus address and the requester ID's function. -/
structure PcieReq where
  bus : Nat
  requester : Nat
  deriving DecidableEq, Repr

/-- The request that an access of a context to a physical address becomes; none where the address is the device's own. -/
def State.pcieReq (s : State) (cid pa : Nat) : Option PcieReq :=
  if Config.hostBase ≤ pa then some ⟨pa - Config.hostBase, (s.ctx cid).func.toNat⟩ else none

/-! ### The I3C target (R451) -/

/-- What the I3C target reports of the sensors: the layers' from L0 of side 0 to L3 of side 1, then the board's. -/
def State.i3cSensors (s : State) : List (BitVec 16) :=
  ((List.range 8).map fun k => Config.layerTemp (k / 4) (k % 4) s.oracle) ++ [Config.boardTemp s.oracle]

/-- The board power cap as I3C reads it. -/
def State.i3cCap (s : State) : BitVec 9 := s.pwrCap

end Sys2Proof.Machine
end

