-- ==== Sys2Proof/Safety.lean ====
section
/-! DEFINITION. The terms that claims about the machine use: the canonical form of its memories, and when a node matches, has room and
fires (01 R35, R36, R41). -/

namespace Sys2Proof.Machine

/-- Both memories of the machine are in canonical form. -/
def State.MemoryOk (s : State) : Prop := Memory.wf s.mem = true ∧ Memory.wf s.scr = true

/-! ### When a node fires -/

/-- The selected node's billet runs and its block is not gated. -/
structure State.Opened (s : State) : Prop where
  live : s.live s.sel.b = true
  gate : (s.billet s.sel.b).blockGate s.sel.t s.sel.blk = none

/-- The firing rule at the selected node (R24, R25). -/
def State.chosen (s : State) (i : Instr) : Choice := (s.tile s.selTile).choose s.sel.blk s.sel.slot i

/-- The selected node may issue and matches a firing: its tag and the tokens it takes (first part of R35). -/
structure State.Matched (s : State) (i : Instr) (tag : Tag) (took : List Entry) : Prop extends s.Opened where
  fires : s.chosen i = .fire tag took

/-- The selected node may issue and has an END to forward (R32). -/
structure State.Ended (s : State) (i : Instr) (tag : Tag) (level : Nat) (took : List Entry) : Prop extends s.Opened where
  fires : s.chosen i = .fin tag level took

/-- Every result has room at its target, nothing of the node's own is full, and the issue stream and the node's stages are free
(second part of R35, R36, R253). -/
structure State.Free (s : State) (i : Instr) (f : Firing) : Prop where
  room : (s.billet s.sel.b).outSpace (s.mtCap s.sel.b) (s.now s.sel.b) s.sel.t s.sel.blk
    (if f.loose then none else some (s.now s.sel.b + i.timing.1)) [] f.outs = .ok
  idle : f.busy = false
  stream : (s.tile s.selTile).streamFree s.sel.pos (s.now s.sel.b) = true
  stages : (s.tile s.selTile).stagesFree i (s.now s.sel.b) = true

/-- The node fires: exec answers the state after the firing has been issued, once its results have room. -/
def State.Fires (s : State) (i : Instr) (f : Firing) : Prop := s.Free i f → exec i s = .next (s.commit i f)

/-- A firing that consumes its tokens and sends results. -/
def Firing.of (took : List Entry) (outs : List Out) : Firing := { use := fun t => t.useAll took, outs := outs }

/-- The token at port L as a node of shape W passes it on: its tag with its KIND, and its payload. -/
def State.passed (s : State) (i : Instr) (n : GNode) (tag : Tag) (took : List Entry) : Tag × Payload :=
  ({ tag with kind := (s.fireOf i tag took).kindOf .L }, (s.fireOf i tag took).pay n.w .L)

/-- That token, to each target. -/
def State.passAll (s : State) (i : Instr) (n : GNode) (tag : Tag) (took : List Entry) : List Out :=
  sendAll i (s.passed i n tag took).1 (.pay (s.passed i n tag took).2)

/-- The firing that puts an access into the memory port: its results wait for the access, which takes the billet's next number. -/
def State.accFiring (s : State) (i : Instr) (f : Fire) (m : Option MNode) (outs : List Out) : Firing :=
  let x := s.billet s.sel.b
  let watch := match i with
    | .wtaddr .. => decide (x.watchUse ≥ Config.watchUnits)
    | _ => false
  { use := fun t => match m with
      | none => t.useAll f.took
      | some m => (t.useAll f.took).usePlace s.sel.blk m f.tag
    outs := outs
    busy := decide ((x.tile s.sel.t).port.length ≥ Config.portBuffer) || x.counterFull s.sel.t i || watch
    loose := true
    hold := some x.nextId
    bill := fun y => { y with nextId := x.nextId + 1 } }

/-- The forwarding of an END by a node whose results have no fixed fc (R36, R186). -/
def State.looseEnd (s : State) (i : Instr) (tag : Tag) (level : Nat) (took : List Entry) : Firing :=
  { s.endFiring tag took ((tgts i).map (endOut tag level)) with loose := true }

/-- An access is in the memory port behind those before it, once its firing has room. -/
def State.Issues (s : State) (i : Instr) (fr : Firing) (a : Acc) : Prop :=
  s.Free i fr → exec i s = .next ((s.commit i fr).modTile s.selTile fun t => { t with port := t.port ++ [a] })

/-- The firing of a release that does not pass the memory port: its result waits until it performs at its scope. -/
def State.relFiring (s : State) (i : Instr) (f : Fire) (m : Option MNode) (sc : Scope) (p : Payload) : Firing :=
  let x := s.billet s.sel.b
  { use := fun t => match m with
      | none => t.useAll f.took
      | some m => (t.useAll f.took).usePlace s.sel.blk m f.tag
    outs := sendAll i f.tag.asData (.pay p)
    loose := true
    hold := some x.nextId
    bill := fun y => { y with nextId := x.nextId + 1, releases := y.releases ++ [⟨s.sel.t, s.newAcc i f [] p, sc⟩] } }

/-- The firing of a node of rows 0x0 to 0x4 with a result. -/
def Result.firing (i : Instr) (took : List Entry) (r : Result) : Firing :=
  { use := fun t => t.useAll took, outs := r.outs i, flags := r.flags }

/-- A node of rows 0x0 to 0x4 fires whenever it matches, with the result that a function of its operands gives. -/
def State.Computes (s : State) (i : Instr) (f : Fire → Result) : Prop :=
  ∀ tag took, s.Matched i tag took → s.Fires i ((f (s.fireOf i tag took)).firing i took)

/-- A node raises a trap at issue with a class, tag and detail (R415 item 1), when the issue stream and its stages are free. -/
def State.Traps (s : State) (i : Instr) (cls : Nat) (tag : Tag) (detail addr : Nat) : Prop :=
  s.issueOpen = true → exec i s = .next (s.trapSelected cls tag detail addr)

/-- A function's mailbox takes a command (R440, R441): the function is up, and no command of it runs. -/
structure State.Hears (s : State) (m : MbReq) (op : Nat) : Prop where
  up : s.mbUp m.fn op = true
  idle : (s.func m.fn).state ≠ .running

/-- A command that is taken is applied at once: the Innkeeper of side 0 is up, and no command waits for it (R419, R441). -/
structure State.Takes (s : State) (m : MbReq) (op : Nat) : Prop extends s.Hears m op where
  serves : s.mbServes = true
  first : s.goWaits = []

/-- A command that asked for a change still under way is not taken for a new one. -/
structure State.Fresh (s : State) (m : MbReq) : Prop where
  waits : (s.func m.fn).waits = none
  role : s.roleUnderWay m = false
  power : s.enterReq ≠ some m
  flash : ∀ img, s.writing ≠ some (img, m)

/-- A mailbox command completes: DONE with OK, what it did, and its results. -/
def State.Does (s : State) (i : Instr) (m : MbReq) (op : BitVec 16) (f : State → State) (outs : List (Nat × Word)) : Prop :=
  exec i s = .next ((f (s.mbAccept m op)).mbFinish m.fn .ok outs)

end Sys2Proof.Machine
end

