-- ==== Sys2Proof/WellFormed.lean ====
section
/-! DEFINITION. Well-formed instructions: the nodes that an encoding exists for, as the encoding tables state it (03 R81 to R94). -/

namespace Sys2Proof

/-- A target that a field holds (R84). -/
def Target.fits (t : Target) : Bool := Target.ofCode t.code == some t

/-- A node of format G with an XG extension: a W that its opcode accepts, an M that is defined, targets it may carry. -/
def gFits (op : BitVec 7) (m : BitVec 4) (n : GNode) : Bool :=
  match gForm op.toNat with
  | some f => f.shapes.contains n.w && (f.build m).isSome && f.targets n.t0.code n.t1.code && n.t0.fits && n.t1.fits
  | none => false

/-- A node with an XM extension: as gFits; T1 is no target where it holds an operation. -/
def mFits (op : BitVec 7) (m : BitVec 4) (t1 : BitVec 9) (n : MNode) : Bool :=
  match mForm op.toNat with
  | some f => f.shapes.contains n.w && (f.build m t1).isSome && n.t0.fits && n.t1.fits && (!f.t1Op || n.t1 == .none)
  | none => false

/-- An instruction that stands in a station and has an encoding. -/
def WellFormed (i : Instr) : Bool :=
  match i.gParts with
  | some (op, m, n) => gFits op m n
  | none =>
    match i.mParts with
    | some (op, m, t1, n) => mFits op m t1 n
    | none =>
      match i with
      | .mma .. => true
      | _ => false

end Sys2Proof
end

