-- ==== Sys2Proof/Certificates/Slice0/Obligations.lean ====
section
/-! DEFINITION. The statements for the provers: what the machine's steps do, from the numbered rules of the spec. -/

open Sys2Proof Sys2Proof.Machine

/-! ### Encoding -/

/-- Decode and encode agree (R80 to R94): every node that has an encoding comes back from its words, whatever follows them. -/
def Obligations.DecodeEncode : Prop := ∀ (i : Instr) (rest : List Word), WellFormed i = true → decode (encode i ++ rest) = .ok (i, rest)

/-- The decoder answers only with nodes that have an encoding: no reserved opcode, W, M or target passes (R82 to R84, R94). -/
def Obligations.DecodeWellFormed : Prop := ∀ (ws rest : List Word) (i : Instr), decode ws = .ok (i, rest) → WellFormed i = true

/-- Words written out from the encodings of R81 to R92 decode to the nodes they stand for; the empty-slot marker, a reserved opcode and a
missing extension do not decode. -/
def Obligations.DecodeWords : Prop :=
  decode [0x02408400, 0x00800040] = .ok (.add ⟨.word, .port 2 .L, .none, some ⟨0, 0, .r, 0, 64⟩⟩ .i32 false, []) ∧
  decode [0x4C152A00] = .ok (.fcmp ⟨.word, .port 21 .R, .none, none⟩ .ole, []) ∧
  decode [0xA080CA63] = .ok (.steer ⟨.vec, .port 37 .L, .port 35 .L, none⟩ false, []) ∧
  decode [0xC0D60A00, 0x00FFF442] = .ok (.ld ⟨.vec, .chan 5, .none, ⟨0, 0, 63, 63, .side, 1, 2⟩⟩ .glb .acq, []) ∧
  decode [0xE0740000, 0x64040C04] = .ok (.mma ⟨3, 1, 0, 1, 3, 4⟩ true true .i32, []) ∧
  decode [0] = .error .marker ∧ decode [1] = .error .reservedOpcode ∧ decode [0xC0960A00] = .error .missingExtension ∧
  decode [0xC0D60A00] = .error .truncated

/-! ### Steps -/

/-- A step runs the decoded instruction: when the agenda's next act is an issue at a station position and the words there decode to a node,
the step is that node's exec with the position selected and the act taken off the agenda; an event row that is the next act is run
likewise; an empty agenda is laid out for one fc of the side that is behind. The agenda, one row of the table as one step, is the model's
choice (log entry 1). -/
def Obligations.StepRunsDecoded : Prop := ∀ (s : State) (n : NodeAddr) (acts : List Act) (i : Instr) (ws : List Word),
  (s.agenda = .issue n :: acts → decode (s.wordsAt n) = .ok (i, ws) → step s = exec i { s with agenda := acts, sel := n }) ∧
  (s.agenda = .row i :: acts → i.isNode = false → step s = exec i { s with agenda := acts }) ∧
  (s.agenda = [] → step s = .next { s with agenda := s.plan s.nextSide })

/-- Reset leaves both memories in canonical form. -/
def Obligations.ResetMemoryOk : Prop := State.reset.MemoryOk

/-- Every step keeps both memories in canonical form: addresses rise, and no byte is listed that reads as an unlisted one does. -/
def Obligations.StepMemoryOk : Prop := ∀ s s' : State, s.MemoryOk → step s = .next s' → s'.MemoryOk

/-! ### Compute nodes (R111 to R145) -/

/-- R121 to R126, R132: the nodes of rows 0x0 and 0x1 fire when they match and have room, with the exact results of their tables. R124: tagset
sends L under a tag whose chosen field comes from R, with KIND DATA; an END passes with that field changed only when R is an immediate. -/
def Obligations.IntegerNodesFire : Prop :=
  (∀ (s : State) (n : GNode) (ty : IntTy) (sat neg ar right sx : Bool) (c : IntCond) (k : LeaScale)
       (cm : ConstMode) (dst : SatTo) (tg : TagGet) (ts : TimeSel),
     s.Computes (.add n ty sat) (intResult n ty sat fun a b _ => a + b) ∧
     s.Computes (.sub n ty sat) (intResult n ty sat fun a b _ => a - b) ∧
     s.Computes (.mul n ty sat) (intResult n ty sat fun a b _ => a * b) ∧
     s.Computes (.mulh n ty) (intResult n ty false fun a b _ => a * b / (2 ^ intWidth ty : Nat)) ∧
     s.Computes (.mad n ty sat) (intResult n ty sat fun a b c => a * b + c) ∧
     s.Computes (.min n ty) (intResult n ty false fun a b _ => Min.min a b) ∧
     s.Computes (.max n ty) (intResult n ty false fun a b _ => Max.max a b) ∧
     s.Computes (.absn n ty sat neg) (intResult n ty sat fun a _ _ => if neg then -a else (a.natAbs : Int)) ∧
     s.Computes (.and n) (wordResult n fun a b _ => a &&& b) ∧
     s.Computes (.or n) (wordResult n fun a b _ => a ||| b) ∧
     s.Computes (.xor n) (wordResult n fun a b _ => a ^^^ b) ∧
     s.Computes (.andn n) (wordResult n fun a b _ => a &&& ~~~b) ∧
     s.Computes (.shl n ty sat) (intResult n ty sat fun a b _ => a * (2 ^ shiftCount ty b : Nat)) ∧
     s.Computes (.shr n ty ar) (intResult n ty false fun a b _ =>
       (if ar then a else (intBits (intWidth ty) a : Int)) / (2 ^ shiftCount ty b : Nat)) ∧
     s.Computes (.rot n ty right) (intResult n ty false fun a b _ =>
       (rotBits (intWidth ty) (if right then (intWidth ty - shiftCount ty b) % intWidth ty else shiftCount ty b)
         (intBits (intWidth ty) a) : Int)) ∧
     s.Computes (.cmp n c) (wordResult n fun a b _ => if intCond c a b then 1 else 0) ∧
     s.Computes (.sel n) (selResult n) ∧
     s.Computes (.clz n ty) (bitsResult n ty fun u => if u = 0 then intWidth ty else intWidth ty - 1 - u.log2) ∧
     s.Computes (.popc n ty) (bitsResult n ty (popCount (intWidth ty))) ∧
     s.Computes (.bext n sx) (wordResult n fun a b _ => bitExtract sx a b) ∧
     s.Computes (.bins n) (wordResult n bitInsert) ∧
     s.Computes (.lea n k) (wordResult n fun a b _ => a + b * BitVec.ofNat 32 (2 ^ leaShift k)) ∧
     s.Computes (.const n cm) (wordResult n fun _ _ _ => constWord n cm) ∧
     s.Computes (.mov n) (movResult n) ∧
     s.Computes (.sat n dst) (fun fr => lanewise fr n.w fun a _ _ =>
       (BitVec.ofInt 32 (satInt (satRange dst).1 (satRange dst).2 a.toInt).1, (satInt (satRange dst).1 (satRange dst).2 a.toInt).2)) ∧
     s.Computes (.icvt n ty sat) (fun fr => lanewise fr n.w fun a _ _ =>
       (laneWith (intWidth ty) (convDst n) (intFinish ty sat (intAt (convInt n) a (convSrc n))).1,
        (intFinish ty sat (intAt (convInt n) a (convSrc n))).2)) ∧
     s.Computes (.iota n) (fun fr => laneResult fr.tag .vec ((List.range 16).map fun j => (fr.word .L + BitVec.ofNat 32 j * fr.word .R, 0))) ∧
     s.Computes (.tagget n tg) (fun fr => wordResult n (fun _ _ _ => tagWord fr.tag tg) fr) ∧
     s.Computes (.rdtime n ts) (fun fr => { tag := fr.tag.asData, r0 := .clock (.time ts (n.w == .vec)) }) ∧
     s.Computes (.rdslack n) (fun fr => { tag := fr.tag.asData, r0 := .clock .slack })) ∧
  (∀ (s : State) (n : GNode) (f : TagSet),
     s.Computes (.tagset n f) (fun fr => { tag := (setTag f (fr.word .R) fr.tag).asData, r0 := .pay (payOf n.w (fr.lanes (laneCount n.w) .L)) }) ∧
     ∀ tag level took, s.Ended (.tagset n f) tag level took →
       s.Fires (.tagset n f) (s.endFiring tag took ((tgts (.tagset n f)).map
         (endOut (if n.x.isel = .r then setTag f (n.x.imm.signExtend 32) tag else tag) level))))

/-- R127 to R132: the nodes of row 0x2 fire when they match and have room; each exact value is formed and rounded once. Corner values are
read as log entry 20 says. -/
def Obligations.FloatNodesFire : Prop := ∀ (s : State) (n : GNode) (ty : FloatTy) (ity : IntTy) (rm : Round) (c : FloatCond) (op : SignOp),
  s.Computes (.fadd n ty rm) (floatResult n ty rm fun f a b _ => rounded f rm (addExact rm a b)) ∧
  s.Computes (.fsub n ty rm) (floatResult n ty rm fun f a b _ => rounded f rm (addExact rm a b.neg)) ∧
  s.Computes (.fmul n ty rm) (floatResult n ty rm fun f a b _ => rounded f rm (mulExact a b)) ∧
  s.Computes (.ffma n ty rm) (floatResult n ty rm fun f a b c => rounded f rm (fmaExact rm a b c)) ∧
  s.Computes (.fmin n ty) (floatResult n ty .rne fun _ a b _ => pickFloat false a b) ∧
  s.Computes (.fmax n ty) (floatResult n ty .rne fun _ a b _ => pickFloat true a b) ∧
  s.Computes (.fcmp n c) (fcmpResult n c) ∧
  s.Computes (.fsgn n ty op) (fsgnResult n ty op) ∧
  s.Computes (.frcpe n ty) (floatResult n ty .rne fun f a _ _ => estRcp f a) ∧
  s.Computes (.frsqe n ty) (floatResult n ty .rne fun f a _ _ => estRsq f a) ∧
  s.Computes (.fexp2e n ty) (floatResult n ty .rne fun f a _ _ => estExp2 f a) ∧
  s.Computes (.flog2e n ty) (floatResult n ty .rne fun f a _ _ => estLog2 f a) ∧
  s.Computes (.frnd n ty rm) (floatResult n ty rm fun _ a _ _ => roundIntegral rm a) ∧
  s.Computes (.fcvt n ty rm) (fun fr => lanewise fr n.w fun a _ _ =>
    let r := roundDir (floatFmt ty) rm (floatAt (convFloat n) a (convSrc n))
    (laneWith (floatFmt ty).width (convDst n) ((floatFmt ty).encode r.1), r.2)) ∧
  s.Computes (.ftoi n ity rm) (fun fr => lanewise fr n.w fun a _ _ =>
    let r := toIntSat rm (intElem ity).lo (intElem ity).hi 0 0 (floatAt (convFloat n) a (convSrc n))
    (laneWith (intWidth ity) (convDst n) (intBits (intWidth ity) r.1), r.2)) ∧
  s.Computes (.itof n ty rm) (fun fr => lanewise fr n.w fun a _ _ =>
    let r := roundDir (floatFmt ty) rm (Val.ofInt (intAt (convInt n) a (convSrc n)))
    (laneWith (floatFmt ty).width (convDst n) ((floatFmt ty).encode r.1), r.2))

/-- R134 to R142, R178: the nodes of row 0x3, and rng, fire when they match and have room. R143 to R145: the nodes of row 0x4 fire when
they match and have room. Corner values are read as log entry 20 says; that unpack without T1 sets no flag for the elements meant for it, what an
immediate of a packed scl is, that scan .max and .min ignore M[1:0], lane 0 of a float scan, and the 16 firings for which wcv holds its token
are the model's choices (log entry 71). -/
def Obligations.NarrowAndLaneNodesFire : Prop :=
  (∀ (s : State) (n : GNode) (ty : FloatTy) (rm : Round) (q sat tolns : Bool),
     s.Computes (.cvtch n rm) (cvtchResult n rm) ∧
     s.Computes (.pack n) (packResult n) ∧
     s.Computes (.unpack n) (unpackResult n) ∧
     s.Computes (.sround n) (sroundResult n) ∧
     s.Computes (.lmul n) (fun fr => lanewise fr n.w fun a b _ => lmulLane a b) ∧
     s.Computes (.lacc n) (fun fr => lanewise fr n.w laccLane) ∧
     s.Computes (.lcvt n tolns) (if tolns then lcvtTo n else lcvtFrom n) ∧
     s.Computes (.scl n ty rm) (sclResult n ty rm) ∧
     s.Computes (.qnt n) (qntResult n) ∧
     s.Computes (.dqnt n rm) (dqntResult n rm) ∧
     s.Computes (.dot n q sat rm) (dotResult n q sat rm) ∧
     s.Computes (.rng n) (rngResult n)) ∧
  (∀ (s : State) (n : GNode) (m : SumMode) (ty : LaneTy) (rot : Bool),
     s.Computes (.rsum n m) (fun fr => wordOut fr (tree 0 (sumLane m) (fr.lanes 16 .L))) ∧
     s.Computes (.rmax n ty) (fun fr => wordOut fr (tree 0 (pickLane ty true) (fr.lanes 16 .L))) ∧
     s.Computes (.rmin n ty) (fun fr => wordOut fr (tree 0 (pickLane ty false) (fr.lanes 16 .L))) ∧
     s.Computes (.perm n) (fun fr => vecOut fr fun j => nthD 0 (fr.lanes 16 .L) ((nthD 0 (fr.lanes 16 .R) j).toNat % 16)) ∧
     s.Computes (.bcast n) (fun fr => vecOut fr fun _ => nthD 0 (fr.lanes 16 .L) ((fr.word .R).toNat % 16)) ∧
     s.Computes (.lsh n rot) (fun fr => vecOut fr (shiftLane rot (fr.lanes 16 .L) (fr.word .R).toInt)) ∧
     s.Computes (.scan n m) (scanResult n m) ∧
     s.Computes (.cmpx n ty) (fun fr =>
       laneResult fr.tag .vec ((List.range 16).map (cmpxLane ty (n.xmod % 4) (n.xmod / 8) (fr.lanes 16 .L)))) ∧
     s.Computes (.splat n) (fun fr => vecOut fr fun _ => fr.word .L) ∧
     s.Computes (.lget n) (fun fr => wordOut fr (nthD 0 (fr.lanes 16 .L) ((fr.word .R).toNat % 16), 0)) ∧
     s.Computes (.lset n) (fun fr => vecOut fr fun j =>
       if j = (fr.word .R).toNat % 16 then fr.word .Q else nthD 0 (fr.lanes 16 .L) j) ∧
     s.Computes (.wcv n) wcvResult)

/-- R121: element e of a wrapped integer result is the exact integer of elements e, modulo 2^w, read as the type; a saturated one is that
integer brought into the type's range. No bit of one element reaches another (R113). -/
def Obligations.IntegerElements : Prop := ∀ (ty : IntTy) (f : Int → Int → Int → Int) (a b c : Word) (e : Nat), e < intCount ty →
  let x := f (intAt ty a e) (intAt ty b e) (intAt ty c e)
  intAt ty (intLane ty false f a b c).1 e = (if intSigned ty then Int.bmod x (2 ^ intWidth ty) else x % 2 ^ intWidth ty) ∧
  intAt ty (intLane ty true f a b c).1 e = Max.max (intElem ty).lo (Min.min (intElem ty).hi x)

/-! ### Steering, loops and streams (R147 to R181) -/

/-- R153, R154, R44: steer sends L to the arm that the word at R chooses, with that arm's bit appended to PATH; an END goes to both arms; at
PDEP 7 either is PATH_OVERFLOW. R44: appending a PATH bit writes it at position PDEP and counts PDEP up; stripping removes it again. -/
def Obligations.SteerFires : Prop :=
  (∀ (s : State) (n : GNode) (inv : Bool) (tag : Tag) (took : List Entry) (level : Nat),
     let i : Instr := .steer n inv
     let l := s.passed i n tag took
     (tag.pdep ≠ 7 → s.Matched i tag took →
       s.Fires i (.of took (steerOuts n (((s.fireOf i tag took).word .R != 0) != inv) l.1 l.2))) ∧
     (tag.pdep ≠ 7 → s.Ended i tag level took → s.Fires i (s.endFiring tag took (steerEnds n tag level))) ∧
     (tag.pdep = 7 → s.Matched i tag took ∨ s.Ended i tag level took → s.Traps i clsPathOverflow tag 0 0)) ∧
  (∀ (t : Tag) (d : Bool), t.pdep ≠ 7 → t.legal = true →
     (t.append d).pdep = t.pdep + 1 ∧ (t.append d).path.getLsbD t.pdep.toNat = d ∧ (t.append d).legal = true ∧
     (t.append d).lastBit = d ∧ (t.append d).strip = t)

/-- R155, R156: merge forwards the DATA token accepted earlier, L's on a tie, with its last PATH bit stripped; a pair of ENDs of one LEVEL
goes as one END; a token at the wrong port, or without a bit, is PATH_OVERFLOW, and a pair of unequal LEVELs is STREAM_MISMATCH. That L wins
a tie, and which goes first of DATA and a pair of ENDs, is the model's reading (log entry 19). -/
def Obligations.MergeFires : Prop := ∀ (s : State) (n : GNode) (e l r : Entry), s.Opened →
  let i : Instr := .merge n
  let bad := (s.candidates .L).filter (mergeBad .L) ++ (s.candidates .R).filter (mergeBad .R)
  (bad = [] → s.mergePick = some e → (∀ p, s.mergeEnds = some p → mergeEndFirst e p.1 p.2 = false) →
    s.Fires i { use := useOne e, outs := sendAll i e.tok.tag.strip (.pay (shaped n.w e.tok.pay)) }) ∧
  (bad = [] → (∀ d, s.mergePick = some d → mergeEndFirst d l r = true) → s.mergeEnds = some (l, r) →
    (l.tok.level = r.tok.level → s.Fires i (s.endFiring l.tok.tag [l, r] ((tgts i).map (endOut l.tok.tag.strip l.tok.level)))) ∧
    (l.tok.level ≠ r.tok.level → s.Traps i clsStreamMismatch l.tok.tag 0 0)) ∧
  (bad.head? = some e → s.Traps i clsPathOverflow e.tok.tag 0 0)

/-- R158, R159: carry sends a feedback token on with its last PATH bit stripped (and ITER counted up under .inc), and traps PATH_OVERFLOW on one
without a bit; otherwise an entry token goes in, which the node counts, or an END, which closes the node: a token goes in while the cycle
holds fewer than LIMIT, and an END once the cycle is empty. The END that comes back at R opens the node again, and one that comes to an open
node is STREAM_MISMATCH. A token at Q that trapped when it came goes before the others: it is counted off the cycle, or traps again while the
cycle is empty. That R comes before L, and the order of a token and an END at L, are the model's reading (log entry 19). -/
def Obligations.CarryFires : Prop := ∀ (s : State) (n : GNode) (inc : Bool) (e : Entry), s.Opened →
  let i : Instr := .carry n inc
  let nd := s.node s.sel
  let back := earliest ((s.candidates .R).filter fun x => !x.tok.isEnd)
  let home := ((s.candidates .R).filter fun x => x.tok.isEnd && s.endReady .R x).head?
  let entry := s.carryPick n (s.candidates .L)
  let atQ := (s.candidates .Q).head?
  (atQ = some e →
    (nd.carryCount ≤ nd.carryDown → s.Traps i clsStreamMismatch e.tok.tag 0 0) ∧
    (nd.carryDown < nd.carryCount → exec i s = .next ((s.modTile s.selTile (useOne e)).modNode s.sel fun x => { x with carryDown := x.carryDown + 1 }))) ∧
  (atQ = none → back = some e → e.tok.tag.pdep ≠ 0 →
    s.Fires i { use := useOne e, outs := sendAll i (feedbackTag inc e.tok.tag) (.pay (shaped n.w e.tok.pay)) }) ∧
  (atQ = none → back = some e → e.tok.tag.pdep = 0 → s.Traps i clsPathOverflow e.tok.tag 0 0) ∧
  (atQ = none → back = none → home = some e →
    (nd.closing = true → s.Fires i { use := fun t => t.spendAll [e], node := fun x => { x with closing := false } }) ∧
    (nd.closing = false → s.Traps i clsStreamMismatch e.tok.tag 0 0)) ∧
  (atQ = none → back = none → home = none → nd.closing = false → entry = some e →
    (e.tok.isEnd = false →
      s.Fires i { use := useOne e, outs := sendAll i e.tok.tag (.pay (shaped n.w e.tok.pay)),
                  node := fun x => { x with carryCount := x.carryCount + 1 } }) ∧
    (e.tok.isEnd = true →
      s.Fires i { s.endFiring e.tok.tag [e] ((tgts i).map (endOut e.tok.tag e.tok.level)) with
                  node := fun x => { x with closing := true } })) ∧
  (entry = some e → e ∈ s.candidates .L ∧ (e.tok.isEnd = false → nd.carryCount < n.imm % 256) ∧
    (e.tok.isEnd = true → nd.carryCount = 0 ∧ s.endReady .L e = true))

/-- R163: sink consumes every token at L, DATA and END alike, and sends nothing. -/
def Obligations.SinkFires : Prop := ∀ (s : State) (n : GNode) (tag : Tag) (took : List Entry) (level : Nat),
  (s.Matched (.sink n) tag took → s.Fires (.sink n) (.of took [])) ∧
  (s.Ended (.sink n) tag level took → s.Fires (.sink n) (s.endFiring tag took []))

/-- R162, R167: gate passes L where R is nonzero and drops it where R is zero, or meters L by its free slots: with none left DATA waits as for
a token at R, and an END is forwarded whatever the count; isend reports 0 for DATA and the LEVEL of an END. An END at gate is forwarded.
Absorptions count from the next fc on (log entry 19). -/
def Obligations.FilterNodesFire : Prop := ∀ (s : State) (n : GNode) (tag : Tag) (took : List Entry) (level : Nat),
  let pass : Instr := .gate n false
  let meter : Instr := .gate n true
  let isend : Instr := .isend n
  let others := pickBest (((s.tile s.selTile).taggedReady s.sel.blk s.sel.slot meter [.L]).filter fun p => mayChoose false true p.2)
  (s.Matched pass tag took → s.Fires pass (.of took (if (s.fireOf pass tag took).word .R ≠ 0 then s.passAll pass n tag took else []))) ∧
  (s.Ended pass tag level took → s.Fires pass (s.endFiring tag took ((tgts pass).map (endOut tag level)))) ∧
  (s.Opened → s.chooseOn meter [.L] = .fire tag took →
    (gateFree n (s.node s.sel) ≠ 0 →
      s.Fires meter { Firing.of took (s.passAll meter n tag took) with node := fun x => { x with gateTaken := x.gateTaken + 1 } }) ∧
    (gateFree n (s.node s.sel) = 0 → (s.tile s.selTile).isStatic s.sel.blk = true ∨ others = none → exec meter s = .next (s.setStall 2))) ∧
  (s.Opened → s.chooseOn meter [.L] = .fin tag level took →
    s.Fires meter (s.endFiring tag took ((tgts meter).map (endOut tag level)))) ∧
  (s.Matched isend tag took →
    s.Fires isend (.of took (outsOf isend (some (tag.asData, .word 0)) (some (s.passed isend n tag took))))) ∧
  (s.Ended isend tag level took →
    s.Fires isend (s.endFiring tag took (outsOf isend (some (tag.asData, .word (BitVec.ofNat 32 level))) none)))

/-- R164 to R166: cnt passes DATA on and counts it, and sends the count at an END; join counts DATA and sends the group number at the Nth, and
at an END under .flush the number of an unfinished group before the END; eos replaces DATA by END, or makes an END in the firing after every
Nth DATA, and forwards an END. -/
def Obligations.CountingNodesFire : Prop := ∀ (s : State) (n : GNode) (flush count : Bool) (tag : Tag) (took : List Entry) (level : Nat),
  let cnt : Instr := .cnt n
  let join : Instr := .join n flush
  let emit : Instr := .eos n false
  let every : Instr := .eos n true
  let nd := s.node s.sel
  let joinEnd : Firing := { s.endFiring tag took ((tgts join).map (endOut tag level)) with
                            node := fun x => { x with joinCount := 0, joinFlushed := false } }
  (s.Matched cnt tag took →
    s.Fires cnt { Firing.of took (outsOf cnt none (some (s.passed cnt n tag took))) with
                  node := fun x => { x with cntCount := x.cntCount + 1 } }) ∧
  (s.Ended cnt tag level took →
    s.Fires cnt { s.endFiring tag took (outsOf cnt (some (tag.asData, .word nd.cntCount)) (some (tag, .word (BitVec.ofNat 32 level)))) with
                  node := fun x => { x with cntCount := 0 } }) ∧
  (s.Matched join tag took → nd.joinFlushed = false →
    (nd.joinCount + 1 = n.imm % 4096 →
      s.Fires join { Firing.of took (sendAll join tag.asData (.pay (.word nd.joinGroup))) with
                     node := fun x => { x with joinCount := 0, joinGroup := x.joinGroup + 1 } }) ∧
    (nd.joinCount + 1 ≠ n.imm % 4096 →
      s.Fires join { Firing.of took [] with node := fun x => { x with joinCount := x.joinCount + 1 } })) ∧
  (s.Ended join tag level took → nd.joinFlushed = false →
    (flush = true → nd.joinCount ≠ 0 → s.Fires join { outs := sendAll join tag.asData (.pay (.word nd.joinGroup)),
                                                      node := fun x => { x with joinFlushed := true, joinGroup := x.joinGroup + 1 } }) ∧
    (flush = false ∨ nd.joinCount = 0 → s.Fires join joinEnd)) ∧
  (s.Opened → nd.joinFlushed = true → s.onlyEnds.chooseOn join [.L] = .fin tag level took → s.Fires join joinEnd) ∧
  (s.Matched emit tag took → nd.eosPending = none → s.Fires emit (.of took ((tgts emit).map (endOut tag (eosLevel n))))) ∧
  (s.Matched every tag took → nd.eosPending = none →
    s.Fires every { Firing.of took (s.passAll every n tag took) with
      node := fun x => { x with
        eosCount := nd.eosCount + 1
        eosPending := if nd.eosCount + 1 = eosEvery n then some { tag with kind := .fin, iter := tag.iter + 1 } else none } }) ∧
  (s.Opened → nd.eosPending = some tag →
    s.Fires (.eos n count) { outs := (tgts (.eos n count)).map (endOut tag (eosLevel n)),
                             node := fun x => { x with eosPending := none, eosCount := 0 } }) ∧
  (s.Ended (.eos n count) tag level took → nd.eosPending = none →
    s.Fires (.eos n count) { s.endFiring tag took ((tgts (.eos n count)).map (endOut tag level)) with
                             node := fun x => { x with eosCount := 0 } })

/-- R168 to R172: spawn draws the lowest free colour while one is left beside the deeper classes' floors, and sends its arguments with a fresh
tag of that colour; with none left its DATA holds COLOUR, and where an END of another context is ready that one goes. Its END goes to its return
target through the return queue once nothing of the node's is outstanding, holds COLOUR before, and FULL with no return-queue entry left. ret takes
its L token to the caller's return target through that target's return queue and holds FULL with no entry of it left; a ret on a free colour is
COLOUR_FREE, and an END at ret is consumed. -/
def Obligations.CallNodesFire : Prop := ∀ (s : State) (n : GNode) (two : Bool) (tag : Tag) (took : List Entry) (level : Nat) (c : Colour),
  let x := s.billet s.sel.b
  let spawn : Instr := .spawn n two
  let ret : Instr := .ret n
  let f := s.fireOf spawn tag took
  let t := s.tile s.selTile
  let alone (draws ends : Bool) : Prop := t.isStatic s.sel.blk = true ∨
    ∀ p ∈ t.taggedReady s.sel.blk s.sel.slot spawn (t.reads s.sel.blk s.sel.slot spawn), mayChoose draws ends p.2 = false
  (s.Matched spawn tag took → x.freeColours > x.reservedBelow (spawnClass n) →
    s.Fires spawn { Firing.of took (outsOf spawn (some (spawnTag x.lowestFree, f.pay n.w .L))
                      (if two then some (spawnTag x.lowestFree, f.pay n.w .R) else none)) with
      node := fun y => { y with spawnOut := y.spawnOut + 1 }
      bill := fun y => { y with
        colours := ⟨x.lowestFree, tag, s.sel.t, spawnTarget n, s.sel.pos, spawnClass n, false⟩ :: y.colours } }) ∧
  (s.Matched spawn tag took → x.freeColours ≤ x.reservedBelow (spawnClass n) → alone false ((s.node s.sel).spawnOut == 0) →
    exec spawn s = .next (s.setStall 7)) ∧
  (s.Ended spawn tag level took → (s.node s.sel).spawnOut = 0 → x.retUse s.sel.t < Config.returnQueue →
    s.Fires spawn { s.endFiring tag took [] with
      fx := .ret s.sel.t s.sel.pos (spawnTarget n) ⟨{ tag with kind := .fin }, .word (BitVec.ofNat 32 level)⟩ none }) ∧
  (s.Ended spawn tag level took → (s.node s.sel).spawnOut ≠ 0 → alone (x.mayDraw (spawnClass n)) false → exec spawn s = .next (s.setStall 7)) ∧
  (s.Ended spawn tag level took → (s.node s.sel).spawnOut = 0 → Config.returnQueue ≤ x.retUse s.sel.t → x.mayDraw (spawnClass n) = true →
    exec spawn s = .next (s.setStall 5)) ∧
  (s.Matched ret tag took → tag.colour ≠ 0 → x.held tag.colour.toNat = some c → Config.returnQueue ≤ x.retUse c.tile →
    exec ret s = .next (s.setStall 5)) ∧
  (s.Matched ret tag took → tag.colour ≠ 0 → x.held tag.colour.toNat = some c → x.retUse c.tile < Config.returnQueue →
    s.Fires ret { Firing.of took [] with
      fx := .ret c.tile c.pos c.tgt { tag := c.caller.asData, pay := (s.fireOf ret tag took).pay n.w .L } (some c.n) }) ∧
  (s.Matched ret tag took → (x.held tag.colour.toNat = none ∨ tag.colour = 0) → s.Traps ret clsColourFree tag 0 0) ∧
  (s.Ended ret tag level took → s.Fires ret (s.endFiring tag took []))

/-- R173, R174: isect and unio work on the heads of one context whose coordinates rise. Equal coordinates are consumed and sent together;
else the lower one is consumed, an END standing above every coordinate, and unio sends it with zero for the other side; two ENDs of one
LEVEL close the segment and go as one END. A coordinate that does not rise, or ENDs of two LEVELs, are STREAM_MISMATCH. One segment for each
context is the model's reading (log entry 21). -/
def Obligations.StreamNodesFire : Prop := ∀ (s : State) (n : GNode) (l r : Entry), s.Opened → bestHeads s.heads = some (l, r) →
  let key := if (s.tile s.selTile).isStatic s.sel.blk then ((0 : BitVec 10), (0 : BitVec 7), (0 : BitVec 3)) else l.tok.tag.ctx
  let g := (s.node s.sel).seg key
  let tag : Tag := { l.tok.tag with kind := .data, iter := BitVec.ofNat 16 g.pairs }
  let cl := coordOf l
  let cr := coordOf r
  let zero (c : Nat) : Payload := .word (BitVec.ofNat 32 (c * 65536))
  let own (e : Entry) : Payload := .word e.tok.pay.lane0
  let rising := notRising g.prevL l = false ∧ notRising g.prevR r = false
  (notRising g.prevL l = true ∨ notRising g.prevR r = true → ∀ i ∈ [Instr.isect n, Instr.unio n], s.Traps i clsStreamMismatch l.tok.tag 0 0) ∧
  (rising → l.tok.isEnd = true → r.tok.isEnd = true → ∀ i ∈ [Instr.isect n, Instr.unio n],
    (l.tok.level = r.tok.level → s.Fires i
      { use := fun t => t.spendAll [l, r], outs := (tgts i).map (endOut tag l.tok.level), node := fun x => x.setSeg { ctx := key } }) ∧
    (l.tok.level ≠ r.tok.level → s.Traps i clsStreamMismatch l.tok.tag 0 0)) ∧
  (rising → l.tok.isEnd = false → r.tok.isEnd = false → cl = cr → ∀ i ∈ [Instr.isect n, Instr.unio n], s.Fires i
    { use := fun t => t.spendAll [l, r], outs := outsOf i (some (tag, own l)) (some (tag, own r)),
      node := fun x => x.setSeg { ctx := key, pairs := g.pairs + 1, prevL := some cl, prevR := some cr } }) ∧
  (rising → l.tok.isEnd = false → cl < cr →
    s.Fires (.isect n)
      { use := fun t => t.spendAll [l], node := fun x => x.setSeg { ctx := key, pairs := g.pairs, prevL := some cl, prevR := g.prevR } } ∧
    s.Fires (.unio n)
      { use := fun t => t.spendAll [l], outs := outsOf (.unio n) (some (tag, own l)) (some (tag, zero cl)),
        node := fun x => x.setSeg { ctx := key, pairs := g.pairs + 1, prevL := some cl, prevR := g.prevR } }) ∧
  (rising → r.tok.isEnd = false → cr < cl →
    s.Fires (.isect n)
      { use := fun t => t.spendAll [r], node := fun x => x.setSeg { ctx := key, pairs := g.pairs, prevL := g.prevL, prevR := some cr } } ∧
    s.Fires (.unio n)
      { use := fun t => t.spendAll [r], outs := outsOf (.unio n) (some (tag, zero cr)) (some (tag, own r)),
        node := fun x => x.setSeg { ctx := key, pairs := g.pairs + 1, prevL := g.prevL, prevR := some cr } })

/-- R176, R177: while no reply goes, because none stands at L or its channel is OFF, a porter grants the first arc in round-robin order
whose head is DATA and remembers it, or holds FULL with 32 grants open; a reply goes to the channel of the arc at the head of the grants; a
reply with no grant is STREAM_MISMATCH; ENDs at the head of every arc, of one context and LEVEL, go as one END, and of unequal context or
LEVEL are STREAM_MISMATCH; an END of the replies goes to every arc once no grant is open. The tag of the one END is the model's choice (log
entry 71). R180, R181: reorder sends the window's token at its next ITER and moves the window on; an END at that ITER is forwarded, one
below it is STREAM_MISMATCH, and one above it waits. The context of a reorder node is read as log entry 21 says. -/
def Obligations.PorterAndReorderFire : Prop :=
  (∀ (s : State) (n : GNode) (a : Nat) (k : Token) (ks : List Token) (e : Entry) (rest : List Nat) (c : BitVec 5), s.Opened →
     let i : Instr := .porter n
     let heads := (List.range (porterArcs n)).map (s.arcHead n)
     let reply := earliest ((s.candidates .L).filter fun x => !x.tok.isEnd)
     let fin := ((s.candidates .L).filter fun x => x.tok.isEnd && s.endReady .L x).head?
     let next := (arcOrder (porterArcs n) (s.node s.sel).lastArc).findSome? fun j =>
       (nthD none heads j).bind fun x => if x.isEnd then none else some (j, x)
     let noReply := reply = none ∧ (fin = none ∨ (s.node s.sel).grants ≠ []) ∨
       ∃ j js d, reply = some e ∧ (s.node s.sel).grants = j :: js ∧ replyChan n j = .chan d ∧
         (s.billet s.sel.b).chanOff (s.mtCap s.sel.b) (s.now s.sel.b) s.sel.t d.toNat none = true
     (noReply → next = some (a, k) →
       ((s.node s.sel).grants.length < 32 →
         s.Fires i { use := fun t => t.popArcs n [a], outs := [{ tgt := n.t0, tag := k.tag, res := .pay (shaped n.w k.pay) }],
                     node := fun x => { x with grants := x.grants ++ [a], lastArc := a } }) ∧
       (32 ≤ (s.node s.sel).grants.length → exec i s = .next (s.setStall 5))) ∧
     (noReply → heads = (k :: ks).map some → (∀ x ∈ k :: ks, x.isEnd = true) →
       ((∀ x ∈ ks, x.tag.ctx = k.tag.ctx ∧ x.level = k.level) →
         s.Fires i { use := fun t => t.popArcs n (List.range (porterArcs n)), outs := [endOut k.tag k.level n.t0] }) ∧
       ((∃ x ∈ ks, x.tag.ctx ≠ k.tag.ctx ∨ x.level ≠ k.level) → s.Traps i clsStreamMismatch k.tag 0 0)) ∧
     (reply = some e → (s.node s.sel).grants = a :: rest → replyChan n a = .chan c →
       (s.billet s.sel.b).chanOff (s.mtCap s.sel.b) (s.now s.sel.b) s.sel.t c.toNat none = false →
       s.Fires i { use := useOne e, outs := [{ tgt := .chan c, tag := e.tok.tag, res := .pay (shaped n.w e.tok.pay) }],
                   node := fun x => { x with grants := rest } }) ∧
     (reply = some e → (s.node s.sel).grants = [] → s.Traps i clsStreamMismatch e.tok.tag 0 0) ∧
     (reply = none → fin = some e → (s.node s.sel).grants = [] →
       s.Fires i (s.endFiring e.tok.tag [e] ((List.range (porterArcs n)).map fun j => endOut e.tok.tag e.tok.level (replyChan n j))))) ∧
  (∀ (s : State) (n : GNode) (tok : Token) (e : Entry), s.Opened →
     let i : Instr := .reorder n
     let nd := s.node s.sel
     let fin := (s.candidates .L).find? fun x => x.tok.isEnd
     (Tbl.get 0 nd.window = some tok → s.Fires i
       { outs := sendAll i tok.tag (.pay (shaped n.w tok.pay)),
         node := fun x => { x with next := x.next + 1, window := (Tbl.del 0 x.window).map fun p => (p.1 - 1, p.2) } }) ∧
     (Tbl.get 0 nd.window = none → fin = some e →
       (nd.next = e.tok.tag.iter → s.Fires i
         { use := fun t => t.spendAll [e], outs := (tgts i).map (endOut e.tok.tag e.tok.level),
           node := fun x => { x with next := 0, ctx := none } }) ∧
       (nd.next ≠ e.tok.tag.iter → (nd.next - e.tok.tag.iter).toNat < 2 ^ 15 → s.Traps i clsStreamMismatch e.tok.tag 0 0) ∧
       ((nd.next - e.tok.tag.iter).toNat ≥ 2 ^ 15 → exec i s = .next (s.setStall 1))))

/-! ### Memory nodes (R183 to R216) -/

/-- R185, R186, R188, R189, R191, R199, R200: ld, st, amo and red whose chain place has come and whose guard holds enter the memory port with the
offset L + DISP × size, or trap BOUNDS or MISALIGN at issue; before their place in the chain they hold CHAIN; under a false guard they send
zero, if they send at all, and keep their place in the chain. An END is forwarded. The wrap of the offset is the model's reading (log entry
22). -/
def Obligations.AccessesIssue : Prop := ∀ (s : State) (n : MNode) (sp : Space) (o : Order) (op : AtomOp) (tag : Tag) (took : List Entry)
    (level : Nat) (i : Instr) (vec : Bool) (data : Fire → Payload),
  (i, vec, data) = (.ld n sp o, n.w == .vec, fun _ => .word 0) ∨
  (i, vec, data) = (.st n sp o, false, fun f => f.accData (n.w == .vec)) ∨
  (i, vec, data) = (.amo n sp o op, n.w == .vec, fun f => f.accData (n.w == .vec || op == .cas)) ∨
  (i, vec, data) = (.red n sp o op, false, fun f => f.accData (n.w == .vec)) →
  let f := s.fireOf i tag took
  let off := effOffset n n.w.bytes (f.word .L)
  let fr := s.accFiring i f (some n) (sendAll i tag.asData (.pay (zeroPay vec)))
  let bad := (s.billet s.sel.b).addrTrap (s.mtCap s.sel.b) sp n.xm.win.toNat off n.w.bytes
  (s.Ended i tag level took → s.Fires i (s.looseEnd i tag level took)) ∧
  (s.Matched i tag took →
    ((s.tile s.selTile).chainOpen s.sel.blk n tag = false → exec i s = .next (s.setStall 8)) ∧
    ((s.tile s.selTile).chainOpen s.sel.blk n tag = true →
      (s.guardTrue i f = false → s.Fires i (s.noOpFiring i f (some n) (some (zeroPay vec)))) ∧
      (s.guardTrue i f = true → bad = none → s.Issues i fr (s.newAcc i f [(0, off)] (data f))) ∧
      (∀ cls, s.guardTrue i f = true → bad = some cls → s.Free i fr →
        exec i s = .next (s.trapSelected cls tag (addrDetail 0 sp) off))))

/-- R185, R186, R191: ldx and stx enter the memory port with one offset for each lane that the guard's low 16 bits enable, at their place in
the chain; with no lane enabled they send zero, if they send at all. R201, R205: prf enters the port as a hint without results; wtaddr enters
it with its reference word, or traps on its address. Under a false guard prf sends nothing and wtaddr 0. An END is forwarded. The order of
the lanes is the model's reading (log entry 22). -/
def Obligations.LaneAccessesIssue : Prop :=
  (∀ (s : State) (n : MNode) (sp : Space) (o : Order) (tag : Tag) (took : List Entry) (level : Nat)
       (i : Instr) (vec : Bool) (data : Fire → Payload),
     (i, vec, data) = (.ldx n sp o, true, fun _ => zeroPay true) ∨ (i, vec, data) = (.stx n sp o, false, fun f => f.accData true) →
     let f := s.fireOf i tag took
     let on := (List.range 16).filter fun j => ((s.guardOf i f).getD 0xFFFF).getLsbD j
     let todo := on.map fun j => (j, effOffset n n.w.bytes (nthD 0 (f.lanes 16 .L) j))
     (s.Ended i tag level took → s.Fires i (s.looseEnd i tag level took)) ∧
     (s.Matched i tag took →
       ((s.tile s.selTile).chainOpen s.sel.blk n tag = false → exec i s = .next (s.setStall 8)) ∧
       ((s.tile s.selTile).chainOpen s.sel.blk n tag = true →
         (on = [] → s.Fires i (s.noOpFiring i f (some n) (some (zeroPay vec)))) ∧
         (on ≠ [] → s.Issues i (s.accFiring i f (some n) (sendAll i tag.asData (.pay (zeroPay vec)))) (s.newAcc i f todo (data f)))))) ∧
  (∀ (s : State) (m : MNode) (n : GNode) (glb : Bool) (c : WatchCond) (tag : Tag) (took : List Entry) (level : Nat),
     let p : Instr := .prf m
     let w : Instr := .wtaddr n glb c
     let fp := s.fireOf p tag took
     let f := s.fireOf w tag took
     let fr := s.accFiring w f none (sendAll w tag.asData (.pay (.word 0)))
     (s.Ended p tag level took → s.Fires p (s.looseEnd p tag level took)) ∧
     (s.Matched p tag took →
       (s.guardTrue p fp = false → s.Fires p (s.noOpFiring p fp none none)) ∧
       (s.guardTrue p fp = true →
         s.Issues p (s.accFiring p fp none []) (s.newAcc p fp [(0, effOffset m 64 (fp.word .L))] (.word 0)))) ∧
     (s.Ended w tag level took → s.Fires w (s.looseEnd w tag level took)) ∧
     (s.Matched w tag took →
       (s.guardTrue w f = false → s.Fires w (s.noOpFiring w f none (some (.word 0)))) ∧
       (s.guardTrue w f = true → s.addrBad w (f.word .L).toNat = none →
         s.Issues w fr (s.newAcc w f [(0, (f.word .L).toNat)] (.word (f.word .R)))) ∧
       (∀ cls off, s.guardTrue w f = true → s.addrBad w (f.word .L).toNat = some (cls, off) → s.Free w fr →
         exec w s = .next (s.trapSelected cls tag (addrDetail 0 (if glb then .glb else .scr)) off))))

/-- R185, R196, R197, R207, R243, R244: a fence with a release, tlinc, chk and halt fire into the billet's releases with their scope; a fence
that only acquires completes with its invalidations. Under a false guard a fence passes its token on, tlinc sends its timeline's value, chk
sends 2 and halt nothing. R204, R208: waitq and tlwait occupy a wait slot with the token they will deliver. An END at a fence, tlinc, chk,
waitq or tlwait is forwarded and one at halt consumed. What a release waits for is log entry 23's reading. -/
def Obligations.ReleasesAndWaitsIssue : Prop :=
  (∀ (s : State) (m : MNode) (n : GNode) (o : Order) (c : ChkFlag) (tag : Tag) (took : List Entry) (level : Nat),
     let fence : Instr := .fence m o
     let inc : Instr := .tlinc n
     let chk : Instr := .chk n c
     let halt : Instr := .halt n
     let f := s.fireOf fence tag took
     let p : Payload := if m.w = .vec then .vec (f.lanes 16 .L) else .word (f.word .L)
     let acq : Firing :=
       { Firing.of took (sendAll fence tag.asData (.pay p)) with
         use := fun t => ((t.useAll took).usePlace s.sel.blk m tag).addPlace s.sel.blk s.sel.slot m tag, loose := true }
     (∀ i ∈ [fence, inc, chk, .waitq n, .tlwait n], s.Ended i tag level took → s.Fires i (s.looseEnd i tag level took)) ∧
     (s.Ended halt tag level took → s.Fires halt (s.endFiring tag took [])) ∧
     (s.Matched fence tag took →
       ((s.tile s.selTile).chainOpen s.sel.blk m tag = false → exec fence s = .next (s.setStall 8)) ∧
       ((s.tile s.selTile).chainOpen s.sel.blk m tag = true →
         (s.guardTrue fence f = false → s.Fires fence (s.noOpFiring fence f (some m) (some p))) ∧
         (s.guardTrue fence f = true → o ≠ .acq → s.Fires fence (s.relFiring fence f (some m) m.xm.scope p)) ∧
         (s.guardTrue fence f = true → o = .acq → s.Free fence acq →
           exec fence s = .next ((s.commit fence acq).acquireCaches s.sel.b m.xm.scope)))) ∧
     (s.Matched inc tag took →
       (s.guardTrue inc (s.fireOf inc tag took) = true → s.Fires inc (s.relFiring inc (s.fireOf inc tag took) none n.scope (.word 0))) ∧
       (s.guardTrue inc (s.fireOf inc tag took) = false → s.Fires inc (s.noOpFiring inc (s.fireOf inc tag took) none
         (some (.word (half ((s.billet s.sel.b).timeline s.sel.t (n.imm % 8)) false)))))) ∧
     (s.Matched chk tag took →
       (s.guardTrue chk (s.fireOf chk tag took) = true →
         s.Fires chk (s.relFiring chk (s.fireOf chk tag took) none .system (.word ((s.fireOf chk tag took).word .L)))) ∧
       (s.guardTrue chk (s.fireOf chk tag took) = false → s.Fires chk (.of took (sendAll chk tag.asData (.pay (.word 2)))))) ∧
     (s.Matched halt tag took →
       (s.guardTrue halt (s.fireOf halt tag took) = true → s.Fires halt (s.relFiring halt (s.fireOf halt tag took) none .system (.word 0))) ∧
       (s.guardTrue halt (s.fireOf halt tag took) = false → s.Fires halt (.of took [])))) ∧
  (∀ (s : State) (n : GNode) (tag : Tag) (took : List Entry) (i : Instr) (w : Shape) (kind : Fire → Kind),
     (i, w, kind) = (.waitq n, n.w, fun _ => Kind.data) ∨ (i, w, kind) = (.tlwait n, .word, fun f => f.kindOf .L) →
     let f := s.fireOf i tag took
     let x := s.billet s.sel.b
     let slot : WaitSlot := { id := x.nextId, blk := s.sel.blk, slot := s.sel.slot, instr := i,
                              tok := ⟨{ tag with kind := kind f }, f.pay w .L⟩, issue := f.now }
     s.Matched i tag took → s.Fires i
       { use := fun t => let t := t.useAll took; { t with slots := t.slots ++ [slot] }
         outs := sendAll i tag.asData (.pay (f.pay w .L)), loose := true, hold := some x.nextId
         busy := decide ((x.tile s.sel.t).slots.length ≥ Config.waitSlots)
         bill := fun y => { y with nextId := x.nextId + 1 } })

/-- R185, R210, R211, R213: cpy and cpyr take the next copy number of their context, send its low half and queue the copy; a bad descriptor,
or a cpyr whose ring the page does not declare or whose sizes are not whole, is BOUNDS; a false guard sends the last number; an END is
forwarded. Copies are read as log entry 62 says; ADDR 0 and DETAIL 0 of the BOUNDS record are the model's choice (log entry 71). -/
def Obligations.CopiesIssue : Prop := ∀ (s : State) (n : GNode) (tag : Tag) (took : List Entry) (level : Nat) (i : Instr) (ring : Bool),
  (i, ring) = (.cpy n, false) ∨ (i, ring) = (.cpyr n, true) →
  let f := s.fireOf i tag took
  let x := s.billet s.sel.b
  let d := f.lanes 16 .L
  let c : CopyCtx := nthD {} x.ctxs (descCtx d)
  let k := c.last + 1
  let rg := if ring then x.ringOfDesc d else none
  let cp : Copy := { num := k, tile := s.sel.t, blk := s.sel.blk, slot := s.sel.slot, tag := tag, desc := d, ring := rg }
  let fr : Firing :=
    { Firing.of took (sendAll i tag.asData (.pay (.word (half k false)))) with
      loose := true, busy := decide (x.copies s.sel.t ≥ 32)
      bill := fun y => { y with ctxs := modNth (fun c => { c with last := k, queue := c.queue ++ [cp] }) (descCtx d) y.ctxs } }
  let bad := descBad d ring = true ∨ ring = true ∧ rg = none
  (s.Ended i tag level took → s.Fires i (s.looseEnd i tag level took)) ∧
  (s.Matched i tag took →
    (s.guardTrue i f = false → s.Fires i (s.noOpFiring i f none (some (.word (half c.last false))))) ∧
    (s.guardTrue i f = true → ¬ bad → s.Fires i fr) ∧
    (s.guardTrue i f = true → bad → s.Free i fr → exec i s = .next (s.trapSelected clsBounds tag 0 0)))

/-- R215, R216: qput puts its token, KIND unchanged and an END like any other, into the memory port while its node has a credit, and holds FULL
without one; a false guard drops its token. qget sends the token of its caravan's head slot and frees the slot, and stalls on an empty
caravan; a vector in the slot of a word node is STREAM_MISMATCH. -/
def Obligations.CaravanNodesFire : Prop := ∀ (s : State) (n : GNode) (tag : Tag) (took : List Entry) (level : Nat) (l : Launch) (page : Nat)
    (c : Caravan) (k : CarTok) (tok : Token),
  let put : Instr := .qput n
  let get : Instr := .qget n
  let f : Fire := { s.fireOf put tag took with tag := { tag with kind := (s.fireOf put tag took).kindOf .L } }
  let fe : Fire := s.fireOf put { tag with kind := .fin } took
  let fr : Firing := { outs := sendAll get tok.tag (.pay (if tok.isEnd then tok.pay else shaped n.w tok.pay)), loose := true }
  (s.Matched put tag took → s.guardTrue put (s.fireOf put tag took) = false → s.Fires put (s.noOpFiring put (s.fireOf put tag took) none none)) ∧
  (s.owner s.sel.b = some (l, page) → s.caravan? s.sel.b (n.imm % 256) = some c →
    ((s.billet s.sel.b).creditsTaken page s.sel.t s.sel.pos c < c.slots →
      (s.Matched put tag took → s.guardTrue put (s.fireOf put tag took) = true →
        s.Issues put (s.accFiring put f none []) (s.newAcc put f [] ((s.fireOf put tag took).pay n.w .L))) ∧
      (s.Ended put tag level took →
        s.Issues put (s.accFiring put fe none []) (s.newAcc put fe [] (.word (BitVec.ofNat 32 level))))) ∧
    ((s.billet s.sel.b).creditsTaken page s.sel.t s.sel.pos c ≥ c.slots → s.Matched put tag took →
      s.guardTrue put (s.fireOf put tag took) = true → exec put s = .next (s.setStall 5))) ∧
  (s.Opened → s.caravan? s.sel.b (n.imm % 256) = some c → c.toks.head? = some k → tokenOfSlot k.slot = some tok →
    ((n.w = .word → tok.pay.isVec = false) → s.Free get fr →
      exec get s = .next ((s.commit get fr).modCaravan s.sel.b (n.imm % 256) fun c => { c with toks := c.toks.drop 1 })) ∧
    (n.w = .word → tok.pay.isVec = true → s.Traps get clsStreamMismatch tok.tag 0 0)) ∧
  (s.Opened → s.caravan? s.sel.b (n.imm % 256) = some c → c.toks = [] → exec get s = .next (s.setStall 0))

/-! ### Matrix nodes (R224 to R237) -/

/-- R231 to R233: with both rings' heads full and the engine free, mma starts a pair on the current tile of its pointer, which FIRST wants
empty and otherwise open with its ACC, or on the tile of its open accumulation; it holds RING without full heads, ACC without a tile or with
all its pairs started, and FULL while the tile's operations are full. That a busy engine leaves no reason is the model's choice (log entry
24). -/
def Obligations.MmaStarts : Prop := ∀ (s : State) (x : XX) (first last : Bool) (acc : AccTy) (ga gb : Ring),
  let i : Instr := .mma x first last acc
  let t := (s.billet s.sel.b).tile s.sel.t
  let nd := t.node s.sel.pos
  let cur := nd.ptr.getD ((x.accPointer.head?).getD 0)
  s.Opened → (s.billet s.sel.b).ring? x.ra.toNat = some ga → (s.billet s.sel.b).ring? x.rb.toNat = some gb →
  ((ga.headFull = false ∨ gb.headFull = false) → exec i s = .next (s.setStall 12)) ∧
  (ga.headFull = true → gb.headFull = true → nd.accTile = none →
    (t.accFree cur first acc = false → exec i s = .next (s.setStall 13)) ∧
    (t.accFree cur first acc = true → 16 ≤ t.tileOps → exec i s = .next (s.setStall 5)) ∧
    (t.accFree cur first acc = true → t.tileOps < 16 → t.mtxFree ≤ s.now s.sel.b → exec i s = .next (s.startPair x cur ga gb)) ∧
    (t.accFree cur first acc = true → t.tileOps < 16 → s.now s.sel.b < t.mtxFree → exec i s = .next (s.setStall 0))) ∧
  (∀ j, ga.headFull = true → gb.headFull = true → nd.accTile = some j →
    (x.pairs ≤ nd.pairs → exec i s = .next (s.setStall 13)) ∧
    (nd.pairs < x.pairs → t.mtxFree ≤ s.now s.sel.b → exec i s = .next (s.startPair x j ga gb)) ∧
    (nd.pairs < x.pairs → s.now s.sel.b < t.mtxFree → exec i s = .next (s.setStall 0)))

/-- R222, R229: mzero issues into the tile's operations with the mask of the tiles it is to empty; under a false guard it only sends L. R234:
mdrain starts to drain the current full tile to the destination that L names, 255 for none, holds ACC without one, and traps BOUNDS on a
destination that its channel does not have. An END at mzero is forwarded, one at mdrain goes to every destination once no drain is open. That the
record of the BOUNDS names the destination in ADDR is the model's choice (log entry 71). -/
def Obligations.TileNodesFire : Prop := ∀ (s : State) (n : GNode) (tag : Tag) (took : List Entry) (level : Nat),
  let z : Instr := .mzero n
  let d : Instr := .mdrain n
  let t := (s.billet s.sel.b).tile s.sel.t
  let nd := t.node s.sel.pos
  let f := s.fireOf d tag took
  let cur := nd.ptr.getD (((maskBits n).head?).getD 0)
  let v := (f.word .L).toNat % 256
  let dests := (s.billet s.sel.b).steerCount s.sel.t n.t0
  let drain : Drain := { tag := tag, acc := cur, row := 0, dest := if v = 255 then none else some v, next := f.now + 6 }
  let fr : Firing :=
    { use := fun t => t.useAll took, loose := true, busy := decide (t.tileOps ≥ 16)
      outs := if v = 255 then [] else [{ tgt := n.t0, tag := tag, res := .pay (.word 0), row := some v }]
      node := fun x => { x with drain := some drain, ptr := some cur } }
  let zp : Payload := .word ((s.fireOf z tag took).word .L)
  let id := (s.billet s.sel.b).nextId
  let mz : MZero := { id := id, blk := s.sel.blk, slot := s.sel.slot, tag := tag.asData, pay := zp, wait := maskBits n }
  (s.Ended z tag level took → s.Fires z (s.looseEnd z tag level took)) ∧
  (s.Matched z tag took →
    (s.guardTrue z (s.fireOf z tag took) = false → s.Fires z (.of took (sendAll z tag.asData (.pay zp)))) ∧
    (s.guardTrue z (s.fireOf z tag took) = true → s.Fires z
      { use := fun t => let t := t.useAll took; { t with mzeros := t.mzeros ++ [mz] }
        outs := sendAll z tag.asData (.pay zp), loose := true, busy := decide (t.tileOps ≥ 16), hold := some id
        bill := fun y => { y with nextId := id + 1 } })) ∧
  (s.Ended d tag level took → nd.drain = none →
    s.Fires d (s.endFiring tag took ((List.range dests).map fun k => { endOut tag level n.t0 with row := some k }))) ∧
  (s.Matched d tag took →
    (nd.drain.isSome = true ∨ (nthD {} t.acc cur : Accum).st ≠ .full ∨ t.mzeroed cur = true → exec d s = .next (s.setStall 13)) ∧
    (nd.drain = none → (nthD {} t.acc cur : Accum).st = .full → t.mzeroed cur = false →
      (v = 255 ∨ v < dests → s.Free d fr → exec d s = .next (s.commit d { fr with outs := [] })) ∧
      (v ≠ 255 → v ≥ dests → s.Traps d clsBounds tag 0 v)))

/-- R226: rpush sends its 16 words into flight as the next row of the ring's tail tile and claims the ring for its tile, with a result for row
15; it holds RING on a ring it may not fill; an END inside a tile is STREAM_MISMATCH, and is forwarded between tiles. R227: ringst queries,
pops its full head after the reads of the same fc, or resets the ring when nothing claims it, and holds RING otherwise; an END is forwarded. What a
pop does whose tile such a read has popped is the model's choice (log entry 71). -/
def Obligations.RingNodesFire : Prop := ∀ (s : State) (n : GNode) (op : RingOp) (tag : Tag) (level : Nat) (took : List Entry) (g : Ring),
  let p : Instr := .rpush n
  let q : Instr := .ringst n op
  let r := n.imm % 16
  let x := s.billet s.sel.b
  let row := (s.node s.sel).rpushRow
  let fr : Firing :=
    { use := fun t => let t := t.useAll took; { t with flying := t.flying ++ [s.rowWrite p (s.fireOf p tag took) g row] }
      outs := if row = 15 then sendAll p tag.asData (.pay (.word 0)) else []
      loose := true, hold := some x.nextId
      node := fun y => { y with rpushRow := row + 1 }
      bill := fun y => { y with nextId := x.nextId + 1, rings := Tbl.put r { g with claim := some (s.sel.t, s.sel.pos) } y.rings } }
  let s1 := s.readsOn s.sel.b r (List.range 8)
  let g1 := ((s1.billet s.sel.b).ring? r).getD g
  let g2 := if op = .pop then g1.popAfterReads else g1.cleared
  let fq (w : Word) : Firing := { use := fun t => t.useAll took, outs := sendAll q tag.asData (.pay (.word w)) }
  x.ring? r = some g →
  (s.Matched p tag took →
    (row < 16 → g.mayFill (s.sel.t, s.sel.pos) = true → s.Fires p fr) ∧
    (16 ≤ row ∨ g.mayFill (s.sel.t, s.sel.pos) = false → exec p s = .next (s.setStall 12))) ∧
  (s.Ended p tag level took →
    (row = 0 → s.Fires p (s.endFiring tag took ((tgts p).map (endOut tag level)))) ∧
    (0 < row → row < 16 → s.Traps p clsStreamMismatch tag 0 0)) ∧
  (s.Matched q tag took → (op = .query ∨ s.guardTrue q (s.fireOf q tag took) = false) → s.Fires q (fq g.stateWord)) ∧
  (s.Matched q tag took → op ≠ .query → s.guardTrue q (s.fireOf q tag took) = true →
    ((op = .pop → g.headFull = true) → (op ≠ .pop → g.claim = none) → s.Free q (fq g2.stateWord) →
      exec q s = .next (s1.commit q { fq g2.stateWord with bill := fun y => { y with rings := Tbl.put r g2 y.rings } })) ∧
    ((op = .pop ∧ g.headFull = false ∨ op ≠ .pop ∧ g.claim ≠ none) → exec q s = .next (s.setStall 12))) ∧
  (s.Ended q tag level took → s.Fires q (s.endFiring tag took ((tgts q).map (endOut tag level))))

/-- R222, R236, R237: spacc sends its update to the M-tile's sparse accumulation unit and waits for it, and under a false guard sends 0;
spflush starts a flush, one at a time. An END is forwarded, at spflush once no flush is open. That a flush reserves no result fc is the
model's reading (log entry 24). -/
def Obligations.SparseNodesFire : Prop := ∀ (s : State) (n : GNode) (rm : Round) (tag : Tag) (took : List Entry) (level : Nat),
  let i : Instr := .spacc n
  let k : Instr := .spflush n rm
  let f := s.fireOf i tag took
  let x := s.billet s.sel.b
  let m := n.xmod % 8
  let op : SparseOp := { tile := s.selTile, acc := x.nextId, instr := i, loc := .scr (scrKey s.sel.b m 0),
                         data := .vec [f.word .L, f.word .R], pos := s.sel.pos, coord := some (m, (f.word .L).toNat / 65536) }
  let a := { s.newAcc i f [] (.word 0) with atUnit := true }
  let fr : Firing :=
    { use := fun t => let t := t.useAll took; { t with flying := t.flying ++ [a] }
      outs := sendAll i tag.asData (.pay (.word 0)), loose := true, hold := some x.nextId
      busy := x.counterFull s.sel.t i || decide ((s.sparse.filter fun o => o.unit = op.unit).length ≥ Config.sparseOps)
      bill := fun y => { y with nextId := x.nextId + 1 } }
  (s.Ended i tag level took → s.Fires i (s.looseEnd i tag level took)) ∧
  (s.Matched i tag took →
    (s.guardTrue i f = false → s.Fires i (.of took (sendAll i tag.asData (.pay (.word 0))))) ∧
    (s.guardTrue i f = true → s.Free i fr → exec i s = .next { s.commit i fr with sparse := (s.commit i fr).sparse ++ [op] })) ∧
  (s.Matched k tag took →
    ((s.node s.sel).flush = none →
      s.Fires k { use := fun t => t.useAll took, loose := true, busy := decide ((s.tile s.selTile).tileOps ≥ 16),
                  node := fun x => { x with flush := some { tag := tag, issue := s.now s.sel.b, next := s.now s.sel.b + 6 } } }) ∧
    ((s.node s.sel).flush ≠ none → exec k s = .next (s.setStall 5))) ∧
  (s.Ended k tag level took → (s.node s.sel).flush = none → s.Fires k (s.endFiring tag took ((tgts k).map (endOut tag level))))

/-! ### System nodes and traps (R222, R238 to R245, R415) -/

/-- R222, R238: raise sends L as a CTRL token to its target, or without a target to the control FIFO for its entry; a false guard sends nothing,
and an END is consumed. R239: hset and hclr send L and change their entry as the result leaves. R245: csr accesses its register at S6. A false
guard changes nothing. An END at hset, hclr or csr is forwarded. What a csr does under a false guard is the model's reading (log entry 55). -/
def Obligations.SystemNodesFire : Prop := ∀ (s : State) (n : GNode) (en pend : Bool) (op : CsrOp) (tag : Tag) (took : List Entry)
    (level : Nat) (i : Instr) (set : Bool),
  let r : Instr := .raise n
  let c : Instr := .csr n op
  let ctag : Tag := { tag with kind := .ctrl }
  let w := (s.fireOf r tag took).word .L
  (s.Matched r tag took →
    (s.guardTrue r (s.fireOf r tag took) = false → s.Fires r (.of took [])) ∧
    (s.guardTrue r (s.fireOf r tag took) = true → n.t0 = .none →
      s.Fires r { Firing.of took [] with fx := .raise (n.imm % 32) ⟨ctag, .word w⟩,
                                         busy := decide ((s.billet s.sel.b).ctrlUse ≥ Config.controlFifo) }) ∧
    (s.guardTrue r (s.fireOf r tag took) = true → n.t0 ≠ .none → s.Fires r (.of took (sendAll r ctag (.pay (.word w)))))) ∧
  (s.Ended r tag level took → s.Fires r (s.endFiring tag took [])) ∧
  (((i, set) = (.hset n en pend, true) ∨ (i, set) = (.hclr n en pend, false)) →
    (s.Matched i tag took →
      s.Fires i { Firing.of took (sendAll i tag.asData (.pay (.word ((s.fireOf i tag took).word .L)))) with
                  fx := if s.guardTrue i (s.fireOf i tag took) then .handler (n.imm % 32) set en pend tag else .nothing }) ∧
    (s.Ended i tag level took → s.Fires i (s.endFiring tag took ((tgts i).map (endOut tag level))))) ∧
  (s.Matched c tag took →
    s.Fires c { Firing.of took (sendAll c tag.asData (.pay (.word 0))) with
                fx := .csr (n.imm % 4096) op ((s.fireOf c tag took).word .L) (s.guardTrue c (s.fireOf c tag took)) }) ∧
  (s.Ended c tag level took → s.Fires c (s.endFiring tag took ((tgts c).map (endOut tag level))))

/-- R241, R242: brk sends its L token on to T0 and T1, KIND unchanged; with no debugger attached it counts in CT_BRKCNT, which saturates,
and with one attached its launch takes a debug stop, at the end of the fc, that reports IMM. An END is forwarded without a stop. When in
the fc a raised stop takes effect is log entry 17's reading, on which this statement does not rest. -/
def Obligations.BrkFires : Prop := ∀ (s : State) (n : GNode) (tag : Tag) (took : List Entry) (level : Nat) (p : Resident),
  let i : Instr := .brk n
  let fr : Firing := .of took (s.passAll i n tag took)
  (s.Matched i tag took → (s.billet s.sel.b).page = some p → s.Free i fr →
    (s.attached p.cid = false → exec i s = .next ((s.commit i fr).modTile s.selTile fun t =>
      { t with brkCnt := if t.brkCnt = 0xFFFF then t.brkCnt else t.brkCnt + 1 })) ∧
    (s.attached p.cid = true →
      exec i s = .next { s.commit i fr with due := (s.commit i fr).due ++ [.stop p.launch s.sel.b (.brk n.imm)] })) ∧
  (s.Ended i tag level took → s.Fires i (s.endFiring tag took ((tgts i).map (endOut tag level))))

/-- R240: a trap node with a true guard raises class TRAP with IMM as its address, and one with a false guard consumes its tokens; an END is
consumed. R415: a trap makes its record with the place and the tag of the firing, and is due at the end of the fc. -/
def Obligations.TrapNodeTraps : Prop :=
  (∀ (s : State) (n : GNode) (tag : Tag) (took : List Entry) (level : Nat),
     let i : Instr := .trap n
     (s.Matched i tag took →
       (s.guardTrue i (s.fireOf i tag took) = true → s.Traps i clsTrap tag 0 n.imm) ∧
       (s.guardTrue i (s.fireOf i tag took) = false → s.Fires i (.of took []))) ∧
     (s.Ended i tag level took → s.Fires i (s.endFiring tag took []))) ∧
  (∀ (s : State) (n : NodeAddr) (cls detail addr : Nat) (tag : Tag) (p : Resident),
     (s.billet n.b).page = some p →
     s.trap n cls tag detail addr =
       { s with
         records := s.records ++ [{ cls := cls, cid := p.cid, baddr := n.b, tile := n.t, slot := n.pos, page := p.page, tag := some tag,
                                    detail := detail, addr := addr, rslot := p.launch.slot, queue := p.launch.queue }]
         due := s.due ++ [.trap p.launch n.b] })

/-- R380, R392, R413, R415: at the end of the fc the records of that fc are written, and the trap of a running launch freezes its domain, marks the
launch FAULT with cause 1, and starts checkout, or under a debugger stops the launch. The order of the events of one fc is log entry 17's reading. -/
def Obligations.TrapTaken : Prop := ∀ (s : State) (side b : Nat) (r : RecId) (l : Launch) (acts : List Act),
  let s1 := { ({ s with agenda := acts } : State).putRecords with due := [] }
  let s2 := (s1.freezeEnd side (s1.freezeDomain l (some b)) .trap).modLaunch r fun l => { l with faulted := true, cause := 1 }
  s.agenda = .settle side :: acts → s.due = [.trap r b] → s1.launch? r = some l → l.id = r → l.st = .running →
  (s2.attached l.cid = false → step s = .next (s2.checkoutSequence r 1)) ∧
  (s2.attached l.cid = true → step s = .next (s2.modLaunch r fun l => { l with st := .stopped, stopLoading := false }))

/-! ### Firing in general (R32, R35 to R37, R41, R120) -/

/-- R35, R36, R120: a firing occupies its tile's issue stream for the node's initiation interval, and its results are due after the node's
latency; the memories and every billet but its own stay as they are. -/
def Obligations.CommitEffect : Prop := ∀ (s : State) (i : Instr) (f : Firing),
  let now := s.now s.sel.b
  let t := s.commit i f
  (∀ b, b ≠ s.sel.b → t.billet b = s.billet b) ∧
  t = { s with billets := t.billets } ∧
  (s.sel.t < (s.billet s.sel.b).tiles.length →
    (∀ y, (f.bill y).tiles = y.tiles) → (f.loose = false ∨ f.outs ≠ []) → (∀ y, (f.use y).flights = y.flights) →
    (t.tile s.selTile).issueFree = now + i.timing.2 ∧ (t.tile s.selTile).issued = true ∧
    (t.tile s.selTile).flights = (s.tile s.selTile).flights ++
      [{ blk := s.sel.blk, slot := s.sel.slot, due := now + i.timing.1, outs := f.outs, flags := f.flags, fx := f.fx, hold := f.hold,
         loose := f.loose, issue := now }] ∧
    (t.billet s.sel.b).lastUse = now)

/-- The frame of every node (R111, R183, R224, R238): whatever its tokens and its guard, an issue changes no memory, no context, queue,
function, link, clock, session or power state, and no billet but its own; a cache of the side changes by an acquiring fence alone, a launch
and the device fault log by qget alone, and the sparse units' queues by spacc alone. -/
def Obligations.NodeFrame : Prop := ∀ (s t : State) (i : Instr), i.isNode = true → exec i s = .next t →
  t = { s with billets := t.billets, sides := t.sides, launches := t.launches, sparse := t.sparse, records := t.records, due := t.due
               faultLog := t.faultLog, faultLogNext := t.faultLogNext } ∧
  (∀ b, b ≠ s.sel.b → t.billet b = s.billet b) ∧
  ((∀ m o, i ≠ .fence m o) → t.sides = s.sides) ∧
  ((∀ n, i ≠ .qget n) → t.launches = s.launches ∧ t.faultLog = s.faultLog ∧ t.faultLogNext = s.faultLogNext) ∧
  ((∀ n, i ≠ .spacc n) → t.sparse = s.sparse)

/-- R32, R37, R114: a node of rows 0x0 to 0x4 whose tokens do not match holds its reason and changes nothing else; END meets END and is
forwarded to the targets (tagset changes its tag); END against DATA is STREAM_MISMATCH. -/
def Obligations.ComputeOtherwise : Prop := ∀ (s : State) (i : Instr) (op : BitVec 7) (m : BitVec 4) (n : GNode) (tag : Tag) (level r : Nat)
    (took : List Entry),
  i.gParts = some (op, m, n) → op.toNat / 16 ≤ 4 → s.Opened →
  (s.chosen i = .stall r → exec i s = .next (s.setStall r)) ∧
  (s.chosen i = .mismatch tag → s.Traps i clsStreamMismatch tag 0 0) ∧
  (op.toNat ≠ 0x1D → s.Ended i tag level took → s.Fires i (s.endFiring tag took ((tgts i).map (endOut tag level))))

/-! ### Results, channels and flits (R36, R118, R171, R267, R268, R350 to R358, R423) -/

/-- R118, R34, R171, R267: a result that is due leaves for its targets and sets its flags; a channel's head enters its port when that takes
it, unless a debugger's comparator matches it, which withholds it and stops the launch at the end of the fc; the return token at the head of
a tile's return queue goes to its target once that takes it; an off signal that is due sets the sender's view. -/
def Obligations.ResultsDeliver : Prop := ∀ (s : State) (a : TileAddr) (f : Flight) (fs : List Flight) (ch k : Nat) (c : InChan) (tok : Token)
    (rest : List Token) (p : Resident) (q : RetTok) (qs : List RetTok) (g : Signal) (gs : List Signal) (z : Break) (zs : List Break),
  let porter := match (s.tile a).instrAt c.dblk c.dslot with
    | some (.porter _) => c.dport == .R
    | _ => false
  (s.active a.b = true → s.nextFlight a [] (s.tile a).flights = some (f, fs) → f.fx = .nothing →
    exec (.pipelineResultOffer a) s = .next ((s.modTile a fun t =>
      { t with flights := fs, fflags := t.fflags ||| f.flags, flagsNow := t.flagsNow ||| f.flags }).offerOuts a f.blk f.due f.outs)) ∧
  (s.active a.b = true → Tbl.get ch (s.tile a).inCh = some c → c.queue = tok :: rest → (s.billet a.b).page = some p →
    (s.attached p.cid = false ∨ (s.billet a.b).matchBreaks a.t ch tok c.passed = [] → c.delivered = false → porter = false →
      (s.tile a).takes (s.now a.b) c.dblk c.dslot c.dport tok.tag = true →
      exec (.channelDelivery a ch) s = .next ((s.modTile a fun t =>
        { t with inCh := Tbl.put ch { c with queue := rest, delivered := true, passed := [] } t.inCh }).acceptPort
          ⟨a.b, a.t, c.dblk, c.dslot⟩ c.dport tok c.enc)) ∧
    (s.attached p.cid = true → (s.billet a.b).matchBreaks a.t ch tok c.passed = z :: zs →
      exec (.channelDelivery a ch) s = .next (s.breakHit a.b z))) ∧
  (s.active a.b = true → (s.tile a).rets = q :: qs → q.due ≤ s.now a.b → s.retTakes a q = true →
    exec (.returnQueueDeliver a) s = .next ((s.modTile a fun t => { t with rets := qs }).offerOut a (q.pos / 64) (s.now a.b)
      { tgt := q.tgt, tag := q.tok.tag, res := .pay ((s.tile a).retPay q.tgt q.tok.pay) })) ∧
  (takeNth k s.signals = some (g, gs) → g.due ≤ (s.side (s.signalSide g.hearer)).fc →
    exec (.offSignalViewUpdate k) s = .next ({ s with signals := gs }.setView g.hearer g.val))

/-- R171, R238, R239: the late effect of a result that leaves S6: hset and hclr change their entry, raise sends its CTRL token, and a return
joins the return queue of its target's tile, with its colour freed at the end of the fc and one return less outstanding at its spawn. R59,
R245: a csr accesses its register at the end of the fc in which it is at S6: it returns the old value, and writes the register when the guard
is true and the form is not .rd: a stall counter register takes the computed value as its two counters, a scale register takes it, a seed register
takes it as a half of its seed, a flag of CT_FFLAGS written as 1 clears unless it is set in the same fc, .set leaves the flags, and read-only
registers ignore every form. The false guard is read as log entry 55 says. -/
def Obligations.EffectsApply : Prop := ∀ (s : State) (a : TileAddr) (f : Flight) (fs : List Flight) (idx eff e tl pos : Nat) (op : CsrOp)
    (v : Word) (guard set en pend : Bool) (tag : Tag) (tok : Token) (tgt : Target) (col : Option Nat) (k : Colour),
  let u := s.modTile a fun t => { t with flights := fs, fflags := t.fflags ||| f.flags, flagsNow := t.flagsNow ||| f.flags }
  let old := s.csrRead a idx
  let w := (s.csrShadow a idx).tile a
  let u1 := u.modTile ⟨a.b, tl⟩ fun t =>
    { t with rets := insertBy RetTok.due ⟨pos, tgt, tok, if tl = a.t then u.now a.b else u.now a.b + 2⟩ t.rets }
  (s.active a.b = true → s.nextFlight a [] (s.tile a).flights = some (f, fs) →
    (f.fx = .handler e set en pend tag → exec (.pipelineResultOffer a) s = .next ((u.modBillet a.b fun x =>
      { x with handlers := modNth (Handler.change set en pend tag) e x.handlers }).offerOuts a f.blk f.due f.outs)) ∧
    (f.fx = .raise e tok → exec (.pipelineResultOffer a) s = .next ((u.ctrlArrive a.b e tok).offerOuts a f.blk f.due f.outs)) ∧
    (f.fx = .ret tl pos tgt tok col →
      (col = none → exec (.pipelineResultOffer a) s = .next (u1.offerOuts a f.blk f.due f.outs)) ∧
      ((col.bind fun c => (u1.billet a.b).held c) = some k → exec (.pipelineResultOffer a) s = .next
        (((u1.modBillet a.b fun x => { x with colours := x.colours.map fun y => if y.n = k.n then { y with freed := true } else y }).modTile
          ⟨a.b, k.tile⟩ fun t => t.modNode k.pos fun n => { n with spawnOut := n.spawnOut - 1 }).offerOuts a f.blk f.due f.outs)))) ∧
  (f.fx = .csr idx op v guard → f.due ≤ s.now a.b + 1 →
    s.csrFlight a f = (s.csrApply a idx op v guard (s.now a.b)).modTile a fun t => { t with flights := t.flights.map fun g =>
      if g = f then { f with fx := .nothing, outs := f.outs.map fun o => { o with res := .pay (.word old) } } else g }) ∧
  (guard = true → op ≠ .rd → s.csrApply a idx op v guard eff =
    (s.csrShadow a idx).modTile a fun t => { t.csrWrite idx op old v with hist := t.hist ++ [(idx, old, eff)] }) ∧
  (guard = false ∨ op = .rd → s.csrApply a idx op v guard eff = s.csrShadow a idx) ∧
  (0x040 ≤ idx → idx < 0x047 → w.csrWrite idx op old v = { w with
    stallCnt := setNth (2 * (idx - 0x040) + 1) ((csrNew op old v).extractLsb' 16 16)
      (setNth (2 * (idx - 0x040)) ((csrNew op old v).extractLsb' 0 16) w.stallCnt) }) ∧
  (w.csrWrite 0x047 op old v = { w with stallCnt := setNth 14 ((csrNew op old v).extractLsb' 0 16) w.stallCnt }) ∧
  (∀ j < 4, w.csrWrite (0x0C0 + 2 * j) op old v = { w with seed := setNth j ((nthD 0 w.seed j : BitVec 64).extractLsb' 32 32 ++ csrNew op old v) w.seed } ∧
    w.csrWrite (0x0C1 + 2 * j) op old v = { w with seed := setNth j (csrNew op old v ++ (nthD 0 w.seed j : BitVec 64).extractLsb' 0 32) w.seed }) ∧
  (0x050 ≤ idx → idx < 0x070 → w.csrWrite idx op old v = w) ∧ (0x0D0 ≤ idx → idx ≠ 0x0D9 → w.csrWrite idx op old v = w) ∧
  (0x070 ≤ idx → idx < 0x080 →
    w.csrWrite idx op old v = { w with sc := setNth (idx - 0x070) (Scale.ofWord (csrNew op old v)) w.sc }) ∧
  (w.csrWrite 0x080 .set old v = w) ∧
  (op = .wr ∨ op = .clr → w.csrWrite 0x080 op old v = { w with fflags := w.fflags &&& ~~~(v.extractLsb' 0 7 &&& ~~~w.flagsNow) }) ∧
  (w.csrWrite 0x0D9 op old v = { w with brkCnt := (csrNew op old v).extractLsb' 0 16 })

/-- R268: an output channel without a FIFO M-tile sends the head of its pool along its route, by its PACE and while its view is clear;
over a LOCAL route the flit carries the billet's GEN and arrives after the route's time. R350, R352, R357, R358: a flit that has arrived
enters its channel, by SEQ where its edge counts, a CTRL flit its billet's arrivals; one whose GEN is no longer its destination's goes to the
Front Desk, or is dropped where it belongs to no edge; the Front Desk sends it into a DIRECT edge anew; the guard at each egress on the way
lets a flit pass by R357, and else drops and counts it. R351, R354: the store of an edge gives its first token to the consumer in SEQ order;
once it is empty and nothing is on its way, the edge goes DIRECT when both ends lie on one side. When an edge changes state is the model's
reading (log entry 58), as are the guards of a path that are asked before the flit is at its destination (log entry 51). -/
def Obligations.FlitsTravel : Prop :=
  (∀ (s : State) (a : TileAddr) (ch d : Nat) (c : OutChan) (p : Resident) (k : PoolTok)
       (rest : List PoolTok) (r : Route),
     let x := s.billet a.b
     let s1 := (s.modTile a fun t => { t with
       injected := t.injected + 1
       rrInject := ch
       outCh := Tbl.put ch (c.sent (s.now a.b) d (x.floatFor (nthD {} x.routes c.route)).isSome (r.kind == .handler && r.detour.isNone)) t.outCh })
     s.active a.b = true → Tbl.get ch (s.tile a).outCh = some c → x.page = some p → x.fifoOf a.t ch = none → (s.tile a).injected < 2 →
     c.nextFc ≤ s.now a.b → (s.tile a).poolHead ch = some (k, rest) → x.pick c k.row = some (d, r) →
     exec (.outputInject a ch) s = .next ((s1.sendRoute a ch p r k.tok).modTile a fun t => { t with pool := rest }) ∧
     (r.kind = .loc → r.detour = none → s1.sendRoute a ch p r k.tok =
       { s1 with flits := s1.flits ++ [{ src := a, ch := ch, dest := .chan a.b r.tile r.ch, gen := (s1.billet a.b).gen, cid := p.cid,
                                         launch := p.launch, tok := k.tok, due := s1.now a.b + s1.routeTime a.b r (some a.t) }] })) ∧
  (∀ (s : State) (k : Nat) (f : Flit) (b tile ch e nb d side : Nat) (fs : List Flit) (l : Launch) (g : Edge),
     (s.flits[k]? = some f → s.flitHeld f = false → f.due ≤ s.flitNow f →
       (s.flitLate f = true → f.edge.isSome = true → exec (.flitIngress k) s = .next { s.dropFlit k with late := s.late ++ [f] }) ∧
       (s.flitLate f = true → f.edge = none → exec (.flitIngress k) s = .next (s.dropFlit k)) ∧
       (s.flitLate f = false → f.dest = .handler b e →
         exec (.flitIngress k) s = .next ((s.dropFlit k).arriveCtrl b e f.tok (some (f.src, f.ch)))) ∧
       (s.flitLate f = false → f.dest = .chan b tile ch → (f.src.b = b ∨ f.checked = true) → s.seqWanted f b tile ch = none → f.entry = none →
         exec (.flitIngress k) s = .next ((s.dropFlit k).enqueue b tile ch f.tok)) ∧
       (s.flitLate f = false → f.dest = .chan b tile ch → (f.src.b = b ∨ f.checked = true) → s.seqWanted f b tile ch = some f.seq →
         exec (.flitIngress k) s = .next ((s.dropFlit k).takeFlit f b tile ch true))) ∧
     (s.flits[k]? = some f → f.dest.billet = some d → f.checked = false → s.flitHeld f = false → d ≠ f.src.b → s.flitLate f = false →
       (s.guardPass f nb d = true → nb = d →
         exec (.boundaryGuard k nb) s = .next { s with flits := modNth (fun (g : Flit) => { g with checked := true }) k s.flits }) ∧
       (s.guardPass f nb d = true → nb ≠ d → exec (.boundaryGuard k nb) s = .next s) ∧
       (s.guardPass f nb d = false → exec (.boundaryGuard k nb) s = .next (s.guardDropped k f nb))) ∧
     (takeFirst (fun (f : Flit) => s.lateSide f == side) s.late = some (f, fs) → s.launch? f.launch = some l → f.edge = some g.id →
       l.edge? g.id = some g → g.st = .direct → g.view = false → (s.billet g.dest).isFrozen = false → g.nextFc ≤ (s.side side).fc →
       exec (.frontDeskRedeliver side) s = .next ({ s with late := fs }.sendIn (deskOf side) (s.oneWay (deskOf side) g.dest none (g.endTile f.entry)) l g f.seq
         { tok := f.tok, entry := f.entry }))) ∧
  (∀ (s : State) (r : RecId) (l : Launch) (id c p : Nat) (e : Edge) (k : EdgeTok) (rest : List EdgeTok),
     s.launch? r = some l → l.edge? id = some e → e.st ≠ .direct → l.placeOf e.cons = some c → s.drainOpen c = true →
     (e.toks = k :: rest → e.first = e.out → e.view = false → e.nextFc ≤ (s.side (l.storeSide e)).fc →
       exec (.waystationDrain r id) s = .next (s.drainTok l { e with dest := c } k rest)) ∧
     (e.toks = [] → e.early = [] → e.out = e.nextIn → e.nextIn = e.seq → s.storeFlits r id = false → l.placeOf e.prod = some p →
       sideOf p = sideOf c → e.reserved = false →
       exec (.waystationDrain r id) s = .next (((((s.modEdge l.id e.id fun x =>
         { x with st := .direct, dest := c, gen := (s.billet c).gen, off := true, reserved := false }).assertProducer l e).modBillet p fun x =>
           { x with steward := true }).modBillet c fun x => { x with steward := true }))))

/-! ### Memory (R189 to R205, R291 to R303) -/

/-- R188 to R190, R199, R201, R370: the head of a memory port with a place in a local store, or in global space where its address
translates, leaves the port for it, an amo or red for the unit of its place, at the port while that is full; a store whose leaf has W = 0
traps PERMISSION; a prf brings its line in, and a lane of an ldx or stx whose offset is bad traps once the lanes below it have performed; an
access whose page is missing is held there with one XLATE record of its granule; a wake token releases one retry, and one that the driver
aborted traps PERMISSION. R187, R191, R205: an access that may perform reads or writes its place and, with its last lane, leaves the list of
accesses in flight and sends its result: a load the bytes that stand there, a word zero-extended, wtaddr its word when the condition holds,
else it waits in a watch unit; one that is too early or stands behind an earlier access of its node changes nothing. The six fc from issue
to result are the model's reading of R187 (log entry 22). -/
def Obligations.AccessesPerform : Prop :=
  (∀ (s : State) (a : TileAddr) (acc : Acc) (rest : List Acc) (p : Resident) (n : MNode) (o : Order)
       (sp : Space) (off j cls va : Nat) (more : List (Nat × Nat)) (i : Instr) (op : AtomOp),
     let base := ((Tbl.get n.xm.win.toNat (s.billet a.b).windows).getD (0, 0)).1 + off
     let placed (l : Loc) : Acc := { acc with todo := [], locs := acc.locs ++ [(0, l)] }
     let here : Loc := .scr (scrKey a.b (off / 2 ^ 20) (off % 2 ^ 20))
     s.active a.b = true → (s.tile a).port = acc :: rest → (s.billet a.b).page = some p →
     ((i = .ld n .scr .plain ∨ i = .st n .scr .plain) → acc.instr = i → acc.held = false → acc.todo = [(0, off)] →
       (nthD {} (s.billet a.b).mtiles (off / 2 ^ 20) : MTile).role = .addr →
       exec (.memoryPortAccess a) s = .next ((s.popPort a).modTile a fun t => { t with flying := t.flying ++ [placed here] })) ∧
     ((i = .amo n .scr o op ∨ i = .red n .scr o op) → o.releases = false → acc.instr = i → acc.held = false → acc.todo = [(0, off)] →
       (nthD {} (s.billet a.b).mtiles (off / 2 ^ 20) : MTile).role = .addr →
       (∀ u, (s.popPort a).toUnit a (placed here) = some u → exec (.memoryPortAccess a) s = .next u) ∧
       ((s.popPort a).toUnit a (placed here) = none → exec (.memoryPortAccess a) s = .next (s.setHead a (placed here)))) ∧
     (∀ e s1, (i = .ld n .glb o ∨ i = .st n .glb o) → o.releases = false → acc.instr = i → acc.held = false → acc.todo = [(0, off)] →
       s.translateAt a.b p.cid base i.writes = some (e, s1) →
       ((i.writes = true → e.w = true) → s1.outOfReach a.b e.pa = false →
         exec (.memoryPortAccess a) s = .next ((s1.popPort a).modTile a fun t => { t with flying := t.flying ++ [placed (.glb e.pa e.uncached)] })) ∧
       (i.writes = true → e.w = false → acc.locs = [] →
         exec (.memoryPortAccess a) s = .next ((s1.popPort a).trapAccess a acc clsPermission 0 base))) ∧
     (acc.instr = .prf n → acc.held = false →
       exec (.memoryPortAccess a) s = .next ((s.popPort a).prefetch a.b p.cid n (acc.todo.map Prod.snd).sum)) ∧
     ((i = .ldx n sp o ∨ i = .stx n sp o) → acc.instr = i → acc.held = false → acc.locs = [] → acc.todo = (j, off) :: more →
       (s.billet a.b).addrTrap (s.mtCap a.b) sp n.xm.win.toNat off n.w.bytes = some cls →
       exec (.memoryPortAccess a) s = .next ((s.popPort a).trapAccess a acc cls j off)) ∧
     ((i = .ld n .glb o ∨ i = .st n .glb o) → acc.instr = i → acc.held = false → acc.todo = [(0, off)] →
       s.translateAt a.b p.cid base i.writes = none → (sideOf a.b = 0 → s.walkCut p.cid base = false) →
       exec (.memoryPortAccess a) s = .next (s.holdAccess a acc p base 0)) ∧
     (acc.held = true → acc.wake = true → acc.aborted = false →
       exec (.accessRetry a) s = .next ((s.setHead a { acc with held := false, wake := false }).portAccess a)) ∧
     (acc.held = true → acc.wake = true → acc.aborted = true → acc.locs = [] → acc.todo = (j, off) :: more →
       (s.billet a.b).heldVa acc = some va →
       exec (.accessRetry a) s = .next ((s.popPort a).trapAccess a acc clsPermission j va)) ∧
     (acc.held = true → acc.wake = false → exec (.accessRetry a) s = .next s)) ∧
  (∀ (s : State) (a : TileAddr) (k j : Nat) (acc : Acc) (before : List Acc) (n : MNode) (g : GNode) (glb : Bool) (c : WatchCond) (sp : Space)
       (o : Order) (l : Loc),
     let scope := acc.instr.scope
     let gone (t : State) : State := t.modTile a fun t => { t with flying := t.flying.eraseIdx k }
     let stays (t : State) : Prop := k < (t.tile a).flying.length ∧ t.active a.b = true
     (s.tile a).performing k = some (before, acc) → acc.atUnit = false →
     (acc.ripe (s.now a.b) = false ∨ s.nextWaits before acc = true → exec (.accessComplete a k) s = .next s) ∧
     (s.active a.b = true → s.mayPerform a k acc = true → acc.ripe (s.now a.b) = true → s.nextWaits before acc = false → acc.locs = [(j, l)] →
       o.releases = false →
       (let r := s.draw.2.readLoc a.b scope false l n.w.bytes
        (acc.instr = .ld n sp o → stays r.2 → exec (.accessComplete a k) s = .next
          ((gone r.2).finish a { acc with locs := [], data := payOfBytes n.w r.1 } (payOfBytes n.w r.1))) ∧
        (acc.instr = .ldx n sp o → stays r.2 →
          let v : Payload := .vec (setNth j (wordOfBytes r.1) acc.data.toVec)
          exec (.accessComplete a k) s = .next ((gone r.2).finish a { acc with locs := [], data := v } v))) ∧
       (acc.instr = .stx n sp o →
          let t := s.draw.2.writeLoc a.b scope false l (bytesOf n.w.bytes (nthD 0 acc.data.toVec j).toNat)
          stays t → exec (.accessComplete a k) s = .next ((gone t).finish a { acc with locs := [] } (.word 0))) ∧
       (acc.instr = .wtaddr g glb c → acc.reply = none →
          let r := (gone s).readLoc a.b scope false l 4
          (watchHolds c (wordOfBytes r.1) acc.data.lane0 = true →
            exec (.accessComplete a k) s = .next (r.2.finish a acc (.word (wordOfBytes r.1)))) ∧
          (watchHolds c (wordOfBytes r.1) acc.data.lane0 = false →
            exec (.accessComplete a k) s = .next (r.2.modBillet a.b fun x =>
              { x with watches := x.watches ++ [⟨a.t, acc, l, false, r.2.now a.b + 1024⟩] })))))

/-- R8, R191: a store to a local store writes the form's bytes there, lowest byte first, and no other byte of any memory. R282, R291: a store to
host memory writes them in that memory, and no other byte of any memory, where no cache holds its line, as none ever does; a store at billet
scope to a cached page of the device leaves them in the billet's L1, and the local stores as they are. -/
def Obligations.StoresWrite : Prop := ∀ (s : State) (a : TileAddr) (k key pa : Nat) (u : Bool) (acc : Acc) (before : List Acc) (n : MNode)
    (o : Order),
  s.MemoryOk → (s.tile a).performing k = some (before, acc) → s.active a.b = true → s.mayPerform a k acc = true → acc.atUnit = false →
  acc.ripe (s.now a.b) = true → s.nextWaits before acc = false → acc.data.toVec.length = 16 →
  (acc.instr = .st n .scr o → acc.locs = [(0, .scr key)] →
    ∃ t, exec (.accessComplete a k) s = .next t ∧ t.mem = s.mem ∧
      (∀ j, j < n.w.bytes → Memory.read t.scr (key + j) = nthD 0 (bytesOfPay n.w acc.data) j) ∧
      ∀ x, x < key ∨ key + n.w.bytes ≤ x → Memory.read t.scr x = Memory.read s.scr x) ∧
  (acc.instr = .st n .glb o → acc.locs = [(0, .glb pa u)] → homeOf pa = none → (s.billet a.b).l1.ofLine (lineOf pa) = [] →
    (s.side (sideOf a.b)).rdc.ofLine (lineOf pa) = [] →
    ∃ t, exec (.accessComplete a k) s = .next t ∧ t.scr = s.scr ∧
      (∀ j, j < n.w.bytes → Memory.read t.mem (pa + j) = nthD 0 (bytesOfPay n.w acc.data) j) ∧
      ∀ x, x < pa ∨ pa + n.w.bytes ≤ x → Memory.read t.mem x = Memory.read s.mem x) ∧
  (acc.instr = .st n .glb o → acc.locs = [(0, .glb pa u)] → pathOf (s.billet a.b).hasL1 false u n.xm.scope pa = .l1 →
    pa % Config.lineBytes + n.w.bytes ≤ Config.lineBytes →
    ∃ t, exec (.accessComplete a k) s = .next t ∧ t.scr = s.scr ∧
      ∀ j, j < n.w.bytes → (t.billet a.b).l1.find (pa + j) = some (nthD 0 (bytesOfPay n.w acc.data) j))

/-- R196, R197, R205 to R208, R244: a release in an open billet whose earlier accesses have performed writes its caches back; then a
releasing store performs, tlinc counts and delivers its timeline, a fence its token, and chk tells whether it is the launch's first; a
release that is not ready waits. A watch unit that was hit or whose time has come reads its word at its home, and delivers it when its
condition holds; otherwise it waits 1,024 fc. A wait slot delivers once its counts or its timeline allow, and else waits. What a release
waits for (log entry 23) and that chk and halt act at the end of the fc in a fixed rank (log entry 17) are the model's readings. -/
def Obligations.ReleasesPerform : Prop := ∀ (s : State) (b k : Nat) (r : Release) (rs : List Release) (n : GNode) (m : MNode) (o : Order)
    (sp : Space) (c : ChkFlag) (l : Launch) (page : Nat) (w : Watch) (ws : List Watch) (g : Bool) (wc : WatchCond) (a : TileAddr)
    (u : WaitSlot) (us : List WaitSlot),
  let s' := (s.releaseCaches b r.scope).modBillet b fun x => { x with releases := rs }
  let at_ : TileAddr := ⟨b, r.tile⟩
  let word := wordOfBytes (s.atHome w.loc 4)
  (s.active b = true → takeNth k (s.billet b).releases = some (r, rs) →
    (((s.billet b).releaseReady r && r.acc.ripe (s.now b)) = false → exec (.releaseComplete b k) s = .next s) ∧
    ((s.billet b).releaseReady r = true → r.acc.ripe (s.now b) = true →
      (r.acc.instr = .st m sp o → exec (.releaseComplete b k) s = .next (s'.performAcc at_ r.acc)) ∧
      (r.acc.instr = .tlinc n → exec (.releaseComplete b k) s = .next
        ((s'.modBillet b fun x => { x with tlu := setNth (n.imm % 8) (nthD 0 (s'.billet b).tlu (n.imm % 8) + 1 : BitVec 64) x.tlu }).finish at_
          r.acc (.word (half (nthD 0 (s'.billet b).tlu (n.imm % 8) + 1) false)))) ∧
      (r.acc.instr = .fence m o → exec (.releaseComplete b k) s = .next (s'.finish at_ r.acc r.acc.data)) ∧
      (r.acc.instr = .chk n c → s'.owner b = some (l, page) → exec (.releaseComplete b k) s = .next
        (let t := s'.finish at_ r.acc (.word (if l.chk.isNone && !s'.chkDue l.id then 0 else 1))
         { t with due := t.due ++ [.chk l.id (Sys2Proof.Machine.ChkFlag.bits c) r.acc.data.lane0] })) ∧
      (r.acc.instr = .halt n → s'.owner b = some (l, page) →
        exec (.releaseComplete b k) s = .next { s' with due := s'.due ++ [.halt l.id] }))) ∧
  (s.active b = true → takeNth k (s.billet b).watches = some (w, ws) → w.acc.instr = .wtaddr n g wc → s.badAmong [w.loc] = none →
    (w.hit = false → s.now b < w.next → exec (.watchReread b k) s = .next s) ∧
    ((w.hit = true ∨ w.next ≤ s.now b) → watchHolds wc word w.acc.data.lane0 = true → exec (.watchReread b k) s = .next
      ((s.modBillet b fun x => { x with watches := ws }).finish ⟨b, w.tile⟩ w.acc (.word word))) ∧
    ((w.hit = true ∨ w.next ≤ s.now b) → watchHolds wc word w.acc.data.lane0 = false → exec (.watchReread b k) s = .next
      (s.modBillet b fun x => { x with watches := setNth k { w with hit := false, next := s.now b + 1024 } x.watches }))) ∧
  (s.active a.b = true → takeNth k (s.tile a).slots = some (u, us) → u.issue + 6 ≤ s.now a.b →
    (s.waitHolds a u = false → exec (.waitSlotDeliver a k) s = .next s) ∧
    (u.instr = .waitq n → s.waitHolds a u = true →
      exec (.waitSlotDeliver a k) s = .next ((s.modTile a fun t => { t with slots := us }).deliver a u.id u.tok.tag u.tok.pay)) ∧
    (u.instr = .tlwait n → s.waitHolds a u = true → exec (.waitSlotDeliver a k) s = .next
      (((s.modTile a fun t => { t with slots := us }).acquireCaches a.b n.scope).deliver a u.id u.tok.tag u.tok.pay)))

/-- R198 to R200, R236: a group of operations that may be applied leaves its unit: atomics are applied to the word or granule at its home,
a group of spacc updates to its entry by one rounded sum. R211, R212, R225: a copy context whose turn it is reads and writes the next granule
of its copy, or stops where that cannot be done; a copy that is done writes its signal as a release, if it has one, makes TLC its number, and
the context goes on; a ring's tail tile whose filler has written its last row becomes FULL, and TAIL advances. The groups and the times are
the model's readings (log entries 62 and 63); that the destination's failure is reported where both sides fail, and which tiles' flags a merged
spacc sets, are its choices (log entry 71). -/
def Obligations.UnitsAndCopies : Prop :=
  (∀ (s : State) (group : List Nat) (o : SparseOp) (os : List SparseOp) (op : AtomOp) (vec merge : Bool)
       (m c : Nat),
     let g := groupOf s.sparse group
     let s' := { s with sparse := (s.sparse.zipIdx.filter fun (p : SparseOp × Nat) => group.contains p.2 = false).map Prod.fst }
     g.map Prod.fst = o :: os → s.groupOk (o :: os) = true → (g.all fun p => s.mayApply p.2 p.1) = true →
     (o.coord = none → o.instr.atom = some (op, vec, merge) →
       exec (.sparseUpdateApply group) s = .next (s'.applyAtoms o op vec (o :: os))) ∧
     (o.coord = some (m, c) →
       exec (.sparseUpdateApply group) s = .next ((s'.applySpacc o.tile.b m c (o :: os)).sparseAll (fun _ => .word 0) (o :: os)))) ∧
  (∀ (s s1 s2 : State) (b c : Nat) (k : Copy) (ks : List Copy) (p : Resident) (r : Nat) (g : Machine.Ring)
       (t pos : Nat) (dst : List Loc) (vs : List Byte) (e : CopyStop) (l : Loc),
     let full : Machine.Ring := { g with full := g.full ++ [g.tail], claim := none, tail := (g.tail + 1) % g.slots }
     let sp := copySpace k.desc 16 18
     let off := (dw k.desc 8).toNat
     let signals := bits (dw k.desc 10) 16 2 ≠ 3
     let done (u : State) : State := u.modCopyCtx b c fun x => { x with tlc := k.num, queue := x.queue.drop 1 }
     s.active b = true →
     ((s.billet b).nextCopy = some c → (nthD {} (s.billet b).ctxs c : CopyCtx).queue = k :: ks → (s.billet b).page = some p →
       k.aborted = false →
       (s.copyDest b p.cid k k.piece = .ok (dst, s1) → s1.copySource b p.cid k k.piece = .ok (vs, s2) →
         exec (.copyGranuleMove b c) s = .next (
           let u := (s2.writeLocs b k.scope (dst.zip vs)).modCopy b c fun q =>
             { q with done := q.after, held := none, wake := false }
           (u.modCopyCtx b c fun x => { x with moved := 1 }).modBillet b fun x =>
             { x with rrCopy := c, rings := x.rings.map fun q =>
                 (q.1, if k.ring = some q.1 then { q.2 with claim := some (copyFiller c) } else q.2) })) ∧
       (s.copyDest b p.cid k k.piece = .ok (dst, s1) → s1.copySource b p.cid k k.piece = .error (s2, e) →
         exec (.copyGranuleMove b c) s = .next (s2.copyStops b c k p e)) ∧
       (s.copyDest b p.cid k k.piece = .error (s1, e) → exec (.copyGranuleMove b c) s = .next (s1.copyStops b c k p e))) ∧
     ((nthD {} (s.billet b).ctxs c : CopyCtx).queue = k :: ks → (s.billet b).page = some p → k.held = none → k.aborted = false →
       k.total ≤ k.done → (s.billet b).copyDrained c k = true →
       (¬ signals → exec (.copyComplete b c) s = .next (done s)) ∧
       (signals → (s.billet b).addrTrap (s.mtCap b) sp.1 sp.2 off 4 = none → s.locate b p.cid sp.1 sp.2 off true = .ok l s1 →
         exec (.copyComplete b c) s = .next
           (done ((s1.releaseCaches b k.scope).writeLoc b k.scope false l (bytesOfWord (dw k.desc 9)))))) ∧
     (Tbl.get r (s.billet b).rings = some g → g.claim = some (t, pos) → (s.billet b).fillDone r g = true →
       (t < 8 → exec (.ringTileFilled b r) s = .next ((s.modBillet b fun x => { x with rings := Tbl.put r full x.rings }).modTile ⟨b, t⟩ fun x =>
         x.modNode pos fun n => { n with rpushRow := 0 })) ∧
       (8 ≤ t → exec (.ringTileFilled b r) s = .next (s.modBillet b fun x => { x with rings := Tbl.put r full x.rings }))))

/-! ### Matrix engine (R229 to R237) -/

/-- R232, R233: a pair reads its operands when its time is over and applies its step four fc later; with FIRST the accumulator starts from
zero; the last pair of an accumulation retires it and counts in TLM. R229, R234, R237: mzero empties those of its tiles that nothing uses and
delivers with the last; a drain sends its row with ITER × 16 + row and empties the tile with row 15, or discards its rows, and waits for its
channel; a flush sends its lowest entry as a CV32 word, cleared, and the END after the last. The readings of log entry 24 hold. -/
def Obligations.MatrixApplies : Prop :=
  (∀ (s : State) (a : TileAddr) (p : MPair) (ps : List MPair) (x : XX) (first last : Bool) (ty : AccTy)
       (ga gb : Machine.Ring),
     let kc := min (ringK ga.fmt) (ringK gb.fmt)
     let rs := stepTile x ty ga.fmt gb.fmt kc p.part (p.first && first) (nthD {} (s.tile a).acc p.acc : Accum).words p.a p.b
     let stepped (t : Tile) : Tile := { t with
       mpairs := t.mpairs.drop 1
       fflags := t.fflags ||| flagsOr (rs.map Prod.snd)
       flagsNow := t.flagsNow ||| flagsOr (rs.map Prod.snd)
       acc := modNth (fun (c : Accum) => { c with words := rs.map Prod.fst, ty := ty }) p.acc t.acc }
     s.active a.b = true → (s.tile a).mmaAt p.pos = some (x, first, last, ty) →
     ((s.tile a).mpairs = [p] →
       (p.start + p.p ≤ s.now a.b + 1 → exec (.mmaReadsComplete a) s = .next (s.readPair a x p)) ∧
       (s.now a.b + 1 < p.start + p.p → exec (.mmaReadsComplete a) s = .next s)) ∧
     ((s.tile a).mpairs = p :: ps → p.a ≠ [] → p.b ≠ [] → p.start + p.p + 4 ≤ s.now a.b → (s.billet a.b).ring? x.ra.toNat = some ga →
       (s.billet a.b).ring? x.rb.toNat = some gb →
       (p.last = false → exec (.mmaStepApply a) s = .next (s.modTile a stepped)) ∧
       (p.last = true → exec (.mmaStepApply a) s = .next (s.modTile a fun t => (stepped t).retire x last p))) ∧
     ((s.tile a).mpairs = p :: ps → s.now a.b < p.start + p.p + 4 → exec (.mmaStepApply a) s = .next s)) ∧
  (∀ (s : State) (a : TileAddr) (k c : Nat) (z : MZero) (zs : List MZero) (n : NodeAddr) (g : GNode)
       (d : Drain) (ch : BitVec 5) (rm : Round) (f : Flush) (w : Word),
     let ready := z.wait.filter fun j => (nthD {} (s.tile a).acc j : Accum).claim.isNone && !(s.tile a).draining j
     let left := z.wait.filter fun j => !ready.contains j
     let ts := tgts (.spflush g rm)
     let tag : Tag := { f.tag.asData with iter := BitVec.ofNat 16 f.sent }
     let m := g.xmod % 8
     let v := roundDir .f16 rm (f32Of w)
     (s.active a.b = true → takeNth k (s.tile a).mzeros = some (z, zs) →
       (left = [] → exec (.mzeroComplete a k) s = .next ((s.modTile a fun t =>
         { (t.emptyAcc ready) with mzeros := zs }).deliver a z.id z.tag z.pay)) ∧
       (left ≠ [] → exec (.mzeroComplete a k) s = .next (s.modTile a fun t =>
         { (t.emptyAcc ready) with mzeros := setNth k { z with wait := left } t.mzeros }))) ∧
     (s.active n.b = true → (s.tile n.tileAddr).instrAt n.blk n.slot = some (.mdrain g) → (s.node n).drain = some d → d.next ≤ s.now n.b →
       g.t0 = .chan ch →
       (d.dest = none → exec (.mdrainRow n) s = .next (s.modTile n.tileAddr fun t => t.rowLeft n g d (s.now n.b))) ∧
       (∀ v, d.dest = some v →
         ((s.billet n.b).chanOff (s.mtCap n.b) (s.now n.b) n.t ch.toNat (some v) = true →
           exec (.mdrainRow n) s = .next (s.modNode n (Node.waits 4))) ∧
         ((s.billet n.b).chanOff (s.mtCap n.b) (s.now n.b) n.t ch.toNat (some v) = false →
           exec (.mdrainRow n) s = .next (
             let r := (s.tile n.tileAddr).drainRow ch.toNat (nthD {} (s.tile n.tileAddr).acc d.acc) d.row (s.now n.b)
             s.modTile n.tileAddr fun t =>
               { (t.rowLeft n g d (s.now n.b)) with
                 pool := t.pool ++ [{ ch := ch.toNat, tok := ⟨rowTag d.tag d.row, r.1⟩, row := some v }]
                 fflags := t.fflags ||| r.2
                 flagsNow := t.flagsNow ||| r.2 })))) ∧
     (s.active n.b = true → (s.tile n.tileAddr).instrAt n.blk n.slot = some (.spflush g rm) → (s.node n).flush = some f →
       f.next ≤ s.now n.b → (f.started = true ∨ s.spaccBefore n.b m f.issue = false) → s.takesNow n tag ts = .ok →
       (s.flushEntry n.b m f.floor = none →
         exec (.spflushEntry n) s = .next ((s.sendNow n { tag with kind := .fin } (.word (BitVec.ofNat 32 (g.imm % 8))) ts).modNode n fun x =>
           { x with flush := none })) ∧
       (s.flushEntry n.b m f.floor = some (c, w) →
         exec (.spflushEntry n) s = .next ((((s.sendNow n tag (.word (BitVec.ofNat 32 (c * 65536 + FFmt.encode .f16 v.1))) ts).modTile
           n.tileAddr fun t => { t with fflags := t.fflags ||| v.2, flagsNow := t.flagsNow ||| v.2 }).modBillet n.b fun x =>
             { x with mtiles := modNth (fun (t : MTile) => { t with spacc := Tbl.del c t.spacc }) m x.mtiles }).modNode n fun x =>
               { x with flush := some { f with started := true, sent := f.sent + 1, floor := c + 1, next := s.now n.b + 1 } }))))

/-! ### Control (R272 to R278, R448) -/

/-- R272, R273: the first CTRL token that has arrived takes its entry's pending slot when that is free and no token of its entry waits in
the control FIFO; else it joins the control FIFO while that has room; else it waits. Behind an arrival that finds no place, the next one,
of another entry whose slot is free and for which no token waits, takes its slot. The FIFO's earliest token whose entry is free moves on,
and with none the FIFO stays. The armed, enabled entry of highest PRI fires: its token becomes a DATA token on its way to ARGCH. A frozen
billet does none of this. The fc in which a handler acts is the model's reading (log entry 50). -/
def Obligations.ControlTokens : Prop := ∀ (s : State) (b e : Nat) (v w : Arrival) (vs : List Arrival) (t : Token)
    (q : Nat × Token) (qs : List (Nat × Token)) (h : Handler),
  let x := s.billet b
  let free (e : Nat) : Bool := (nthD {} x.handlers e : Handler).pend.isNone
  let direct (v : Arrival) : Bool := free v.entry && x.ctrl.all fun p => p.1 != v.entry
  (x.isFrozen = true → exec (.ctrlTokenArrive b) s = .next s ∧ exec (.controlFifoAdvance b) s = .next s) ∧
  (x.isFrozen = false →
    (x.arrivals = [] → exec (.ctrlTokenArrive b) s = .next s) ∧
    (x.arrivals = v :: vs → direct v = true →
      exec (.ctrlTokenArrive b) s = .next ((s.setBillet b { x.setPend v.entry (some v.tok) with arrivals := vs }).ctrlAccepted v.src)) ∧
    (x.arrivals = v :: vs → direct v = false → x.ctrl.length < Config.controlFifo →
      exec (.ctrlTokenArrive b) s = .next ((s.setBillet b { x with arrivals := vs, ctrl := x.ctrl ++ [(v.entry, v.tok)] }).ctrlAccepted v.src)) ∧
    (x.arrivals = [v] → direct v = false → Config.controlFifo ≤ x.ctrl.length → exec (.ctrlTokenArrive b) s = .next s) ∧
    (x.arrivals = v :: w :: vs → direct v = false → Config.controlFifo ≤ x.ctrl.length → w.entry ≠ v.entry → direct w = true →
      exec (.ctrlTokenArrive b) s = .next ((s.setBillet b { x.setPend w.entry (some w.tok) with arrivals := v :: vs }).ctrlAccepted w.src)) ∧
    (takeFirst (fun (p : Nat × Token) => free p.1) x.ctrl = some (q, qs) →
      exec (.controlFifoAdvance b) s = .next (s.modBillet b fun _ => { x with ctrl := qs }.setPend q.1 (some q.2))) ∧
    (takeFirst (fun (p : Nat × Token) => free p.1) x.ctrl = none → exec (.controlFifoAdvance b) s = .next (s.modBillet b fun x => x))) ∧
  (s.active b = true → x.handlerFired = false → x.chooseHandler = some (e, h) → h.pend = some t →
    exec (.handlerFire b) s = .next (s.modBillet b fun y => { y.setPend e none with
      handlerFired := true, args := y.args ++ [(h.tile, h.argch, { t with tag := t.tag.asData })] })) ∧
  ((s.active b = false ∨ x.handlerFired = true) → exec (.handlerFire b) s = .next s)

/-- R278, R448: the balancer runs every 4,096 fc and chooses the stages of the float tiles; a DRAINING float tile that is empty takes its
new stage; a billet idle for 64 fc gates its pipelines, and one that holds work, or that a caravan calls, opens them; each waits until
then. Ties and the leaving of C1 are the model's readings (log entries 52 and 66). -/
def Obligations.BilletsBalance : Prop := ∀ (s : State) (b k n : Nat) (f : Machine.Float),
  (s.active b = true → (s.billet b).balanced + 4096 ≤ s.now b → (s.billet b).floats ≠ [] →
    exec (.stageBalancerRun b) s = .next (s.modBillet b fun x => x.balance (s.now b))) ∧
  ((s.now b < (s.billet b).balanced + 4096 ∨ (s.billet b).floats = []) → exec (.stageBalancerRun b) s = .next s) ∧
  (s.active b = true → (s.billet b).floats[k]? = some f → f.draining = some n → s.floatEmpty b f.tile = true →
    exec (.floatTileReassign b k) s = .next (s.modBillet b fun x =>
      { x with floats := modNth (fun (y : Machine.Float) => { y with stage := some n, draining := none }) k x.floats })) ∧
  ((s.billet b).floats[k]? = some f → (f.draining = none ∨ s.floatEmpty b f.tile = false) → exec (.floatTileReassign b k) s = .next s) ∧
  ((s.billet b).idle < 64 → exec (.c1Enter b) s = .next s) ∧
  ((s.billet b).c1 = false → exec (.c1Exit b) s = .next s) ∧
  (s.active b = true → 64 ≤ (s.billet b).idle → exec (.c1Enter b) s = .next (s.modBillet b fun x => { x with c1 := true })) ∧
  ((s.billet b).c1 = true → s.power = .c0 → ((s.billet b).holdsWork = true ∨ s.caravanCalls b = true) →
    exec (.c1Exit b) s = .next (s.modBillet b fun x => { x with c1 := false, idle := 0 }))

/-! ### Queues, records and launches (R321 to R356, R378 to R390) -/

/-- R323 to R333, R450: a notify word that is not ignored becomes its queue's tail, calls for a wake of a sleeping chip, and calls the Front
Desk when the queue is not resident or the chip is not in C0; an ignored one changes nothing. A knock brings a queue into a free entry of
the table, or into that of the quiet queue of oldest activity, which is saved first; with neither it waits. A slot is read into its queue; a
decrement that waits is delivered once it finds an entry; a record that has its status and whose decrements have been sent completes. The
service of a knock as one step and the layout of a save area are the model's (log entries 15 and 27). -/
def Obligations.QueuesServe : Prop := ∀ (s : State) (fn qn n side i vic : Nat) (v : Word) (q : VQueue) (ns : List Nat) (r : RecId) (x : Rec)
    (st : Status) (fl : BitVec 5) (detail : Nat) (t : Nat) (m : Bool) (rest : List (Nat × Bool)) (y : VQueue),
  let num := (s.func fn).qbase + qn
  let s1 := (s.setQueue num { q with tail := v, lastAct := s.ns, notifyNs := s.ns }).askWake
  let pop (s : State) : State := s.modSide side fun d => { d with knocks := d.knocks.drop 1 }
  ((s.fnUp fn = false ∨ (s.func fn).qcount ≤ qn ∨ s.queue? num = none) → exec (.notifyWrite fn qn v) s = .next s) ∧
  (s.fnUp fn = true → s.power.takesNotify = true → qn < (s.func fn).qcount → s.queue? num = some q →
    (q.ignores v = true → exec (.notifyWrite fn qn v) s = .next s) ∧
    (q.ignores v = false → s.ctxOpen q.cid = true →
      (s1.isResident num = true → s.power = .c0 → exec (.notifyWrite fn qn v) s = .next s1) ∧
      ((s1.isResident num = false ∨ s.power ≠ .c0) → exec (.notifyWrite fn qn v) s = .next (s1.addKnock num q.side)))) ∧
  (s.deskUp side = true → (s.side side).knocks = n :: ns → s.queue? n = some q → s.isResident n = false →
    (((s.side side).resid.findIdx? fun e => e.2 == .free) = some i → exec (.knockService side) s = .next ((pop s).loadQueue n side i)) ∧
    (((s.side side).resid.findIdx? fun e => e.2 == .free) = none →
      (s.victimQueue side = some (i, vic) → exec (.knockService side) s = .next ((pop (s.saveQueue vic)).loadQueue n side i)) ∧
      (s.victimQueue side = none → exec (.knockService side) s = .next s))) ∧
  (s.queue? n = some q → s.deskUp q.side = true → s.isResident n = true → s.ctxOpen q.cid = true →
    (q.read ≠ q.tail → exec (.slotRead n) s = .next (s.readSlot n q)) ∧ (q.read = q.tail → exec (.slotRead n) s = .next s)) ∧
  (s.queue? n = some q → q.waitDec = (t, m) :: rest →
    (q.decrement t m = some y → exec (.decrementDeliver n) s = .next (s.setQueue n { y with waitDec := rest })) ∧
    (q.decrement t m = none → exec (.decrementDeliver n) s = .next (s.setQueue n q))) ∧
  (s.queue? r.queue = some q → s.rec? r = some x → s.deskUp q.side = true → s.isResident r.queue = true → s.records = [] →
    x.outcome = some (st, fl, detail) → x.done = false → x.sent = true → q.waitDec = [] →
    exec (.recordComplete r) s = .next (s.finishRec r q x st fl detail))

/-- R329, R332, R295: a ready record that fails because a predecessor did takes PRED_FAIL and does nothing. Otherwise it starts and acts:
COPY fills or copies the next granule of its destination, SIGNAL writes its value over what stands there, WAITMEM and WAITTL complete as
acquires of their side when their condition holds and else wait, JOIN completes, EVICT marks its page, TIMEGATE completes at its time. A
COPY, SIGNAL or WAITMEM whose access fails is held for the driver or takes PERMISSION; one that is held does nothing more. A LAUNCH and a
PAGEIN that may not act change nothing (how they act, Obligations.LaunchesRun). The readings of log entries 27 and 28 hold. -/
def Obligations.RecordsRun : Prop := ∀ (s s1 s2 : State) (r : RecId) (q : VQueue) (x : Rec) (o : VQueue) (bs : List Byte) (i : Instr)
    (ty : Nat) (e : SysFail),
  let u := s.touchRec r
  let n := copyChunk (x.d 6) (x.d 8) x.progress
  let dst := x.d 6 + x.progress
  let holds : Bool := waitCond (x.w 10) (BitVec.ofNat 64 (natOf bs) &&& BitVec.ofNat 64 (x.d 8)) (BitVec.ofNat 64 (x.d 6))
  let marked (l : Launch) : Launch := if l.cid = q.cid ∧ l.gdesc = x.d 4 then l.markVictim (x.w 6) else l
  ((i, ty) ∈ [(Instr.launch r, 1), (.copyRecord r, 2), (.signalRecord r, 3), (.waitmem r, 4), (.waittl r, 5), (.joinRecord r, 6),
      (.pagein r, 7), (.evict r, 8), (.timegate r, 9)] →
    (s.mayRun r ty = none → exec i s = .next s) ∧
    (s.mayRun r ty = some (q, x) → x.failed = true → exec i s = .next (s.outcome r .predFail 0))) ∧
  (s.mayRun r 2 = some (q, x) → x.failed = false →
    (x.free = false → exec (.copyRecord r) s = .next s) ∧
    (x.free = true → x.w 10 % 2 = 1 →
      (u.sysWrite q.cid dst (fillBytes (nthD 0 x.words 11) x.progress n) = .ok s1 →
        exec (.copyRecord r) s = .next (s1.copied r x n)) ∧
      (u.sysWrite q.cid dst (fillBytes (nthD 0 x.words 11) x.progress n) = .error (s1, e) →
        exec (.copyRecord r) s = .next (s1.recFails q.cid r dst n true e))) ∧
    (x.free = true → x.w 10 % 2 = 0 →
      (u.sysRead q.cid (x.d 4 + x.progress) n false = .ok (bs, s1) → s1.sysWrite q.cid dst bs = .ok s2 →
        exec (.copyRecord r) s = .next (s2.copied r x n)) ∧
      (u.sysRead q.cid (x.d 4 + x.progress) n false = .error (s1, e) →
        exec (.copyRecord r) s = .next (s1.recFails q.cid r (x.d 4 + x.progress) n false e)))) ∧
  (s.mayRun r 3 = some (q, x) → x.failed = false →
    (x.free = false → exec (.signalRecord r) s = .next s) ∧
    (x.free = true → x.w 8 ≠ 2 →
      (u.sysWrite q.cid (x.d 4) (signalBytes (x.w 8) (x.d 6) 0) = .ok s1 → exec (.signalRecord r) s = .next (s1.outcome r .ok 0)) ∧
      (u.sysWrite q.cid (x.d 4) (signalBytes (x.w 8) (x.d 6) 0) = .error (s1, e) →
        exec (.signalRecord r) s = .next (s1.recFails q.cid r (x.d 4) 8 true e))) ∧
    (x.free = true → x.w 8 = 2 → u.sysRead q.cid (x.d 4) 8 false = .ok (bs, s1) →
      s1.sysWrite q.cid (x.d 4) (signalBytes 2 (x.d 6) (natOf bs)) = .ok s2 → exec (.signalRecord r) s = .next (s2.outcome r .ok 0))) ∧
  (s.mayRun r 4 = some (q, x) → x.failed = false →
    (x.free = false → exec (.waitmem r) s = .next s) ∧
    (x.free = true → u.sysRead q.cid (x.d 4) 8 false = .ok (bs, s1) →
      (holds = true → exec (.waitmem r) s = .next ((s1.acquireSide q.side).outcome r .ok 0)) ∧
      (holds = false → exec (.waitmem r) s = .next s1)) ∧
    (x.free = true → u.sysRead q.cid (x.d 4) 8 false = .error (s1, e) →
      exec (.waitmem r) s = .next (s1.recFails q.cid r (x.d 4) 8 false e))) ∧
  (s.mayRun r 5 = some (q, x) → x.failed = false → u.queue? (x.w 4) = some o →
    ((o.ctl - BitVec.ofNat 64 (x.d 6)).msb = false → exec (.waittl r) s = .next ((u.acquireSide q.side).outcome r .ok 0)) ∧
    ((o.ctl - BitVec.ofNat 64 (x.d 6)).msb = true → exec (.waittl r) s = .next u)) ∧
  (s.mayRun r 6 = some (q, x) → x.failed = false → exec (.joinRecord r) s = .next (u.outcome r .ok 0)) ∧
  (s.mayRun r 8 = some (q, x) → x.failed = false →
    exec (.evict r) s = .next ({ u with launches := s.launches.map marked }.outcome r .ok 0)) ∧
  (s.mayRun r 9 = some (q, x) → x.failed = false →
    (x.d 4 ≤ s.ns → exec (.timegate r) s = .next (u.outcome r .ok 0)) ∧ (s.ns < x.d 4 → exec (.timegate r) s = .next u))

/-- R338, R339, R343, R344, R356, R378 to R383, R403: the LAUNCH that is to be served is validated, and is admitted where the quotas allow
it, or completes with PAGE_LIMIT, QUOTA, PERMISSION or SIDE_LOST; one that is not to be served waits. A PAGEIN completes once its page is loaded,
asks for it while it is not, and without a hold has the page held. A loading launch whose ENTRY pages are ready opens its gates and runs, a
running one opens the gates of pages that have been loaded; its argument tokens follow by PACE. Checkout time starts the checkout of a
running launch, ends a loading one and ends a stop; the deadline ends a launch that has been in CHECKOUT since an earlier fc as LATE. The
order of service and PAGEIN's held launch are the model's readings (log entry 28). -/
def Obligations.LaunchesRun : Prop := ∀ (s s1 : State) (r : RecId) (q : VQueue) (x : Rec) (p : Plan) (code idx va b : Nat) (l : Launch)
    (a : ArgRec) (rest : List ArgRec),
  let u := s.touchRec r
  let there (b : Nat) : Bool := (s.billet b).load.any fun d => d.phase == .closed
  (s.mayRun r 1 = some (q, x) → x.failed = false → (x.started || !s.launchServed q.side r) = true → exec (.launch r) s = .next s) ∧
  (s.mayRun r 1 = some (q, x) → x.failed = false → x.started = false → s.launchServed q.side r = true →
    (validate q.cid (x.d 4) (x.d 11) (x.d 6) (x.w 8) u = .ok (p, s1) →
      let pins := s1.pinnedOf q.cid (some (x.d 4, r.queue)) + (p.graph.pages.filter fun g => g.pin).length
      (s1.quotaOk q.cid pins = true → exec (.launch r) s = .next (s1.enrol r q x p)) ∧
      (s1.quotaOk q.cid pins = false → exec (.launch r) s = .next (s1.recordOutcome r .quota 0 0))) ∧
    (validate q.cid (x.d 4) (x.d 11) (x.d 6) (x.w 8) u = .error (s1, .check code idx) →
      exec (.launch r) s = .next ((s1.writeRecord { cls := clsPageLimit, cid := q.cid, detail := code * 4096 + idx, rslot := r.slot,
                                                    queue := r.queue }).recordOutcome r .pageLimit 0 (code * 4096 + idx))) ∧
    (validate q.cid (x.d 4) (x.d 11) (x.d 6) (x.w 8) u = .error (s1, .read va) →
      exec (.launch r) s = .next ((s1.permRecord q.cid r va).recordOutcome r .permission 0 0)) ∧
    (validate q.cid (x.d 4) (x.d 11) (x.d 6) (x.w 8) u = .error (s1, .lost) →
      exec (.launch r) s = .next (s1.recordOutcome r .sideLost 0 0))) ∧
  (s.mayRun r 7 = some (q, x) → x.failed = false →
    (s.holdOf q.cid (x.d 4) r.queue (x.w 6) = some l →
      ((l.placeOf (x.w 6)).any there = true → exec (.pagein r) s = .next (u.outcome r .ok 0)) ∧
      ((l.placeOf (x.w 6)).any there = false → exec (.pagein r) s = .next (u.raiseFault l.id (x.w 6)))) ∧
    (s.holdOf q.cid (x.d 4) r.queue (x.w 6) = none →
      (x.progress = 1 → exec (.pagein r) s = .next (s.outcome r .fault 0)) ∧
      (x.progress ≠ 1 → exec (.pagein r) s = .next (u.holdPage r q x)))) ∧
  (s.launch? r = some l → s.deskUp l.side = true → l.pagein = false →
    (l.st = .loading → s.entriesReady l = true →
      exec (.launchGatesOpen r) s = .next ((s.modBillets (s.closedPages r) Billet.open).modLaunch r fun x => { x with st := .running })) ∧
    (l.st = .loading → s.entriesReady l = false → exec (.launchGatesOpen r) s = .next s) ∧
    (l.st = .running → exec (.launchGatesOpen r) s = .next (s.modBillets (s.closedPages r) Billet.open))) ∧
  (s.launch? r = some l → l.args = a :: rest → l.placeOf a.page = some b → l.st = .running → s.deskUp l.side = true →
    (s.drainOpen b = true → l.argOff a = false → l.argFc a ≤ (s.side l.side).fc →
      exec (.argumentTokenInject r) s = .next (s.injectArg l a rest b)) ∧
    (((s.side l.side).fc < l.argFc a ∨ l.argOff a = true) → exec (.argumentTokenInject r) s = .next s)) ∧
  (s.launch? r = some l → s.deskUp l.side = true → l.deadline ≠ 2 ^ 64 - 1 → (l.deadline : Int) - l.budget ≤ s.ns →
    (l.st = .running → exec (.checkoutTimeReached r) s = .next (s.checkoutSequence l.id 0)) ∧
    (l.st = .loading → exec (.checkoutTimeReached r) s = .next (s.endLaunch l.id .ok)) ∧
    (l.st = .stopped → l.stopLoading = false → exec (.checkoutTimeReached r) s = .next (s.checkoutSequence l.id l.cause))) ∧
  (s.launch? r = some l → s.deskUp l.side = true → l.st = .checkout → l.deadline ≠ 2 ^ 64 - 1 → l.deadline ≤ s.ns →
    (l.entered ≠ some (s.side l.side).fc → exec (.deadlineReached r) s = .next
      (((s.freeze (s.billetsOf r) .deadline).modLaunch r fun x => { x with late := true }).endLaunch r .ok)) ∧
    (l.entered = some (s.side l.side).fc → exec (.deadlineReached r) s = .next s))

/-- R270, R343, R344, R353, R356: a page whose threshold is met raises one fault; of the faults that no ready LAUNCH and no eviction goes
before, the first that can be served is served, once every context above its QBILLET has been asked for pages back. A page's image is read
when its side's configuration bus is free: it configures the billet, or is refused as PAGE_LIMIT, INVALID_ENCODING, PERMISSION or SIDE_LOST.
When S / 64 fc have passed its tiles acknowledge their CRC; a tile's first bad CRC streams its segment again, its second is a UE; then the
steward computes the routes. The choice among billets is the model's reading (log entry 28). -/
def Obligations.PagesLoad : Prop := ∀ (s s1 : State) (r : RecId) (l : Launch) (page side b : Nat) (p : Resident) (d : Load) (g : GPage)
    (img : List Byte) (t : TileAddr),
  let ps : PageState := nthD {} l.pages p.page
  let ws := wordsOfBytes (g.size / 4) img
  let u := s.shrinkAll
  (s.launch? r = some l → s.deskUp l.side = true → l.st = .running →
    (l.thresholdMet page = true → exec (.pageFault r page) s = .next (s.raiseFault r page)) ∧
    (l.thresholdMet page = false → exec (.pageFault r page) s = .next s)) ∧
  (s.deskUp side = true → exec (.pageFaultServe side) s =
    .next (u.serveFirst ((u.faultQueue side).filter fun f => u.first side (u.launchRanks side ++ u.evictRanks side) f.1))) ∧
  (s.deskUp side = false → exec (.pageFaultServe side) s = .next s) ∧
  ((s.billet b).page = some p → (s.billet b).load = some d → s.power = .c0 → (s.billet b).isFrozen = false →
    (s.launch? p.launch = some l → d.phase = .stream → s.streamsNext p = true → s.busFree (sideOf b) = true →
      l.graph.pages[p.page]? = some g → readBytes p.cid g.image g.size s = .ok (img, s1) →
      (imgRefused (s1.fedBy p) img = none → capOk ws (s1.mtCap b) = true → (ps.record.all fun k => k.sound) = true →
        exec (.pageLoad b) s = .next (s1.modBillet b fun x => x.configured img ws g (!ps.loadedOnce) (s1.now b + busFc g.size))) ∧
      (capOk ws (s1.mtCap b) = false →
        exec (.pageLoad b) s = .next (s1.loadFails p (loadInfo b p clsPageLimit (5 * 4096 + p.page) 0) .pageLimit (5 * 4096 + p.page))) ∧
      (∀ c, capOk ws (s1.mtCap b) = true → imgRefused (s1.fedBy p) img = some c → exec (.pageLoad b) s = .next (s1.loadFails p
        (match c.at_ with
         | some (i, n) => { loadInfo b p clsInvalidEncoding 0 c.off with tile := i, slot := n }
         | none => loadInfo b p clsInvalidEncoding 0 c.off) .invalidEncoding 0))) ∧
    (s.launch? p.launch = some l → d.phase = .stream → s.streamsNext p = true → s.busFree (sideOf b) = true →
      l.graph.pages[p.page]? = some g → ∀ va, readBytes p.cid g.image g.size s = .error (s1, .read va) →
      exec (.pageLoad b) s = .next (s1.loadFails p (loadInfo b p clsPermission 0x10 va) .permission 0)) ∧
    (s.launch? p.launch = some l → d.phase = .stream → s.streamsNext p = true → s.busFree (sideOf b) = true →
      l.graph.pages[p.page]? = some g → readBytes p.cid g.image g.size s = .error (s1, .lost) →
      exec (.pageLoad b) s = .next (s1.failLaunch p.launch .sideLost 0)) ∧
    (s.launch? p.launch = some l → (s.streamsNext p = false ∨ s.busFree (sideOf b) = false) → exec (.pageLoad b) s = .next s) ∧
    (d.phase = .steward → d.busEnd ≤ s.now b → exec (.stewardRoutesDone b) s = .next (s.stewardDone b p d))) ∧
  ((s.billet t.b).page = some p → (s.billet t.b).load = some d → s.power = .c0 → (s.billet t.b).isFrozen = false → d.phase = .crc →
    d.busEnd ≤ s.now t.b → d.waits t.t = true →
    exec (.tileCrcAck t true) s = .next (s.modBillet t.b fun x => { x with load := some (d.ack t.t) }) ∧
    (d.restreamed.contains t.t = false → exec (.tileCrcAck t false) s =
      .next (s.modBillet t.b fun x => { x with load := some (d.again t.t (s.now t.b)) })) ∧
    (d.restreamed.contains t.t = true → exec (.tileCrcAck t false) s = .next (s.loadUe t.b p))) ∧
  (s.active b = true → (s.billet b).steward = true → exec (.stewardRouteRecompute b) s = .next (s.tune b))

/-- R345, R352, R388, R390, R393, R401: an eviction that may start and whose turn it is starts, or ends its launch with QUOTA where a
pinned page finds no room for its record. It drains its page until 64 fc are quiet or 8,192 have passed, then gates it; at its tile-task
boundary the page leaves with its record; past 50 µs the launch's billets freeze and the page is scanned out instead, after which the
launch's billets go on unless another of its pages is still to be scanned. A generation flush ends when no marked flit is left. Records
and scan images as data are the model's choice (log entries 15 and 29); that a pinned page reserves its record when it is evicted, and not
before, is its reading (log entry 28). -/
def Obligations.PagesLeave : Prop := ∀ (s s1 : State) (b : Nat) (p : Resident) (e : Evict) (l : Launch),
  let others := (s.billetsOf p.launch).filter fun c => c ≠ b
  let scanning := others.any fun c => (s.billet c).evict.any fun f => f.phase == .scan
  (s.billet b).evict = some e →
  ((s.billet b).page = some p → e.phase = .wanted → s.power = .c0 →
    (s.mayEvict b p = true → s.evictTurn e = true → s.launch? p.launch = some l →
      (s.reservePinned p = some s1 → exec (.pageEvict b) s = .next (s1.startEvict b p e)) ∧
      (s.reservePinned p = none → exec (.pageEvict b) s = .next (s.quotaFails l p.page))) ∧
    ((s.mayEvict b p && s.evictTurn e) = false → exec (.pageEvict b) s = .next s)) ∧
  (e.phase = .drain → s.active b = true →
    ((64 ≤ e.quiet ∨ e.startFc + 8192 ≤ s.now b) → exec (.drainGateTimeout b) s = .next (s.modBillet b fun x =>
      { x with handlerGated := true, drainOn := false, evict := some { e with phase := .boundary } })) ∧
    (e.quiet < 64 → s.now b < e.startFc + 8192 → exec (.drainGateTimeout b) s = .next s)) ∧
  ((s.billet b).page = some p → e.phase = .boundary → s.active b = true →
    (s.atBoundary b = true → exec (.tileTaskBoundary b) s = .next (s.pageLeaves b p e 1)) ∧
    (s.atBoundary b = false → exec (.tileTaskBoundary b) s = .next s)) ∧
  ((s.billet b).page = some p → (e.phase = .drain ∨ e.phase = .boundary) → s.power = .c0 →
    (e.startNs + 50000 ≤ s.ns → exec (.evictionBudgetExpire b) s = .next ((s.freeze (s.billetsOf p.launch) .budget).modBillet b fun x =>
      { x with evict := some { e with phase := .scan } })) ∧
    (s.ns < e.startNs + 50000 → exec (.evictionBudgetExpire b) s = .next s)) ∧
  ((s.billet b).page = some p → e.phase = .scan → s.power = .c0 →
    (scanning = false → exec (.scanOutComplete b) s = .next ((s.pageLeaves b p e 2).unfreeze others [.budget])) ∧
    (scanning = true → exec (.scanOutComplete b) s = .next (s.pageLeaves b p e 2))) ∧
  (e.phase = .flush →
    ((∀ f ∈ s.flits, ∀ m ∈ e.marks, f.same m = false) →
      exec (.generationFlushComplete b) s = .next ((s.setBillet b (s.billet b).freed).afterFree b (s.billet b).page e)) ∧
    ((∃ f ∈ s.flits, ∃ m ∈ e.marks, f.same m = true) → exec (.generationFlushComplete b) s = .next s))

/-! ### Integrity and links (R417 to R420, R431 to R436) -/

/-- R417, R434: a corrected error joins the side's history; a row or column with four errors within 24 h and a spare is remapped once its
billet has no page; a wanted L2 way is written back and disabled; a bad page of GDDR 7 is withdrawn with its record in the fault log; a site
is asked to empty, and is spared once the billet whose page uses it is empty; a low aging monitor schedules its site or asks for a spare of
its link. R419, R420: an uncorrectable error in a running billet makes its record, with its tile and slot, a copy in the fault log, and an
effect at the end of the fc, in a frozen one the records alone; one in a billet without a page is logged; one found by a scrub is logged and
its line stays bad; one in a line ends the access or watch that reads it: nothing of it is sent, its node's place is trapped, its operation
leaves its unit, a line of GDDR 7 stays bad, and the billet has its error; where nothing reads the line nothing changes; a bad record fails
its check; in the Front Desk it ends the side's launches; in the Innkeeper it stops it until it has restarted, and then what waited for it
goes on. The numbers of places and banks are the model's choice (log entry 40), and the sites of errors its reading (log entry 44). -/
def Obligations.ErrorsHandled : Prop :=
  (∀ (s : State) (side struct place bank line way page layer x y : Nat) (column : Bool) (l : LinkId),
     exec (.eccCorrection side struct place) s = .next (s.modSide side fun d => { d with ceHist := d.ceHist ++ [(struct, place, s.ns)] }) ∧
     (s.hotLine side bank column = some line → s.keeperUp side = true → s.bankHeld side bank = false →
       exec (.sramRemap side bank column) s = .next (s.modSide side fun d => (d.forget bank line column).takeSpare bank column)) ∧
     ((s.hotLine side bank column = none ∨ s.bankHeld side bank = true) → exec (.sramRemap side bank column) s = .next s) ∧
     (s.keeperUp side = true → way < 16 →
       ((s.side side).waysWanted.contains way = true → exec (.l2WayDisable side way) s = .next ((s.dropWay side way).modSide side fun d =>
         { d with waysOff := d.waysOff ||| BitVec.ofNat 16 (2 ^ way), waysWanted := d.waysWanted.filter fun w => w ≠ way })) ∧
       ((s.side side).waysWanted.contains way = false → exec (.l2WayDisable side way) s = .next s)) ∧
     (s.keeperUp (pageSide page) = true →
       (s.pageBad page = true → s.withdrawn.contains page = false → exec (.gddrPageRetire page) s = .next
         { s.logRecord { cls := clsUe, detail := 8, addr := page * 65536 } with withdrawn := s.withdrawn ++ [page] }) ∧
       ((s.pageBad page = false ∨ s.withdrawn.contains page = true) → exec (.gddrPageRetire page) s = .next s)) ∧
     (x < 16 → y < 16 → layer < 4 → side < 2 → s.maySpare side layer x y = true →
       let b := s.siteUser side layer x y
       let u := (s.modSide side fun d => { d with
         spareWanted := if d.spareWanted.contains (layer, x, y) then d.spareWanted else (layer, x, y) :: d.spareWanted
         spareLater := d.spareLater.filter fun w => w ≠ (layer, x, y) }).wantOut b
       (u.empty b = true → exec (.siteSpare side layer x y) s = .next (u.spareNow side layer x y)) ∧
       (u.empty b = false → exec (.siteSpare side layer x y) s = .next u)) ∧
     (s.maySpare side layer x y = false → exec (.siteSpare side layer x y) s = .next s) ∧
     (s.keeperUp side = true → exec (.agingMonitorRead side []) s = .next s ∧
       exec (.agingMonitorRead side [.site layer x y]) s = .next (s.modSide side fun d => d.schedule (layer, x, y)) ∧
       exec (.agingMonitorRead side [.link l]) s = .next (s.spareLink l) ∧
       ∀ (g : AgingSite) (rest : List AgingSite) (u : State), exec (.agingMonitorRead side [g]) s = .next u → u.keeperUp side = true →
         exec (.agingMonitorRead side (g :: rest)) s = exec (.agingMonitorRead side rest) u) ∧
     (s.keeperUp side = false → exec (.agingMonitorRead side [.link l]) s = .next s ∧ exec (.l2WayDisable side way) s = .next s ∧
       exec (.sramRemap side bank column) s = .next s)) ∧
  (∀ (s : State) (b tile slot code side page pa : Nat) (r : RecId) (p : Resident) (a : TileAddr) (acc : Acc) (u : Machine.Tile)
       (x : Billet),
     let f : FaultInfo := { cls := clsUe, cid := p.cid, baddr := b, tile := tile, slot := slot, page := p.page, detail := code,
                            rslot := p.launch.slot, queue := p.launch.queue }
     let v := (s.writeRecord f).logRecord f
     let ends (v : State) : State :=
       let w := ({ v with sparse := v.sparse.filter fun o => !(o.tile == a && o.acc == acc.id) } : State).modTile a fun t =>
         ({ t with flights := t.flights.filter fun f => f.hold ≠ some acc.id } : Machine.Tile).modNode (posOf acc.blk acc.slot) fun n =>
           { n with trapped := n.trapped ++ [t.chainKey acc.blk acc.tag] }
       let code := w.lineCode (sideOf a.b) pa
       (if code = 8 then w.badLine pa else w).ueBillet a.b code pa a.t (posOf acc.blk acc.slot) (some acc.tag)
     ((s.billet b).page = some p → (s.billet b).isFrozen = false →
       exec (.ue (.billet b tile slot code)) s = .next { v with due := v.due ++ [.ue p.launch b] }) ∧
     ((s.billet b).page = some p → (s.billet b).isFrozen = true → exec (.ue (.billet b tile slot code)) s = .next v) ∧
     ((s.billet b).page = none →
       exec (.ue (.billet b tile slot code)) s = .next (s.logRecord { cls := clsUe, baddr := b, tile := tile, slot := slot, detail := code })) ∧
     ((s.tile a).readerOf (lineOf pa) = some (acc, u) → exec (.ue (.line a pa)) s = .next (ends (s.modTile a fun _ => u))) ∧
     ((s.tile a).readerOf (lineOf pa) = none →
       ((s.billet a.b).watcherOf a.t (lineOf pa) = some (acc, x) → exec (.ue (.line a pa)) s = .next (ends (s.setBillet a.b x))) ∧
       ((s.billet a.b).watcherOf a.t (lineOf pa) = none → exec (.ue (.line a pa)) s = .next s)) ∧
     exec (.ue (.scrub pa)) s = .next ((s.logRecord { cls := clsUe, detail := s.lineCode (pageSide (pa / 65536)) pa, addr := pa }).badLine pa) ∧
     exec (.ue (.record r page)) s = .next (s.ueRecord r page) ∧
     exec (.ue (.steward b)) s = .next (s.ueBillet b 9 0) ∧
     exec (.ue (.frontDesk side)) s = .next (s.ueDesk side) ∧
     exec (.ue (.innkeeper side)) s = .next ((s.logRecord { cls := clsUe, detail := 0x0A }).modSide side fun d =>
       { d with innkeeperDown := true }) ∧
     ((s.side side).innkeeperDown = true →
       exec (.innkeeperRestart side) s = .next
         (((s.modSide side fun d => { d with innkeeperDown := false }).unfreeze (s.billetsOn side) [.keeper]).resumeStep side)) ∧
     ((s.side side).innkeeperDown = false → exec (.innkeeperRestart side) s = .next s))

/-- R418, R434 to R436: eight failed CRCs in a row ask for a retrain, or, where they were replays on one bond of a vertical or mesh link, for
its repair; a request joins its link's FIFO, or waits for room in it, and runs when no other does, a lost link takes none; a retrain that
succeeds has done what it was asked for, one that fails loses the link, and the next request runs. The links are the model's choice, and
which failures are of one bond is a free number (log entry 34). -/
def Obligations.LinksRetrain : Prop := ∀ (s : State) (l : LinkId) (md rate : Nat) (q : LinkReq),
  let k := s.link (linkKey l)
  let ask (q : LinkReq) : State := s.modLink (linkKey l) fun k => (k.join q).start
  let done : State := s.modLink (linkKey l) fun k => { k with running := none, crcFails := 0 }
  (k.crcFails < 7 → exec (.flitCrcFail l) s = .next (s.modLink (linkKey l) fun k => { k with crcFails := k.crcFails + 1 })) ∧
  (k.crcFails = 7 → exec (.flitCrcFail l) s = .next ((s.draw.2.modLink (linkKey l) fun k => { k with crcFails := 0 }).linkRequest l
    (if LinkKind.ucie l.kind = false ∧ s.draw.1 % 2 = 1 then .repair (s.draw.1 / 2) else .retrain))) ∧
  (k.lost = false → exec (.linkRetrain l) s = .next (ask .retrain)) ∧
  (k.lost = false → md < 4 → exec (.laneRepair l md) s = .next (ask (.repair md))) ∧
  (k.lost = false → LinkKind.ucie l.kind = false → exec (.laneRepair l md) s = .next (ask (.repair md))) ∧
  (k.lost = false → md < 4 → LinkKind.ucie l.kind = true → exec (.widthChange l md) s = .next (ask (.width md))) ∧
  (k.lost = false → exec (.frequencyChange l rate) s = .next (ask (.freq rate))) ∧
  (4 ≤ md → LinkKind.ucie l.kind = true → exec (.laneRepair l md) s = .next s) ∧
  ((4 ≤ md ∨ LinkKind.ucie l.kind = false) → exec (.widthChange l md) s = .next s) ∧
  (k.lost = true → exec (.linkRetrain l) s = .next s ∧ exec (.laneRepair l md) s = .next s ∧ exec (.widthChange l md) s = .next s ∧
    exec (.frequencyChange l rate) s = .next s) ∧
  (k.running = some q → exec (.linkRetrainDone l true) s = .next ((done.applyLink l q).modLink (linkKey l) Link.start)) ∧
  (k.running = some q → exec (.linkRetrainDone l false) s = .next
    (((done.linkRecords l l.port).loseLink l).modLink (linkKey l) Link.start)) ∧
  (k.running = none → ∀ good, exec (.linkRetrainDone l good) s = .next s)

/-! ### Clocks and time (R9, R373 to R376, R428, R443, R444, R451) -/

/-- R428, R451: heat or a power cap steps a side's clock down by one code, never below the slowest; after 100 ms it may step up, never above
what the roles give; a step freezes the side's billets until the clock has changed, and a second one waits for it; the step of a role change
ends with that change (R430). A thermal shutdown stops the device; a power cap outside its range is ignored. R9, R36, R38, R392: at the end
of an fc of a side its billets end theirs, off signals are sent, what a freeze holds is due an fc later, the DTB goes on with side 0, and
the side's fc is over. Sensors are events from outside (log entry 33), and what a freeze holds moves with it by the model's choice (log
entry 47). -/
def Obligations.ClocksStep : Prop :=
  (∀ (s : State) (side c watts : Nat),
     let d := s.side side
     let step (to_ : Nat) : State := (s.freeze (s.billetsOn side) .clock).modSide side fun d => { d with stepTo := some to_, stepNs := s.ns }
     (s.keeperUp side = true → d.stepTo = none →
       (d.clk < 2 → exec (.thermalStepDown side) s = .next (step (d.clk + 1)) ∧ exec (.powerCapExceeded side) s = .next (step (d.clk + 1))) ∧
       (2 ≤ d.clk → exec (.thermalStepDown side) s = .next s ∧ exec (.powerCapExceeded side) s = .next s) ∧
       (d.baseClk < d.clk → d.stepNs + 100000000 ≤ s.ns → exec (.thermalStepUp side) s = .next (step (d.clk - 1))) ∧
       ((d.clk ≤ d.baseClk ∨ s.ns < d.stepNs + 100000000) → exec (.thermalStepUp side) s = .next s)) ∧
     ((s.keeperUp side = false ∨ d.stepTo = some c) →
       exec (.thermalStepDown side) s = .next s ∧ exec (.powerCapExceeded side) s = .next s ∧ exec (.thermalStepUp side) s = .next s) ∧
     (s.keeperUp side = true → d.stepTo = some c →
       (d.roleClock = false → exec (.clockStepResume side) s = .next (
         let t := (s.modSide side fun d => { d with clk := c, stepTo := none }).unfreeze (s.billetsOn side) [.clock]
         t.fabricTo 2 side (s.launchCtxs side))) ∧
       (d.roleClock = true → exec (.clockStepResume side) s = .next s)) ∧
     ((s.keeperUp side = false ∨ d.stepTo = none) → exec (.clockStepResume side) s = .next s) ∧
     (∃ f : FaultInfo, exec (.thermalShutdown) s = .next { s.logRecord f with power := .shutdown }) ∧
     (200 ≤ watts → watts ≤ 450 → exec (.pwrcapI3cWrite watts) s = .next { s with pwrCap := BitVec.ofNat 9 watts }) ∧
     (watts < 200 ∨ 450 < watts → exec (.pwrcapI3cWrite watts) s = .next s)) ∧
  (∀ (s : State) (side : Nat),
     let u := ((((s.endBillets side).endSignals side).endEdges side).holdFrozen side).passFreezes side
     (side = 0 → exec (.stallCounterUpdate side) s = .next (u.endTime.passFc side)) ∧
     (side ≠ 0 → exec (.stallCounterUpdate side) s = .next (u.passFc side)))

/-- R374 to R376, R444: a measurement above +1 ms steps the DTB forward, and its time of the last edge with it, any other is slewed, one of 0
only counts, and 16 good ones in a row lock it; an edge counts with the valid line that follows it within 500 ms, less what was slewed since
the edge, and without one as a second after the edge before; the DTB holds over at its last rate when its source is lost, and a slew ends at
offset 0. DTBREAD latches the time, and TSYNCWRITE clears STEPPED and selects a source.
Rates and missing lines are read as log entry 35 says. -/
def Obligations.TimeDisciplined : Prop := ∀ (s : State) (src : Int) (line : List Byte) (v : Nat) (m : MbReq),
  let d := s.dtb
  let off := src - (s.ns : Int)
  let good := if off.natAbs ≤ 50 then d.good + 1 else 0
  let d1 := { d with toffset := satI32 off, good := good, locked := decide (16 ≤ good), holdover := false }
  (d.src = 1 → 1000000 < off → exec (.ptmDialogue src) s = .next { s with dtb :=
    { d1 with ns := d.ns + BitVec.ofInt 64 off, lastEdgeNs := ((d.lastEdgeNs : Int) + off).toNat, stepped := true, slewing := false, slew := 0
              rate := 0 } }) ∧
  (d.src = 1 → off ≤ 1000000 → off ≠ 0 → exec (.ptmDialogue src) s = .next { s with dtb :=
    { d1 with slewing := true, slew := off * 65536, slow := decide (off < -1000000), rate := 0 } }) ∧
  (d.src = 1 → off = 0 → exec (.ptmDialogue src) s = .next { s with dtb := ({ d1 with slew := 0, rate := 0 } : Dtb) }) ∧
  (d.src ≠ 1 → exec (.ptmDialogue src) s = .next s) ∧
  (d.src ≠ 2 → exec .ppsEdge s = .next s ∧ exec (.ztodLine line) s = .next s) ∧
  (d.src = 2 → d.edgePending = false → exec .ppsEdge s = .next { s with dtb := { d with lastEdgeNs := d.ns.toNat, edgePending := true, since := 0 } }) ∧
  (d.src = 2 → d.edgePending = true →
    exec .ppsEdge s = .next { s with dtb := { d.edgeNext with lastEdgeNs := d.edgeNext.ns.toNat, edgePending := true, since := 0 } }) ∧
  (d.src = 2 → d.edgePending = true → s.ns ≤ d.lastEdgeNs + 500000000 →
    (ztodOf line = some v →
      exec (.ztodLine line) s = .next { s with dtb :=
        ({ d with lastEdge := some v, edgePending := false, since := 0 } : Dtb).measure ((v * 1000000000 : Nat) - d.lastEdgeNs) d.since }) ∧
    (ztodOf line = none → exec (.ztodLine line) s = .next { s with dtb := d.edgeNext })) ∧
  ((d.src = 1 ∨ (d.src = 2 ∧ d.lastEdgeNs + 2000000000 ≤ s.ns)) → exec .holdover s = .next { s with dtb :=
    { d with holdover := true, slewing := false, slew := 0, good := 0, locked := false, edgePending := false } }) ∧
  (d.slewing = true → d.slew = 0 → exec .slewComplete s = .next { s with dtb := { d with slewing := false, slow := false, rate := 0 } }) ∧
  ((d.slewing = false ∨ d.slew ≠ 0) → exec .slewComplete s = .next s) ∧
  (s.Takes m 0x40 → m.pf0 = true → m.endsAt 0 = true →
    s.Does (.dtbread m) m 0x40 (fun u => { u with dtb := d.latch }) [(0, half d.ns false), (1, half d.ns true), (2, d.sub.zeroExtend 32),
      (3, BitVec.ofNat 32 d.tsync), (4, d.toffset)]) ∧
  (s.Takes m 0x43 → m.pf0 = true → m.endsAt 1 = true → s.Does (.tsyncwrite m) m 0x43 (fun u => { u with dtb := d.writeTsync (nthD 0 m.args 0) }) [])

/-! ### The mailbox (R321, R341, R342, R369 to R371, R401, R412, R420, R421, R425 to R430, R438 to R443) -/

/-- R440 to R442: a command that comes while the function runs one, or that the device does not take in its boot, is ignored, with its
registers written, and one to a function that the host does not reach changes nothing; from a function that may not issue it it is BADOP;
with an argument bit outside its table it is REFUSED. R419: while the Innkeeper of side 0 is down a command waits, and is applied once it
acts again. R438, R440, R441, R446: through BAR 0, MBCMD and MBARG keep what is written and read it back, GO starts the command that they
hold, a code without a command completes with BADOP, and a word of the MSI-X table is kept. The order of the checks, and words beyond a
command's own that must be zero, are the model's reading (log entry 31). -/
def Obligations.MailboxChecks : Prop :=
  (∀ (s : State) (m : MbReq) (i : Instr) (op : Nat) (may args : Bool),
     (i, op, may, args) ∈ ([(.ctxwrite m, 0x01, m.pf0, m.fits 0 7 && m.endsAt 9), (.ctxread m, 0x02, m.pf0, m.fits 0 7 && m.endsAt 1),
       (.qrange m, 0x03, m.pf0, m.fits 0 10 && m.fits 1 14 && m.fits 2 15 && m.endsAt 3), (.qinstall m, 0x10, true, m.fits 0 14 && m.endsAt 17),
       (.qdestroy m, 0x11, true, m.fits 0 14 && m.endsAt 1),
       (.fqinstall m, 0x12, true, m.fits 0 7 && m.vaOk 1 && fld (m.arg 3) 4 4 == 0 && m.fits 3 11 && m.endsAt 4),
       (.inval m, 0x20, true, fld (m.arg 0) 7 1 == 0 && m.fits 0 9 &&
         if fld (m.arg 0) 8 1 == 1 then m.endsAt 1 else m.vaOk 1 && m.fits 3 21 && m.endsAt 4),
       (.faultresume m, 0x21, true, m.fits 0 7 && m.vaOk 1 && m.endsAt 3), (.faultabort m, 0x22, true, m.fits 0 7 && m.vaOk 1 && m.endsAt 3),
       (.rebalance m, 0x30, m.pf0, m.fits 0 7 && fld (m.arg 1) 14 2 == 0 && fld (m.arg 2) 9 7 == 0 && m.fits 2 17 && m.endsAt 3),
       (.setrole m, 0x31, m.pf0, m.fits 0 1 && m.fits 1 8 && m.endsAt 2), (.debugPermit m, 0x32, true, m.fits 0 7 && m.endsAt 2),
       (.dtbread m, 0x40, m.pf0, m.endsAt 0), (.faultlog m, 0x41, m.pf0, fld (m.arg 0) 6 2 == 0 && m.fits 0 13 && m.endsAt 1),
       (.regread m, 0x42, m.pf0, m.fits 0 8 && m.endsAt 2), (.tsyncwrite m, 0x43, m.pf0, m.endsAt 1),
       (.regwrite m, 0x44, m.pf0, m.fits 0 8 && m.endsAt 3), (.setpwrC0 m, 0x50, m.pf0, m.arg 0 == 0 && m.endsAt 1),
       (.setpwrC2 m, 0x50, m.pf0, m.arg 0 == 2 && m.endsAt 1), (.setpwrC3 m, 0x50, m.pf0, m.arg 0 == 3 && m.endsAt 1),
       (.fwwrite m, 0x60, m.pf0, m.fits 0 13 && ((m.args.take 256).drop 1).all fun w => w == 0), (.fwcommit m, 0x61, m.pf0, m.endsAt 1)] :
       List (Instr × Nat × Bool × Bool)) →
     s.Fresh m →
     let taken := s.mbAccept m (BitVec.ofNat 16 op)
     (s.goWaits.head? ≠ some (m, op) →
       (s.barUp m.fn = false → exec i s = .next s) ∧
       (s.barUp m.fn = true → (s.mbUp m.fn op = false ∨ (s.func m.fn).state = .running) →
         exec i s = .next (s.mbWrite m (BitVec.ofNat 16 op))) ∧
       (s.Hears m op → s.mbServes = false → exec i s = .next { taken with goWaits := s.goWaits ++ [(m, op)] })) ∧
     (s.Takes m op → may = false → exec i s = .next (taken.mbFinish m.fn .badop [])) ∧
     (s.Takes m op → may = true → args = false → exec i s = .next (taken.mbFinish m.fn .refused [])) ∧
     (s.goWaits.head? = some (m, op) →
       let now : State := { s with goWaits := s.goWaits.drop 1 }
       (s.mbServes = false → exec i s = .next s) ∧
       (s.mbServes = true → may = false → exec i s = .next (now.mbFinish m.fn .badop [])) ∧
       (s.mbServes = true → may = true → args = false → exec i s = .next (now.mbFinish m.fn .refused [])))) ∧
  (∀ (s : State) (fn i : Nat) (v go : Word) (j : Instr), s.barUp fn = true →
     let f := s.func fn
     (∃ t, s.barWrite fn 0x10000 v = .next t ∧ (t.func fn).mailboxRead 0x10000 = v ∧ (t.func fn).args = f.args ∧ (t.func fn).state = f.state) ∧
     (i < 512 → ∃ t, s.barWrite fn (0x10040 + 4 * i) v = .next t ∧
       (t.func fn).mailboxRead (0x10040 + 4 * i) = v ∧ (t.func fn).cmdOp = f.cmdOp ∧ (t.func fn).state = f.state) ∧
     (i < 4 * vectorsOf fn → f.pending = [] → ∃ t, s.barWrite fn (0x11000 + 4 * i) v = .next t ∧
       (t.func fn).vectorWord i = v ∧ (t.func fn).args = f.args ∧ t.msix = s.msix) ∧
     (go.getLsbD 0 = true → goRow f.cmdOp.toNat (f.request fn) = some j → s.barWrite fn 0x10008 go = exec j s) ∧
     (go.getLsbD 0 = true → goRow f.cmdOp.toNat (f.request fn) = none → s.mbUp fn f.cmdOp.toNat = true → f.state ≠ .running →
       s.barWrite fn 0x10008 go = .next ((s.mbAccept (f.request fn) f.cmdOp).mbFinish fn .badop [])) ∧
     (go.getLsbD 0 = false → s.barWrite fn 0x10008 go = .next s))

/-- R341, R342, R321, R412, R438: CTXWRITE writes an entry whose checks pass, tears one down that it makes invalid, and is BUSY while the
entry ends; CTXREAD returns its 256 bits; QRANGE gives a function its queues; QINSTALL installs a queue and QDESTROY removes one that has
nothing in execution; FQINSTALL installs a fault queue with its header. R420, R425 to R430, R442, R443: FAULTLOG returns 1 to 16 records
with the log's position; REGREAD returns a register, and is REFUSED for any other code; REGWRITE writes DV_PWRCAP within its range; SETROLE with a
legal pattern starts the role change and takes its first step, and takes the next one while it is under way. The readings of log entries 31
and 39 hold. -/
def Obligations.MailboxInstalls : Prop :=
  (∀ (s : State) (m : MbReq) (q : VQueue),
     let cid := m.arg 0
     let n := ((List.range 8).map fun k => m.arg (k + 1) * 2 ^ (32 * k)).sum
     let w := (s.ctx cid).toNat (s.residentOf cid)
     let dq := (s.func m.fn).qbase + m.arg 0
     let fq := fld (m.arg 3) 0 4
     (s.Takes m 0x01 → m.pf0 = true → m.fits 0 7 = true → m.endsAt 9 = true → (s.ctx cid).teardown = false → (s.ctx cid).zeroing = false →
       ((s.ctx cid).valid = false ∨ n % 2 = 1) →
       let u := s.modCtx cid fun c => c.ofNat n
       entryReserved n = true → u.ctxTableOk (u.ctx cid) = true →
       s.Does (.ctxwrite m) m 0x01 (fun t => ((t.modCtx cid fun c => c.ofNat n).shrink cid).placeSlots) []) ∧
     (s.Takes m 0x01 → m.pf0 = true → m.fits 0 7 = true → m.endsAt 9 = true → (s.ctx cid).teardown = false → (s.ctx cid).zeroing = false →
       (s.ctx cid).valid = true → n % 2 = 0 → exec (.ctxwrite m) s =
         .next (((s.mbAccept m 0x01).startZeroing cid).modFunc m.fn fun f => { f with waits := some (.zero cid) })) ∧
     (s.Takes m 0x01 → m.pf0 = true → m.fits 0 7 = true → m.endsAt 9 = true → ((s.ctx cid).teardown = true ∨ (s.ctx cid).zeroing = true) →
       exec (.ctxwrite m) s = .next ((s.mbAccept m 0x01).mbFinish m.fn .busy [])) ∧
     (s.Takes m 0x02 → m.pf0 = true → m.fits 0 7 = true → m.endsAt 1 = true →
       s.Does (.ctxread m) m 0x02 id ((List.range 8).map fun k => (k + 1, BitVec.ofNat 32 (w / 2 ^ (32 * k))))) ∧
     (s.Takes m 0x03 → m.pf0 = true → m.fits 0 10 = true → m.fits 1 14 = true → m.fits 2 15 = true → m.endsAt 3 = true →
       m.arg 0 ≤ 512 → m.arg 1 + m.arg 2 ≤ 16384 → (s.mbAccept m 0x03).rangeFree (m.arg 0) (m.arg 1) (m.arg 2) = true →
       s.Does (.qrange m) m 0x03 (fun t => t.modFunc (m.arg 0) fun f => { f with qbase := m.arg 1, qcount := m.arg 2 }) []) ∧
     (s.Takes m 0x10 → m.fits 0 14 = true → m.endsAt 17 = true → m.arg 0 < (s.func m.fn).qcount → s.owns m.fn (installQueue m).cid = true → m.descOk = true →
       s.ctxOpen (installQueue m).cid = true → s.queue? dq = none →
       s.Does (.qinstall m) m 0x10 (fun t => t.setQueue dq (installQueue m)) [(0, BitVec.ofNat 32 dq)]) ∧
     (s.Takes m 0x11 → m.fits 0 14 = true → m.endsAt 1 = true → m.arg 0 < (s.func m.fn).qcount → s.queue? dq = some q →
       (s.owns m.fn q.cid = false → exec (.qdestroy m) s = .next ((s.mbAccept m 0x11).mbFinish m.fn .badop [])) ∧
       (s.owns m.fn q.cid = true → q.recs.any Rec.busy = false → s.Does (.qdestroy m) m 0x11 (fun t => t.destroyQueue dq) []) ∧
       (s.owns m.fn q.cid = true → q.recs.any Rec.busy = true → exec (.qdestroy m) s = .next ((s.mbAccept m 0x11).mbFinish m.fn .refused []))) ∧
     (s.Takes m 0x12 → m.fits 0 7 = true → m.vaOk 1 = true → fld (m.arg 3) 4 4 = 0 → m.fits 3 11 = true → m.endsAt 4 = true →
       s.owns m.fn cid = true → s.ctxOpen cid = true → 4 ≤ fq → fq ≤ 12 → m.arg2 1 % 64 = 0 →
       s.Does (.fqinstall m) m 0x12 (fun t => (t.modCtx cid fun c =>
         { c with fq := some { va := m.arg2 1, log2 := fq, vec := fld (m.arg 3) 8 3 } }).faultHeader cid (m.arg2 1)) [])) ∧
  (∀ (s : State) (m : MbReq) (v : Nat) (rs : List Role),
     let side := m.arg 0
     let u := (s.mbAccept m 0x31).modSide side fun d => { d with roleTo := some rs, roleHit := d.changed rs, roleReq := some m }
     (s.Takes m 0x41 → m.pf0 = true → fld (m.arg 0) 6 2 = 0 → m.fits 0 13 = true → m.endsAt 1 = true →
       let k := fld (m.arg 0) 8 5
       (1 ≤ k → k ≤ 16 → s.Does (.faultlog m) m 0x41 id ((0, BitVec.ofNat 32 s.faultLogNext) ::
         (((List.range k).flatMap fun i => nthD (List.replicate 16 0) s.faultLog ((m.arg 0 % 64 + i) % 64)).zipIdx.map fun (w, i) =>
           (16 + i, w)))) ∧
       ((k = 0 ∨ 16 < k) → exec (.faultlog m) s = .next ((s.mbAccept m 0x41).mbFinish m.fn .refused []))) ∧
     (s.Takes m 0x42 → m.pf0 = true → m.fits 0 8 = true → m.endsAt 2 = true →
       (s.regRead (m.arg 0) (m.arg 1) = some v → s.Does (.regread m) m 0x42 id [(2, BitVec.ofNat 32 v)]) ∧
       (s.regRead (m.arg 0) (m.arg 1) = none → exec (.regread m) s = .next ((s.mbAccept m 0x42).mbFinish m.fn .refused []))) ∧
     (s.Takes m 0x44 → m.pf0 = true → m.endsAt 3 = true → m.arg 0 = 5 → m.arg 1 = 0 →
       (200 ≤ m.arg 2 → m.arg 2 ≤ 450 → s.Does (.regwrite m) m 0x44 (fun t => { t with pwrCap := BitVec.ofNat 9 (m.arg 2) }) []) ∧
       ((m.arg 2 < 200 ∨ 450 < m.arg 2) → exec (.regwrite m) s = .next ((s.mbAccept m 0x44).mbFinish m.fn .refused []))) ∧
     (s.Takes m 0x31 → s.Fresh m → m.pf0 = true → m.fits 0 1 = true → m.fits 1 8 = true → m.endsAt 2 = true → s.power = .c0 →
       s.entering = false → rolesOf (m.arg 1) = some rs → (s.mbAccept m 0x31).roleOk side rs = true → side < s.sides.length →
       (s.side side).innkeeperDown = false →
       exec (.setrole m) s = .next ((u.modFunc m.fn fun f => { f with waits := some (.role side) }).roleStep side)) ∧
     (s.roleUnderWay m = true → s.keeperUp side = true → exec (.setrole m) s = .next (s.roleStep side)))

/-- R368 to R371, R190, R353, R416, R421: an access of a context of which no translation is cached walks, and one that meets a cached leaf
uses it as it stands, unless it writes and finds D = 0; INVAL waits while the eight dies remove the translations it names, one after the
other, and then completes once no translated access of its context is left and none of the bytes it wrote through them is dirty;
FAULTRESUME wakes and FAULTABORT ends what is held on a granule; REBALANCE moves a page to a free billet; DEBUG_PERMIT permits a session; a
context's zeroing ends its teardown. Where translations are cached and how dies acknowledge (log entry 10) and what a teardown zeroes (log
entry 32) are read as the log says. -/
def Obligations.MailboxTranslates : Prop := ∀ (s : State) (m : MbReq) (fn cid b t : Nat) (ts : List Nat) (range : Option (Nat × Nat)),
  let c := m.arg 0
  let g := m.arg2 1 / 65536
  let r : RecId := ⟨m.arg 1 % 2 ^ 14, fld (m.arg 1) 16 16⟩
  let k := m.arg 2 % 512
  let u := s.mbAccept m 0x30
  let cleared := (s.mbAccept m 0x20).modFunc m.fn fun f => { f with acks := 0, removed := [] }
  (s.Takes m 0x20 → fld (m.arg 0) 7 1 = 0 → m.fits 0 9 = true → s.owns m.fn (m.arg 0 % 128) = true →
    (fld (m.arg 0) 8 1 = 1 → m.endsAt 1 = true →
      exec (.inval m) s = .next (cleared.modFunc m.fn fun f =>
        { f with waits := some (.inval (m.arg 0 % 128) none) })) ∧
    (fld (m.arg 0) 8 1 = 0 → m.vaOk 1 = true → m.fits 3 21 = true → m.endsAt 4 = true → m.arg2 1 % 65536 = 0 → m.arg 3 ≠ 0 → m.arg 3 ≤ 2 ^ 20 →
      exec (.inval m) s = .next (cleared.modFunc m.fn fun f =>
        { f with waits := some (.inval (m.arg 0 % 128) (some (m.arg2 1, m.arg 3 * 65536))) }))) ∧
  (∀ va w, (∀ e ∈ s.tlb, e.cid ≠ cid) → (s.translateAt b cid va w).map Prod.fst = s.walk cid va) ∧
  (∀ va w j e, s.tlbFind b cid va = some (j, e) → (w = false ∨ e.d = true) → (s.translateAt b cid va w).map Prod.fst = some (e.leaf va)) ∧
  ((s.func fn).waits = some (.inval cid range) →
    ((s.func fn).acks < 8 → exec (.invalidationComplete fn) s = .next (s.ackInval fn (s.func fn).acks cid range)) ∧
    (8 ≤ (s.func fn).acks → s.translationsIdle cid (s.func fn).removed = true → exec (.invalidationComplete fn) s =
      .next (s.modFunc fn fun f => { f with waits := none, state := .done, result := .ok })) ∧
    (8 ≤ (s.func fn).acks → s.translationsIdle cid (s.func fn).removed = false → exec (.invalidationComplete fn) s = .next s)) ∧
  ((s.func fn).waits = none → exec (.invalidationComplete fn) s = .next s) ∧
  (s.Takes m 0x21 → m.faultArgs = true → s.owns m.fn c = true →
    s.Does (.faultresume m) m 0x21 (fun t => (t.wakeAll c g).answered c g) []) ∧
  (s.Takes m 0x22 → m.faultArgs = true → s.owns m.fn c = true →
    s.Does (.faultabort m) m 0x22 (fun t => ((t.wakePages c g true).abortRecs c g).answered c g) []) ∧
  (s.Takes m 0x30 → s.Fresh m → m.pf0 = true → m.fits 0 7 = true → fld (m.arg 1) 14 2 = 0 → fld (m.arg 2) 9 7 = 0 → m.fits 2 17 = true →
    m.endsAt 3 = true → s.power = .c0 → s.entering = false →
    (u.movable c r k = some b → u.freeBillets (fld (m.arg 2) 16 1) = t :: ts →
      exec (.rebalance m) s = .next ((u.draw.2.modBillet b fun x =>
        { x with evict := some { relocate := some (nthD t (t :: ts) (u.draw.1 % (ts.length + 1))) } }).modFunc m.fn fun f =>
          { f with waits := some (.page r k) })) ∧
    ((u.movable c r k = none ∨ u.freeBillets (fld (m.arg 2) 16 1) = []) → exec (.rebalance m) s = .next (u.mbFinish m.fn .refused []))) ∧
  (s.Takes m 0x32 → m.fits 0 7 = true → m.endsAt 2 = true → s.owns m.fn c = true → (s.sessions.any fun x => x.id = m.arg 1) = true → s.ctxOpen c = true →
    s.Does (.debugPermit m) m 0x32 (fun t => t.permit (m.arg 1) c) []) ∧
  ((s.ctx cid).zeroing = true → s.power = .c0 →
    exec (.zeroingComplete cid) s = .next ((((s.zeroPages cid).modCtx cid fun _ => {}).waitsDone (.zero cid)).readyFns)) ∧
  ((s.ctx cid).zeroing = false → exec (.zeroingComplete cid) s = .next s)

/-! ### Power, firmware, debug and attestation (R421 to R424, R437, R445 to R450) -/

/-- R437, R446 to R450: SETPWR to C0 calls for a wake, to C2 freezes every launch in place, to C3 empties every billet first, and is BUSY
while a launch with a deadline runs, the fabric changes or a change of power is under way; a called wake returns to C0 after its latency;
D3hot keeps DTB, fault log, flash and fuses, and no page, local store, flit or translation, and its exit wakes; a reset stops what its
function runs, with its queues and debug sessions, gives it the mailbox after reset, and writes no memory where no stop of a debugger ends
with it, and that of PF0 reaches every function; removed main power keeps the flash, the fuses, the repairs and the host's memory, on
auxiliary power DTB and fault log too, and nothing else, and damages an image that is being written; a slot that verifies boots, any other
one is in recovery; FWWRITE stages a piece, and FWCOMMIT writes a staged image that verifies, and then resets a device that was in recovery.
The readings of log entries 36 to 38, 68 and 72 hold, and the verification is opaque (log entry 46). -/
def Obligations.PowerChanges : Prop := ∀ (s : State) (m : MbReq) (fn : Nat),
  let boots := s.coldReset.applyRepairs.setDesks
  let piece := bytesOfWords ((List.range 256).map fun k => nthD 0 m.args (256 + k))
  let cold : Prop := s.boot = .notBooted ∨ s.power = .d3cold ∨ s.power = .shutdown
  (s.Takes m 0x50 → s.Fresh m → m.pf0 = true → m.endsAt 1 = true → s.powerBusy = false →
    (m.arg 0 = 0 → s.power = .c0 → s.Does (.setpwrC0 m) m 0x50 id []) ∧
    (m.arg 0 = 0 → s.power ≠ .c0 → exec (.setpwrC0 m) s = .next ((s.mbAccept m 0x50).startWake.modFunc m.fn fun f =>
      { f with waits := some .wake })) ∧
    (m.arg 0 = 2 → s.Does (.setpwrC2 m) m 0x50 State.enterC2 []) ∧
    (m.arg 0 = 3 → s.power = .c3 → s.Does (.setpwrC3 m) m 0x50 id []) ∧
    (m.arg 0 = 3 → s.power = .c0 → exec (.setpwrC3 m) s = .next (({ s.mbAccept m 0x50 with entering := true, enterReq := some m }.modFunc m.fn
      fun f => { f with waits := some .power }).stepC3))) ∧
  (s.enterReq = some m → exec (.setpwrC3 m) s = .next s.stepC3) ∧
  (s.Takes m 0x50 → s.Fresh m → m.pf0 = true → m.endsAt 1 = true → s.powerBusy = true → ∀ i ∈ [Instr.setpwrC0 m, .setpwrC2 m, .setpwrC3 m],
    ∀ k, (i, k) ∈ [(Instr.setpwrC0 m, 0), (.setpwrC2 m, 2), (.setpwrC3 m, 3)] → m.arg 0 = k →
    exec i s = .next ((s.mbAccept m 0x50).mbFinish m.fn .busy [])) ∧
  ((s.power = .c2 ∨ s.power = .c3) →
    (∀ t, s.wakeAt = some t → (t ≤ s.ns → exec .powerWake s = .next s.wake) ∧ (s.ns < t → exec .powerWake s = .next s)) ∧
    (s.wakeAt = none → s.wakeCalled = true → exec .powerWake s = .next { s with
      wakeAt := some (s.ns + if s.power = .c2 then 15000 else 600000), wakeAsked := false }) ∧
    (s.wakeAt = none → s.wakeCalled = false → exec .powerWake s = .next s)) ∧
  ((s.power ≠ .c2 ∧ s.power ≠ .c3) → exec .powerWake s = .next s) ∧
  ((s.power = .c0 ∨ s.power = .c2 ∨ s.power = .c3) → s.boot = .running →
    ∃ t, exec .d3hotEntry s = .next t ∧ t.power = .d3hot ∧ t.billets = [] ∧ t.scr = [] ∧ t.flits = [] ∧ t.late = [] ∧ t.tlb = [] ∧
      (s.sides.length = 2 → ∀ d ∈ t.sides, d.knocks = [] ∧ d.l2 = [] ∧ d.rdc = []) ∧
      t.dtb = s.dtb ∧ t.faultLog = s.faultLog ∧ t.flash = s.flash ∧ t.minSvn = s.minSvn ∧ t.keyHash = s.keyHash) ∧
  (s.boot ≠ .running → exec .d3hotEntry s = .next s) ∧
  ((s.power = .c0 ∨ s.power = .c2 ∨ s.power = .c3 ∨ s.power = .d3hot) → (s.boot = .running ∨ (s.boot = .recovery ∧ fn = 0)) →
    (fn ≠ 0 → exec (.functionLevelReset fn) s = .next (s.resetFn fn).askWake) ∧
    (fn = 0 → exec (.functionLevelReset fn) s = .next (s.resetFns (s.resetSet 0)).askWake)) ∧
  ((s.boot = .notBooted ∨ (s.boot = .recovery ∧ fn ≠ 0)) → exec (.functionLevelReset fn) s = .next s) ∧
  (let t := s.resetFn fn
   let f := s.func fn
   (∀ c, (s.ctx c).valid = true → (s.ctx c).func.toNat = fn → (t.ctx c).zeroing = true) ∧
   (∀ q ∈ t.queues, q.1 < f.qbase ∨ f.qbase + f.qcount ≤ q.1) ∧ (∀ l ∈ t.launches, l.id.queue < f.qbase ∨ f.qbase + f.qcount ≤ l.id.queue) ∧
   (∀ x ∈ t.sessions, x.fn ≠ fn) ∧ (t.func fn).state = .idle ∧ (t.func fn).qcount = 0 ∧
   ((s.sessions.any fun x => x.fn == fn) = false → t.mem = s.mem) ∧ t.dtb = s.dtb ∧ t.faultLog = s.faultLog ∧ t.flash = s.flash ∧ t.power = s.power) ∧
  (∀ fn ≤ 512, (s.funcs.any fun p => p.1 == fn) = true → fn ∈ s.resetSet 0) ∧
  (s.power = .d3hot → exec .d3hotExit s = .next s.wake) ∧
  (s.power ≠ .d3hot → exec .d3hotExit s = .next s) ∧
  (∃ t, exec .mainPowerRemoved s = .next t ∧ t.power = .d3cold ∧ t.boot = .notBooted ∧ t.billets = [] ∧ t.launches = [] ∧ t.queues = [] ∧
    t.contexts = [] ∧ t.funcs = [] ∧ t.sessions = [] ∧ t.scr = [] ∧ t.flits = [] ∧
    t.mem = s.mem.filter (fun c => decide (Config.hostBase ≤ c.1)) ∧
    t.flash = s.flash ∧ t.keyHash = s.keyHash ∧ t.minSvn = s.minSvn ∧ t.withdrawn = s.withdrawn ∧ t.torn = (s.torn || s.writing.isSome) ∧
    t.sides = s.sides.map Side.repairs ∧
    (s.aux = true → t.dtb = s.dtb ∧ t.faultLog = s.faultLog) ∧ (s.aux = false → t.dtb = {} ∧ t.faultLog = [])) ∧
  (cold → boots.torn = false → boots.fwVerifies boots.flash = true → exec .powerOnBoot s = .next { boots with
    boot := .running, bootDigest := fwDigest boots.flash, bootSvn := fwSvn boots.flash, power := .c0
    identity := some (Config.identityKey true Config.deviceSecret (fwDigest boots.flash),
      Config.identityKey false Config.deviceSecret (fwDigest boots.flash))
    minSvn := if fwRaise boots.flash then fwSvn boots.flash else boots.minSvn }) ∧
  (cold → (boots.torn = true ∨ boots.fwVerifies boots.flash = false) → exec .powerOnBoot s = .next { boots with boot := .recovery, power := .c0 }) ∧
  (¬ cold → exec .powerOnBoot s = .next s) ∧
  (s.Takes m 0x60 → m.pf0 = true → m.fits 0 13 = true → (((m.args.take 256).drop 1).all fun w => w == 0) = true →
    s.Does (.fwwrite m) m 0x60 (fun t => { t with staging := Tbl.put (m.arg 0) piece t.staging }) []) ∧
  (s.Takes m 0x61 → s.Fresh m → m.pf0 = true → m.endsAt 1 = true → s.writing = none → m.arg 0 ≤ 8 * 2 ^ 20 →
    fwSize (s.staged (m.arg 0)) = m.arg 0 → s.fwVerifies (s.staged (m.arg 0)) = true →
    exec (.fwcommit m) s = .next (({ s.mbAccept m 0x61 with writing := some (s.staged (m.arg 0), m) } : State).modFunc m.fn fun f =>
      { f with waits := some .flash })) ∧
  (∀ img, s.writing = some (img, m) → s.power ≠ .d3cold → s.power ≠ .shutdown →
    let done := ({ s with flash := img, writing := none, torn := false } : State).waitsDone .flash
    (s.boot ≠ .recovery → exec (.fwcommit m) s = .next done) ∧
    (s.boot = .recovery → exec (.fwcommit m) s = .next { done.coldReset with power := .c0 })) ∧
  (s.Takes m 0x61 → s.Fresh m → m.pf0 = true → m.endsAt 1 = true → s.fwVerifies (s.staged (m.arg 0)) = false →
    exec (.fwcommit m) s = .next ((s.mbAccept m 0x61).mbFinish m.fn .refused []))

/-- R380, R394, R421, R422: a session begins and ends; ATTACH on a permitted context unlocks it and DETACH ends the unlock, and both are
refused without a permit; with an unlock STOP freezes a running launch and RESUME lets a stopped one go on from the exact point it held;
without an unlock every other command is refused. R405, R422 to R424: under an unlock STEP runs one firing of a node of a stopped launch, or
answers NOTREADY and changes nothing else, DISCARD frees what its node holds, SCANRD and SCANWR reach a frozen billet's chain but no station
word, MEMRD and MEMWR reach up to 4,096 bytes that may be reached and else refuse, BPSET and BPCLR a comparator, ROUTE a route. The readings
of log entries 41 and 42 hold. -/
def Obligations.DebugServes : Prop :=
  (∀ (s : State) (fn id : Nat) (d : DbgReq) (x : Session) (r : RecId) (l : Launch),
     (s.doeUp fn = true → (s.sessions.any fun x => x.id == id) = false →
       exec (.spdmSessionEstablish fn id) s = .next { s with sessions := s.sessions ++ [{ id := id, fn := fn }] }) ∧
     ((s.doeUp fn = false ∨ (s.sessions.any fun x => x.id == id) = true) → exec (.spdmSessionEstablish fn id) s = .next s) ∧
     exec (.spdmSessionEnd id) s = .next (s.dropSessions fun x => x.id == id) ∧
     (s.session? d.session = some x → x.permits.contains d.cid = true → exec (.attach d) s = .next ((s.modSession d.session fun x =>
       { x with unlocks := if x.unlocks.contains d.cid then x.unlocks else d.cid :: x.unlocks }).say .ok)) ∧
     (s.session? d.session = some x → x.permits.contains d.cid = true → exec (.detach d) s = .next ((((s.modSession d.session fun x =>
       { x with permits := x.permits.filter fun c => c ≠ d.cid, unlocks := x.unlocks.filter fun c => c ≠ d.cid }).endBreaks
         fun id cid => id == d.session && cid == d.cid).endStops d.cid).say .ok)) ∧
     ((∀ x, s.session? d.session = some x → x.permits.contains d.cid = false) →
       exec (.attach d) s = .next (s.say .refused) ∧ exec (.detach d) s = .next (s.say .refused)) ∧
     (s.unlocked d = true → s.launch? r = some l → l.cid = d.cid →
       (l.st = .running → exec (.stop d r) s = .next ((s.debugStop r).say .ok)) ∧
       (l.st ≠ .running → exec (.stop d r) s = .next (s.say .refused)) ∧
       (l.st = .stopped → exec (.resume d r) s = .next (((s.passBreak r).resumeLaunch r).say .ok)) ∧
       (l.st ≠ .stopped → exec (.resume d r) s = .next (s.say .refused)))) ∧
  (∀ (s : State) (d : DbgReq) (r : RecId) (n : NodeAddr) (i : Instr) (b off len va page idx k dest tile ch : Nat) (vs : List Bool)
       (bs : List Byte) (v : BitVec 192), s.unlocked d = false →
     i ∈ [.stop d r, .resume d r, .step d r n, .discard d r n, .scanrd d b off len, .scanwr d b off vs, .memrd d va len, .memwr d va bs,
       .bpset d page idx v, .bpclr d page idx, .route d r b k dest tile ch] →
     exec i s = .next (s.say .refused)) ∧
  (∀ (s t u : State) (d : DbgReq) (r : RecId) (n : NodeAddr) (i : Instr) (b off len va page idx k dest tile
       ch : Nat) (vs : List Bool) (bs : List Byte) (v : BitVec 192),
     s.unlocked d = true →
     (s.isStopped d r = true → ((s.billet n.b).page.any fun p => p.launch = r) = true →
       (s.power = .c0 → (s.tile n.tileAddr).instrAt n.blk n.slot = some i →
         ((s.passBreak r).stepNode n i = some u → exec (.step d r n) s = .next u) ∧
         ((s.passBreak r).stepNode n i = none → exec (.step d r n) s = .next (s.say .notReady))) ∧
       (s.power = .c0 → (s.tile n.tileAddr).instrAt n.blk n.slot = none → exec (.step d r n) s = .next (s.say .notReady)) ∧
       (s.discardAt n = some t → exec (.discard d r n) s = .next (t.say .ok)) ∧
       (s.discardAt n = none → exec (.discard d r n) s = .next (s.say .refused)) ∧
       (k < (s.billet n.b).routes.length → dest < 128 → tile < 8 → ch < 32 →
         exec (.route d r n.b k dest tile ch) s = .next ((s.overrideRoute n.b k dest tile ch).say .ok))) ∧
     (s.isStopped d r = false → exec (.step d r n) s = .next (s.say .refused) ∧ exec (.discard d r n) s = .next (s.say .refused) ∧
       exec (.route d r b k dest tile ch) s = .next (s.say .refused)) ∧
     (s.scannable d b = true →
       exec (.scanrd d b off len) s = .next (s.say (.bits ((List.range len).map fun i => Config.scanBit (s.billet b) (off + i)))) ∧
       ((∀ i < vs.length, Config.scanStation (off + i) = false) →
         exec (.scanwr d b off vs) s = .next ((s.modBillet b fun x => (Config.scanWrite x off vs).keepFixed x).say .ok))) ∧
     (s.scannable d b = false → exec (.scanrd d b off len) s = .next (s.say .refused) ∧
       exec (.scanwr d b off vs) s = .next (s.say .refused)) ∧
     (len ≤ 4096 → s.readParts d.cid (parts va len) = .ok (bs, t) → exec (.memrd d va len) s = .next (t.say (.bytes bs))) ∧
     (len ≤ 4096 → s.readParts d.cid (parts va len) = .error t → exec (.memrd d va len) s = .next (t.say .refused)) ∧
     (bs.length ≤ 4096 → s.mayParts d.cid (parts va bs.length) = .ok t → t.writeParts d.cid (parts va bs.length) bs = .ok u →
       exec (.memwr d va bs) s = .next (u.say .ok)) ∧
     (bs.length ≤ 4096 → s.mayParts d.cid (parts va bs.length) = .error t → exec (.memwr d va bs) s = .next (t.say .refused)) ∧
     (4096 < len → exec (.memrd d va len) s = .next (s.say .refused)) ∧
     (4096 < bs.length → exec (.memwr d va bs) s = .next (s.say .refused)) ∧
     (idx < 8 → v.extractLsb' 10 22 = 0 → exec (.bpset d page idx v) s = .next ((s.modBreaks d.cid page idx (some { breakOf idx v with owner := d.session })).say .ok)) ∧
     (idx < 8 → exec (.bpclr d page idx) s = .next ((s.modBreaks d.cid page idx none).say .ok)) ∧
     (8 ≤ idx → exec (.bpset d page idx v) s = .next (s.say .refused) ∧ exec (.bpclr d page idx) s = .next (s.say .refused)))

/-- R447: the responders, where they answer, offer SPDM 1.2 to 1.4, sign with ML-DSA-44 only for a requester of 1.4 that selects a
post-quantum algorithm, and return the measurements with a signature over them, by the identity key of that algorithm, once the algorithms
are chosen and a boot has derived the keys; certificate slot 0 holds the chain of the ML-DSA-44 key and slot 1 that of the other; where they
do not answer nothing changes. The readings of log entries 43 and 46 hold. -/
def Obligations.Attestation : Prop := ∀ (s : State) (fn version : Nat) (pqc : Bool) (alg : SpdmAlgo) (k : List Byte × List Byte),
  let chosen : SpdmSig := if version = 0x14 ∧ pqc = true then .mldsa44 else .ecdsaP384
  let key := if alg.sig = .mldsa44 then k.1 else k.2
  let signed := (s.measurements, Config.spdmSign (alg.sig == .mldsa44) key s.measurements.flatten)
  (s.doeUp fn = true →
    exec (.spdmGetVersion fn) s = .next { s with spdmVersions := Tbl.put fn [0x12, 0x13, 0x14] s.spdmVersions } ∧
    (version ∈ [0x12, 0x13, 0x14] → exec (.spdmNegotiateAlgorithms fn version pqc) s = .next { s with spdmAlgo := Tbl.put fn { sig := chosen } s.spdmAlgo }) ∧
    (Tbl.get fn s.spdmAlgo = some alg → s.identity = some k →
      exec (.spdmGetMeasurements fn) s = .next { s with measured := Tbl.put fn signed s.measured })) ∧
  (s.identity = some k → s.certSlot 0 = some (Config.certChain k.1) ∧ s.certSlot 1 = some (Config.certChain k.2)) ∧
  (s.doeUp fn = false → exec (.spdmGetVersion fn) s = .next s ∧ exec (.spdmNegotiateAlgorithms fn version pqc) s = .next s ∧
    exec (.spdmGetMeasurements fn) s = .next s)
end

