-- ==== Sys2Proof/Laws/Firing.lean ====
section
/-! SUPPORT. What the shared operations of issue do once a node is open, has a choice and has room. -/

namespace Sys2Proof.Machine

theorem State.atNode_opened {s : State} (h : s.Opened) (i : Instr) (k : Choice → State) : s.atNode i k = k (s.chosen i) := by
  simp [State.atNode, h.live, h.gate, State.chosen]

theorem Room.worse_ok (r : Room) : r.worse .ok = r := by cases r <;> rfl

theorem State.whenFree_free {s : State} {i : Instr} {f : Firing} (h : s.Free i f) (k : State) : s.whenFree i f k = k := by
  have hs := h.stream
  have ht := h.stages
  simp only [State.tile, State.selTile] at hs ht
  cases hl : f.loose <;> have hr := h.room <;> simp_all [State.whenFree, h.idle, Room.worse_ok]

theorem State.tryFire_free {s : State} {i : Instr} {f : Firing} (h : s.Free i f) : s.tryFire i f = s.commit i f :=
  State.whenFree_free h _

theorem State.trapAt_free {s : State} (h : s.issueOpen = true) (cls : Nat) (tag : Tag)
    (detail addr : Nat) : s.trapAt cls tag detail addr = s.trapSelected cls tag detail addr := by
  simp [State.trapAt, h]

/-- A node on the shared firing rule fires as its data handler says. -/
theorem State.onNode_matched {s : State} {i : Instr} {tag : Tag} {took : List Entry} (h : s.Matched i tag took)
    (onFire : Tag → List Entry → State) (onEnd : Tag → Nat → List Entry → State) : s.onNode i onFire onEnd = onFire tag took := by
  simp [State.onNode, State.atNode_opened h.toOpened, h.fires, State.dispatch]

/-- A node on the shared firing rule forwards an END as its END handler says. -/
theorem State.onNode_ended {s : State} {i : Instr} {tag : Tag} {level : Nat} {took : List Entry} (h : s.Ended i tag level took)
    (onFire : Tag → List Entry → State) (onEnd : Tag → Nat → List Entry → State) :
    s.onNode i onFire onEnd = onEnd tag level took := by
  simp [State.onNode, State.atNode_opened h.toOpened, h.fires, State.dispatch]

/-- A compute node fires with its result. -/
theorem State.computeWith_matched {s : State} {i : Instr} {tag : Tag} {took : List Entry} (h : s.Matched i tag took)
    (e : Tag → Tag) (f : Fire → Result) :
    s.computeWith i e f = s.tryFire i ((f (s.fireOf i tag took)).firing i took) := by
  simp [State.computeWith, State.atNode_opened h.toOpened, h.fires, Result.firing]

/-- A node of rows 0x0 to 0x4 is a compute node: one shared meaning, with a function of its operands; only tagset changes the tag of an END. -/
theorem exec_compute (s : State) {i : Instr} {op : BitVec 7} {m : BitVec 4} {n : GNode} (h : i.gParts = some (op, m, n))
    (ho : op.toNat / 16 ≤ 4) : ∃ e f, exec i s = .next (s.computeWith i e f) ∧ (op.toNat ≠ 0x1D → e = id) := by
  cases i <;> simp only [Instr.gParts, Option.some.injEq, Prod.mk.injEq, reduceCtorEq] at h <;> obtain ⟨rfl, rfl, rfl⟩ := h <;>
    first
    | exact absurd ho (by decide)
    | exact ⟨_, _, rfl, fun _ => rfl⟩
    | exact ⟨_, _, rfl, fun h => absurd rfl h⟩

/-- An access with room enters the memory port, or traps on its address. -/
theorem State.issueAcc_free {s : State} {i : Instr} {f : Fire} {m : Option MNode} {outs : List Out}
    (h : s.Free i (s.accFiring i f m outs)) (a : Acc) (bad : Option (Nat × Nat)) :
    s.issueAcc i f m outs a bad = (match bad with
      | some (cls, off) => s.trapSelected cls f.tag (addrDetail 0 i.place.1) off
      | none => (s.commit i (s.accFiring i f m outs)).modTile s.selTile fun t => { t with port := t.port ++ [a] }) := by
  have hb := h.idle
  have hp : decide (((s.billet s.sel.b).tile s.sel.t).port.length ≥ Config.portBuffer) = false := by
    simp only [State.accFiring, Bool.or_eq_false_iff] at hb; exact hb.1.1
  have key := fun k => State.whenFree_free h k
  unfold State.issueAcc
  simp only [hp, Bool.false_and, Bool.false_eq_true, if_false]
  simp only [State.accFiring, hp] at key
  cases m <;> exact key _

/-- A release with room fires. -/
theorem State.issueRelease_free {s : State} {i : Instr} {f : Fire} {m : Option MNode} {sc : Scope} {p : Payload}
    (h : s.Free i (s.relFiring i f m sc p)) : s.issueRelease i f m sc p = s.commit i (s.relFiring i f m sc p) := State.tryFire_free h

end Sys2Proof.Machine
end

