-- ==== Sys2Proof/Laws/Tables.lean ====
section
/-! SUPPORT. What a lookup finds in a table or a list after an update. -/

namespace Sys2Proof.Machine

theorem Tbl.get_put {α β : Type} [DecidableEq α] (k : α) (v : β) (l : List (α × β)) : Tbl.get k (Tbl.put k v l) = some v := by
  induction l with
  | nil => simp [Tbl.put, Tbl.get]
  | cons x xs ih => by_cases h : x.1 = k <;> simp [Tbl.put, Tbl.get, h, ih]

theorem Tbl.get_put_ne {α β : Type} [DecidableEq α] {k j : α} (h : j ≠ k) (v : β) (l : List (α × β)) :
    Tbl.get j (Tbl.put k v l) = Tbl.get j l := by
  induction l with
  | nil => simp [Tbl.put, Tbl.get, Ne.symm h]
  | cons x xs ih =>
    by_cases e : x.1 = k
    · simp [Tbl.put, Tbl.get, e, Ne.symm h]
    · simp [Tbl.put, Tbl.get, e, ih]

theorem nthD_modNth {α : Type} (d : α) (f : α → α) {i : Nat} {l : List α} (h : i < l.length) :
    nthD d (modNth f i l) i = f (nthD d l i) := by
  induction l generalizing i with
  | nil => simp at h
  | cons x xs ih =>
    cases i with
    | zero => simp [modNth, nthD]
    | succ i => simpa [modNth, nthD] using ih (by simpa using h)

theorem nthD_modNth_ne {α : Type} (d : α) (f : α → α) {i j : Nat} (h : j ≠ i) (l : List α) : nthD d (modNth f i l) j = nthD d l j := by
  induction l generalizing i j with
  | nil => simp [modNth]
  | cons x xs ih =>
    cases i <;> cases j <;> simp_all [modNth, nthD]

@[simp] theorem State.billet_setBillet (s : State) (b : Nat) (x : Billet) : (s.setBillet b x).billet b = x := by
  simp [State.billet, State.setBillet, Tbl.get_put]

@[simp] theorem State.billet_modBillet (s : State) (b : Nat) (f : Billet → Billet) : (s.modBillet b f).billet b = f (s.billet b) := by
  simp [State.modBillet]

theorem State.billet_modBillet_ne (s : State) {b c : Nat} (h : c ≠ b) (f : Billet → Billet) : (s.modBillet b f).billet c = s.billet c := by
  simp [State.modBillet, State.billet, State.setBillet, Tbl.get_put_ne h]

@[simp] theorem State.func_modFunc (s : State) (n : Nat) (f : Func → Func) : (s.modFunc n f).func n = f (s.func n) := by
  simp [State.func, State.modFunc, Tbl.get_put]

@[simp] theorem State.ctx_modCtx (s : State) (c : Nat) (f : Context → Context) : (s.modCtx c f).ctx c = f (s.ctx c) := by
  simp [State.ctx, State.modCtx, Tbl.get_put]

@[simp] theorem State.side_modSide (s : State) {n : Nat} (h : n < s.sides.length) (f : Side → Side) :
    (s.modSide n f).side n = f (s.side n) := nthD_modNth _ _ h

end Sys2Proof.Machine
end

