-- ==== Sys2Proof/Laws/Frame.lean ====
section
/-! SUPPORT. What the shared operations of issue leave alone: all but the selected billet, the records and the due events. -/

namespace Sys2Proof.Machine

/-- From s to t only the billet of s's selected node, the records and the due events have changed. -/
def State.Local (s t : State) : Prop :=
  (∃ bs rs ds, t = { s with billets := bs, records := rs, due := ds }) ∧ ∀ b, b ≠ s.sel.b → t.billet b = s.billet b

theorem ite_elim {α : Sort _} {Q : α → Prop} {c : Prop} [Decidable c] {a b : α} (ha : Q a) (hb : Q b) : Q (if c then a else b) := by
  split <;> assumption

namespace State

theorem Local.refl (s : State) : s.Local s := ⟨⟨_, _, _, rfl⟩, fun _ _ => rfl⟩

theorem Local.sel {s t : State} (h : s.Local t) : t.sel = s.sel := by
  obtain ⟨⟨_, _, _, rfl⟩, _⟩ := h; rfl

theorem Local.trans {s t u : State} (h : s.Local t) (k : t.Local u) : s.Local u := by
  have e := h.sel
  obtain ⟨⟨_, _, _, rfl⟩, h⟩ := h
  obtain ⟨⟨_, _, _, rfl⟩, k⟩ := k
  exact ⟨⟨_, _, _, rfl⟩, fun b hb => (k b hb).trans (h b hb)⟩

theorem local_modBillet (s : State) (f : Billet → Billet) : s.Local (s.modBillet s.sel.b f) :=
  ⟨⟨_, _, _, rfl⟩, fun _ hb => s.billet_modBillet_ne hb f⟩

theorem local_modTile (s : State) (f : Tile → Tile) : s.Local (s.modTile s.selTile f) := local_modBillet s _

theorem local_modNode (s : State) (f : Node → Node) : s.Local (s.modNode s.sel f) :=
  local_modBillet s fun x => x.modTile s.sel.t fun t => t.modNode s.sel.pos f

theorem local_setStall (s : State) (r : Nat) : s.Local (s.setStall r) := local_modNode s _

theorem local_keepStall (s : State) (r : Nat) : s.Local (s.setStall r).keepSelected :=
  (local_setStall s r).trans (local_modTile (s.setStall r) _)

theorem local_stopAt (s : State) (r : RecId) (b : Nat) (k : StopReport) : s.Local (s.stopAt r b k) := ⟨⟨_, _, _, rfl⟩, fun _ _ => rfl⟩

theorem local_trap (s : State) (cls : Nat) (tag : Tag) (detail addr : Nat) : s.Local (s.trap s.sel cls tag detail addr) := by
  unfold State.trap
  split
  · exact .refl s
  · exact ⟨⟨_, _, _, rfl⟩, fun _ _ => rfl⟩

theorem local_trapSelected (s : State) (cls : Nat) (tag : Tag) (detail addr : Nat) :
    s.Local (s.trapSelected cls tag detail addr) := by
  have h := local_trap s cls tag detail addr
  have k := local_modTile (s.trap s.sel cls tag detail addr) fun t => { t with issueFree := max t.issueFree (s.now s.sel.b + 1) }
  simp only [State.selTile, h.sel] at k
  exact h.trans k

theorem local_trapAt (s : State) (cls : Nat) (tag : Tag) (detail addr : Nat) : s.Local (s.trapAt cls tag detail addr) := by
  unfold State.trapAt
  split
  · exact local_trapSelected ..
  split
  · exact local_keepStall ..
  · exact local_setStall ..

theorem local_commit (s : State) (i : Instr) (f : Firing) : s.Local (s.commit i f) := by
  unfold State.commit
  exact (local_modTile s _).trans (local_modBillet (s.modTile s.selTile _) _)

/-- A firing that waits has only its reason to hold. -/
theorem whenFree_elim {Q : State → Prop} {s : State} {i : Instr} {f : Firing} {k : State} (hl : ∀ t, s.Local t → Q t) (hk : Q k) :
    Q (s.whenFree i f k) := by
  unfold State.whenFree
  have hs (r : Nat) : Q (s.setStall r) := hl _ (local_setStall s r)
  dsimp only
  split
  · exact hs _
  · exact hs _
  · exact hs _
  · split
    · exact hl _ ((local_setStall s _).trans (local_modTile (s.setStall _) _))
    · exact hs _
  · split
    · exact hk
    · exact hs _

theorem local_tryFire (s : State) (i : Instr) (f : Firing) : s.Local (s.tryFire i f) :=
  whenFree_elim (fun _ h => h) (local_commit s i f)

theorem local_forwardEnd (s : State) (i : Instr) (tag outTag : Tag) (level : Nat) (took : List Entry) :
    s.Local (s.forwardEnd i tag outTag level took) := local_tryFire ..

theorem local_gateStall (s : State) (i : Instr) (r : Nat) (out : State) : s.Local (s.gateStall i r out) := by
  unfold State.gateStall
  split
  · exact local_setStall ..
  · exact local_modNode ..

/-- A node that does not issue changes nothing but its reason. -/
theorem atNode_elim {Q : State → Prop} {s : State} {i : Instr} {k : Choice → State} (hl : ∀ t, s.Local t → Q t) (hk : ∀ c, Q (k c)) :
    Q (s.atNode i k) := by
  unfold State.atNode
  split
  · split
    · exact hl _ (local_gateStall ..)
    · exact hk _
  · exact hl _ (.refl s)

theorem dispatch_elim {Q : State → Prop} {s : State} {c : Choice} {onFire : Tag → List Entry → State}
    {onEnd : Tag → Nat → List Entry → State} (hl : ∀ t, s.Local t → Q t) (hf : ∀ tag took, Q (onFire tag took))
    (he : ∀ tag level took, Q (onEnd tag level took)) : Q (s.dispatch c onFire onEnd) := by
  unfold State.dispatch
  split
  · exact hl _ (local_setStall ..)
  · exact hl _ (local_trapAt ..)
  · exact hf _ _
  · exact he _ _ _

theorem onNode_elim {Q : State → Prop} {s : State} {i : Instr} {onFire : Tag → List Entry → State}
    {onEnd : Tag → Nat → List Entry → State} (hl : ∀ t, s.Local t → Q t) (hf : ∀ tag took, Q (onFire tag took))
    (he : ∀ tag level took, Q (onEnd tag level took)) : Q (s.onNode i onFire onEnd) :=
  atNode_elim hl fun _ => dispatch_elim hl hf he

theorem onLoose_elim {Q : State → Prop} {s : State} {i : Instr} {onFire : Fire → State} (hl : ∀ t, s.Local t → Q t)
    (hf : ∀ f, Q (onFire f)) : Q (s.onLoose i onFire) :=
  onNode_elim hl (fun _ _ => hf _) fun _ _ _ => hl _ (local_tryFire ..)

theorem local_computeWith (s : State) (i : Instr) (e : Tag → Tag) (f : Fire → Result) : s.Local (s.computeWith i e f) :=
  atNode_elim (fun _ h => h) fun c => by
    cases c <;> first
      | exact local_tryFire ..
      | exact local_setStall ..
      | exact local_trapAt ..

theorem local_issueAcc (s : State) (i : Instr) (f : Fire) (m : Option MNode) (outs : List Out) (a : Acc) (bad : Option (Nat × Nat)) :
    s.Local (s.issueAcc i f m outs a bad) := by
  unfold State.issueAcc
  refine ite_elim (Q := s.Local) (local_setStall ..) (whenFree_elim (fun _ h => h) ?_)
  cases bad
  · exact (local_commit ..).trans (local_modTile (s.commit i _) _)
  · exact local_trapSelected ..

theorem local_issueRelease (s : State) (i : Instr) (f : Fire) (m : Option MNode) (sc : Scope) (p : Payload) :
    s.Local (s.issueRelease i f m sc p) := local_tryFire ..

theorem local_noOp (s : State) (i : Instr) (f : Fire) (m : Option MNode) (p : Option Payload) : s.Local (s.noOp i f m p) :=
  local_tryFire ..

theorem local_chained {s : State} {m : MNode} {tag : Tag} {k : State} (h : s.Local k) : s.Local (s.chained m tag k) := by
  unfold State.chained
  split
  · exact h
  · exact local_setStall ..

theorem local_single (s : State) (i : Instr) (m : MNode) (vec : Bool) (data : Fire → Payload) : s.Local (s.single i m vec data) :=
  onLoose_elim (fun _ h => h) fun f => local_chained (by
    split
    · exact local_noOp ..
    · exact local_issueAcc ..)

theorem local_lanewiseAcc (s : State) (i : Instr) (m : MNode) (vec : Bool) (data : Fire → Payload) :
    s.Local (s.lanewiseAcc i m vec data) :=
  onLoose_elim (fun _ h => h) fun f => local_chained (by
    dsimp only
    split
    · exact local_noOp ..
    · exact local_issueAcc ..)

/-- More changes of the selected billet. -/
theorem Local.modBillet {s t : State} (h : s.Local t) (f : Billet → Billet) : s.Local (t.modBillet s.sel.b f) :=
  h.trans (by have k := local_modBillet t f; rwa [h.sel] at k)

theorem Local.modTile {s t : State} (h : s.Local t) (f : Tile → Tile) : s.Local (t.modTile s.selTile f) := h.modBillet _

theorem Local.commit {s t : State} (h : s.Local t) (i : Instr) (f : Firing) : s.Local (t.commit i f) := h.trans (local_commit t i f)

theorem local_startPair (s : State) (x : XX) (j : Nat) (ga gb : Ring) : s.Local (s.startPair x j ga gb) := by
  unfold State.startPair
  exact (local_modTile s _).trans (local_modBillet (s.modTile s.selTile _) _)

theorem Local.popRing {s t : State} (h : s.Local t) (r : Nat) (g : Ring) : s.Local (t.popRing s.sel.b r g) := by
  unfold State.popRing
  exact h.modBillet _

theorem Local.readOne {s t : State} (h : s.Local t) (k : Nat) (x : XX) (p : MPair) (r : Nat) :
    s.Local (t.readOne ⟨s.sel.b, k⟩ x p r) := by
  unfold State.readOne
  dsimp only
  split
  · split
    · exact h.modBillet _
    · split
      · exact ((h.modBillet _).popRing ..).modBillet _
      · exact (h.modBillet _).modBillet _
  · exact h

theorem Local.readPair {s t : State} (h : s.Local t) (k : Nat) (x : XX) (p : MPair) : s.Local (t.readPair ⟨s.sel.b, k⟩ x p) := by
  unfold State.readPair
  exact ite_elim (h.readOne ..) ((h.readOne ..).readOne ..)

theorem Local.readsDue {s t : State} (h : s.Local t) (k n : Nat) (ps : List MPair) : s.Local (t.readsDue ⟨s.sel.b, k⟩ n ps) := by
  induction ps generalizing t with
  | nil => exact h
  | cons p ps ih =>
    refine ih (ite_elim ?_ h)
    split
    · exact h.readPair ..
    · exact h

theorem Local.readsOn {s t : State} (h : s.Local t) (r : Nat) (ts : List Nat) : s.Local (t.readsOn s.sel.b r ts) := by
  induction ts generalizing t with
  | nil => exact h
  | cons k ts ih =>
    refine ih ?_
    generalize ((t.tile ⟨s.sel.b, k⟩).mpairs.filter fun p => p.readsIn (t.now s.sel.b)) = ps
    induction ps generalizing t with
    | nil => exact h
    | cons p ps jh =>
      refine jh ?_
      dsimp only
      split
      · exact h.readOne ..
      · exact h

end State

end Sys2Proof.Machine
end

