-- ==== Sys2Proof/Laws/Mailbox.lean ====
section
/-! SUPPORT. What a mailbox command does: the ends of State.command. -/

namespace Sys2Proof.Machine

variable {s : State} {m : MbReq} {op : Nat} {may args : Bool} {run : State → State × MbAns}

theorem State.mbUp_barUp (h : s.mbUp m.fn op = true) : s.barUp m.fn = true := (Bool.and_eq_true ..▸ h).1

/-- The host does not reach the function: nothing changes. -/
theorem State.command_unheard (h : s.barUp m.fn = false) (w : s.goWaits.head? ≠ some (m, op)) : s.command m op may args run = s := by
  simp [State.command, h, w]

/-- An ignored GO: its registers are written, and nothing else. -/
theorem State.command_ignored (b : s.barUp m.fn = true) (h : s.mbUp m.fn op = false ∨ (s.func m.fn).state = .running)
    (w : s.goWaits.head? ≠ some (m, op)) : s.command m op may args run = s.mbWrite m (BitVec.ofNat 16 op) := by
  rcases h with h | h <;> simp [State.command, h, b, w]

theorem State.mbAccept_serves (s : State) (m : MbReq) (op : BitVec 16) : (s.mbAccept m op).mbServes = s.mbServes := rfl

theorem State.mbAccept_goWaits (s : State) (m : MbReq) (op : BitVec 16) : (s.mbAccept m op).goWaits = s.goWaits := rfl

/-- A command that is taken is applied to the state after its registers have been accepted. -/
theorem State.command_applies (h : s.Takes m op) :
    s.command m op may args run = (s.mbAccept m (BitVec.ofNat 16 op)).applyCommand m may args run := by
  simp [State.command, h.up, h.idle, h.first, State.mbUp_barUp h.up, State.mbAccept_serves, State.mbAccept_goWaits, h.serves]

theorem State.command_taken (h : s.Takes m op) : s.command m op true true run =
    (run (s.mbAccept m (BitVec.ofNat 16 op))).1.mbAnswer m.fn (run (s.mbAccept m (BitVec.ofNat 16 op))).2 := by
  simp [State.command_applies h, State.applyCommand]

theorem State.command_badop (h : s.Takes m op) : s.command m op false args run =
    (s.mbAccept m (BitVec.ofNat 16 op)).mbFinish m.fn .badop [] := by
  simp [State.command_applies h, State.applyCommand]

theorem State.command_refused (h : s.Takes m op) : s.command m op true false run =
    (s.mbAccept m (BitVec.ofNat 16 op)).mbFinish m.fn .refused [] := by
  simp [State.command_applies h, State.applyCommand]

/-- While the Innkeeper of side 0 is down a command that is taken waits for it. -/
theorem State.command_waits (h : s.Hears m op) (d : s.mbServes = false) (w : s.goWaits.head? ≠ some (m, op)) : s.command m op may args run =
    { s.mbAccept m (BitVec.ofNat 16 op) with goWaits := s.goWaits ++ [(m, op)] } := by
  simp [State.command, h.up, h.idle, w, State.mbUp_barUp h.up, State.mbAccept_serves, State.mbAccept_goWaits, d]

theorem State.func_mbAccept (s : State) (m : MbReq) (op : BitVec 16) :
    ((s.mbAccept m op).func m.fn).qbase = (s.func m.fn).qbase ∧ ((s.mbAccept m op).func m.fn).qcount = (s.func m.fn).qcount := by
  simp [State.mbAccept, State.mbWrite]

end Sys2Proof.Machine
end

