-- ==== Sys2Proof/Laws/Memory.lean ====
section
/-! SUPPORT. Memory lists: every operation keeps the canonical form, and a read after a write. -/

namespace Sys2Proof.Machine

theorem Memory.wfFrom_mono {m : List Host.Cell} {lo lo' : Nat} (h : lo' ≤ lo) (w : Memory.wfFrom lo m = true) :
    Memory.wfFrom lo' m = true := by
  cases m with
  | nil => rfl
  | cons c m =>
    simp only [Memory.wfFrom, Bool.and_eq_true, decide_eq_true_eq] at w ⊢
    exact ⟨⟨Nat.le_trans h w.1.1, w.1.2⟩, w.2⟩

theorem Memory.wfFrom_write (m : List Host.Cell) (x : Nat) (v : Byte) :
    ∀ lo, lo ≤ x → Memory.wfFrom lo m = true → Memory.wfFrom lo (Memory.write m x v) = true := by
  induction m with
  | nil => intro lo hx _; unfold Memory.write; split <;> simp_all [Memory.wfFrom]
  | cons c m ih =>
    intro lo hx w
    simp only [Memory.wfFrom, Bool.and_eq_true, decide_eq_true_eq] at w
    unfold Memory.write
    split
    · split <;> simp_all [Memory.wfFrom, Nat.succ_le_of_lt]
    · split
      · subst_vars
        split
        · exact Memory.wfFrom_mono (by omega) w.2
        · simp_all [Memory.wfFrom]
      · have := ih (c.1 + 1) (by omega) w.2
        simp_all [Memory.wfFrom]

theorem Memory.wf_write {m : List Host.Cell} (x : Nat) (v : Byte) (w : Memory.wf m = true) :
    Memory.wf (Memory.write m x v) = true := Memory.wfFrom_write m x v 0 (Nat.zero_le x) w

theorem Memory.wf_writes (bs : List Byte) : ∀ {m : List Host.Cell} (a : Nat), Memory.wf m = true →
    Memory.wf (Memory.writes m a bs) = true := by
  induction bs with
  | nil => intro m a w; exact w
  | cons b bs ih => intro m a w; exact ih (a + 1) (Memory.wf_write a b w)

theorem Memory.wfFrom_filter (p : Host.Cell → Bool) (m : List Host.Cell) :
    ∀ lo, Memory.wfFrom lo m = true → Memory.wfFrom lo (m.filter p) = true := by
  induction m with
  | nil => intro lo w; exact w
  | cons c m ih =>
    intro lo w
    simp only [Memory.wfFrom, Bool.and_eq_true, decide_eq_true_eq] at w
    simp only [List.filter_cons]
    split
    · have := w.1.2; simp_all [Memory.wfFrom]
    · exact Memory.wfFrom_mono (by omega) (ih _ w.2)

theorem Memory.wf_filter {m : List Host.Cell} (p : Host.Cell → Bool) (w : Memory.wf m = true) : Memory.wf (m.filter p) = true :=
  Memory.wfFrom_filter p m 0 w

theorem Memory.wf_clear {m : List Host.Cell} (a n : Nat) (w : Memory.wf m = true) : Memory.wf (Memory.clear m a n) = true :=
  Memory.wf_filter _ w

theorem Memory.read_low (m : List Host.Cell) : ∀ lo x, Memory.wfFrom lo m = true → x < lo → Memory.read m x = 0 := by
  induction m with
  | nil => intro lo x _ _; rfl
  | cons c m ih =>
    intro lo x w hx
    simp only [Memory.wfFrom, Bool.and_eq_true, decide_eq_true_eq] at w
    have hne : c.1 ≠ x := by omega
    simp only [Memory.read, if_neg hne]
    exact ih (c.1 + 1) x w.2 (by omega)

theorem Memory.read_write_other (m : List Host.Cell) (x y : Nat) (v : Byte) (h : y ≠ x) :
    Memory.read (Memory.write m x v) y = Memory.read m y := by
  induction m with
  | nil => unfold Memory.write; split <;> simp_all [Memory.read, Ne.symm h]
  | cons c m ih =>
    unfold Memory.write
    split
    · split
      · rfl
      · simp [Memory.read, Ne.symm h]
    · split
      · subst_vars
        split
        · simp_all [Memory.read, Ne.symm h]
        · simp_all [Memory.read, Ne.symm h]
      · simp only [Memory.read, ih]

theorem Memory.read_write_same (m : List Host.Cell) (x : Nat) (v : Byte) :
    ∀ lo, Memory.wfFrom lo m = true → Memory.read (Memory.write m x v) x = v := by
  induction m with
  | nil => intro lo _; unfold Memory.write; split <;> simp_all [Memory.read]
  | cons c m ih =>
    intro lo w
    simp only [Memory.wfFrom, Bool.and_eq_true, decide_eq_true_eq] at w
    unfold Memory.write
    split
    · rename_i hlt
      have hne : c.1 ≠ x := by omega
      have low := Memory.read_low m (c.1 + 1) x w.2 (by omega)
      split <;> simp_all [Memory.read]
    · split
      · subst_vars
        have low := Memory.read_low m (c.1 + 1) c.1 w.2 (by omega)
        split <;> simp_all [Memory.read]
      · rename_i h1 h2
        have hne : c.1 ≠ x := fun e => h2 e.symm
        simp only [Memory.read, if_neg hne]
        exact ih (c.1 + 1) w.2

end Sys2Proof.Machine
end

