-- ==== Sys2Proof/Laws/State.lean ====
section
/-! SUPPORT. What each update of the state leaves unchanged, field by field, and what it changes. -/

namespace Sys2Proof.Machine

section modSide
variable (s : State) (n : Nat) (f : Side → Side)
@[simp] theorem State.modSide_agenda : (s.modSide n f).agenda = s.agenda := rfl
@[simp] theorem State.modSide_sel : (s.modSide n f).sel = s.sel := rfl
@[simp] theorem State.modSide_oracle : (s.modSide n f).oracle = s.oracle := rfl
@[simp] theorem State.modSide_power : (s.modSide n f).power = s.power := rfl
@[simp] theorem State.modSide_aux : (s.modSide n f).aux = s.aux := rfl
@[simp] theorem State.modSide_wakeAsked : (s.modSide n f).wakeAsked = s.wakeAsked := rfl
@[simp] theorem State.modSide_wakeAt : (s.modSide n f).wakeAt = s.wakeAt := rfl
@[simp] theorem State.modSide_entering : (s.modSide n f).entering = s.entering := rfl
@[simp] theorem State.modSide_enterReq : (s.modSide n f).enterReq = s.enterReq := rfl
@[simp] theorem State.modSide_goWaits : (s.modSide n f).goWaits = s.goWaits := rfl
@[simp] theorem State.modSide_boot : (s.modSide n f).boot = s.boot := rfl
@[simp] theorem State.modSide_keyHash : (s.modSide n f).keyHash = s.keyHash := rfl
@[simp] theorem State.modSide_minSvn : (s.modSide n f).minSvn = s.minSvn := rfl
@[simp] theorem State.modSide_flash : (s.modSide n f).flash = s.flash := rfl
@[simp] theorem State.modSide_writing : (s.modSide n f).writing = s.writing := rfl
@[simp] theorem State.modSide_torn : (s.modSide n f).torn = s.torn := rfl
@[simp] theorem State.modSide_staging : (s.modSide n f).staging = s.staging := rfl
@[simp] theorem State.modSide_repairOk : (s.modSide n f).repairOk = s.repairOk := rfl
@[simp] theorem State.modSide_bootDigest : (s.modSide n f).bootDigest = s.bootDigest := rfl
@[simp] theorem State.modSide_bootSvn : (s.modSide n f).bootSvn = s.bootSvn := rfl
@[simp] theorem State.modSide_identity : (s.modSide n f).identity = s.identity := rfl
@[simp] theorem State.modSide_dtb : (s.modSide n f).dtb = s.dtb := rfl
@[simp] theorem State.modSide_pwrCap : (s.modSide n f).pwrCap = s.pwrCap := rfl
@[simp] theorem State.modSide_billets : (s.modSide n f).billets = s.billets := rfl
@[simp] theorem State.modSide_mem : (s.modSide n f).mem = s.mem := rfl
@[simp] theorem State.modSide_scr : (s.modSide n f).scr = s.scr := rfl
@[simp] theorem State.modSide_contexts : (s.modSide n f).contexts = s.contexts := rfl
@[simp] theorem State.modSide_queues : (s.modSide n f).queues = s.queues := rfl
@[simp] theorem State.modSide_funcs : (s.modSide n f).funcs = s.funcs := rfl
@[simp] theorem State.modSide_launches : (s.modSide n f).launches = s.launches := rfl
@[simp] theorem State.modSide_flits : (s.modSide n f).flits = s.flits := rfl
@[simp] theorem State.modSide_late : (s.modSide n f).late = s.late := rfl
@[simp] theorem State.modSide_signals : (s.modSide n f).signals = s.signals := rfl
@[simp] theorem State.modSide_sparse : (s.modSide n f).sparse = s.sparse := rfl
@[simp] theorem State.modSide_tlb : (s.modSide n f).tlb = s.tlb := rfl
@[simp] theorem State.modSide_links : (s.modSide n f).links = s.links := rfl
@[simp] theorem State.modSide_faultLog : (s.modSide n f).faultLog = s.faultLog := rfl
@[simp] theorem State.modSide_faultLogNext : (s.modSide n f).faultLogNext = s.faultLogNext := rfl
@[simp] theorem State.modSide_withdrawn : (s.modSide n f).withdrawn = s.withdrawn := rfl
@[simp] theorem State.modSide_badLines : (s.modSide n f).badLines = s.badLines := rfl
@[simp] theorem State.modSide_msix : (s.modSide n f).msix = s.msix := rfl
@[simp] theorem State.modSide_sessions : (s.modSide n f).sessions = s.sessions := rfl
@[simp] theorem State.modSide_answer : (s.modSide n f).answer = s.answer := rfl
@[simp] theorem State.modSide_records : (s.modSide n f).records = s.records := rfl
@[simp] theorem State.modSide_due : (s.modSide n f).due = s.due := rfl
@[simp] theorem State.modSide_brkStore : (s.modSide n f).brkStore = s.brkStore := rfl
@[simp] theorem State.modSide_spdmVersions : (s.modSide n f).spdmVersions = s.spdmVersions := rfl
@[simp] theorem State.modSide_spdmAlgo : (s.modSide n f).spdmAlgo = s.spdmAlgo := rfl
@[simp] theorem State.modSide_measured : (s.modSide n f).measured = s.measured := rfl
end modSide

section setBillet
variable (s : State) (b : Nat) (x : Billet)
@[simp] theorem State.setBillet_agenda : (s.setBillet b x).agenda = s.agenda := rfl
@[simp] theorem State.setBillet_sel : (s.setBillet b x).sel = s.sel := rfl
@[simp] theorem State.setBillet_oracle : (s.setBillet b x).oracle = s.oracle := rfl
@[simp] theorem State.setBillet_power : (s.setBillet b x).power = s.power := rfl
@[simp] theorem State.setBillet_aux : (s.setBillet b x).aux = s.aux := rfl
@[simp] theorem State.setBillet_wakeAsked : (s.setBillet b x).wakeAsked = s.wakeAsked := rfl
@[simp] theorem State.setBillet_wakeAt : (s.setBillet b x).wakeAt = s.wakeAt := rfl
@[simp] theorem State.setBillet_entering : (s.setBillet b x).entering = s.entering := rfl
@[simp] theorem State.setBillet_enterReq : (s.setBillet b x).enterReq = s.enterReq := rfl
@[simp] theorem State.setBillet_goWaits : (s.setBillet b x).goWaits = s.goWaits := rfl
@[simp] theorem State.setBillet_boot : (s.setBillet b x).boot = s.boot := rfl
@[simp] theorem State.setBillet_keyHash : (s.setBillet b x).keyHash = s.keyHash := rfl
@[simp] theorem State.setBillet_minSvn : (s.setBillet b x).minSvn = s.minSvn := rfl
@[simp] theorem State.setBillet_flash : (s.setBillet b x).flash = s.flash := rfl
@[simp] theorem State.setBillet_writing : (s.setBillet b x).writing = s.writing := rfl
@[simp] theorem State.setBillet_torn : (s.setBillet b x).torn = s.torn := rfl
@[simp] theorem State.setBillet_staging : (s.setBillet b x).staging = s.staging := rfl
@[simp] theorem State.setBillet_repairOk : (s.setBillet b x).repairOk = s.repairOk := rfl
@[simp] theorem State.setBillet_bootDigest : (s.setBillet b x).bootDigest = s.bootDigest := rfl
@[simp] theorem State.setBillet_bootSvn : (s.setBillet b x).bootSvn = s.bootSvn := rfl
@[simp] theorem State.setBillet_identity : (s.setBillet b x).identity = s.identity := rfl
@[simp] theorem State.setBillet_dtb : (s.setBillet b x).dtb = s.dtb := rfl
@[simp] theorem State.setBillet_pwrCap : (s.setBillet b x).pwrCap = s.pwrCap := rfl
@[simp] theorem State.setBillet_sides : (s.setBillet b x).sides = s.sides := rfl
@[simp] theorem State.setBillet_mem : (s.setBillet b x).mem = s.mem := rfl
@[simp] theorem State.setBillet_scr : (s.setBillet b x).scr = s.scr := rfl
@[simp] theorem State.setBillet_contexts : (s.setBillet b x).contexts = s.contexts := rfl
@[simp] theorem State.setBillet_queues : (s.setBillet b x).queues = s.queues := rfl
@[simp] theorem State.setBillet_funcs : (s.setBillet b x).funcs = s.funcs := rfl
@[simp] theorem State.setBillet_launches : (s.setBillet b x).launches = s.launches := rfl
@[simp] theorem State.setBillet_flits : (s.setBillet b x).flits = s.flits := rfl
@[simp] theorem State.setBillet_late : (s.setBillet b x).late = s.late := rfl
@[simp] theorem State.setBillet_signals : (s.setBillet b x).signals = s.signals := rfl
@[simp] theorem State.setBillet_sparse : (s.setBillet b x).sparse = s.sparse := rfl
@[simp] theorem State.setBillet_tlb : (s.setBillet b x).tlb = s.tlb := rfl
@[simp] theorem State.setBillet_links : (s.setBillet b x).links = s.links := rfl
@[simp] theorem State.setBillet_faultLog : (s.setBillet b x).faultLog = s.faultLog := rfl
@[simp] theorem State.setBillet_faultLogNext : (s.setBillet b x).faultLogNext = s.faultLogNext := rfl
@[simp] theorem State.setBillet_withdrawn : (s.setBillet b x).withdrawn = s.withdrawn := rfl
@[simp] theorem State.setBillet_badLines : (s.setBillet b x).badLines = s.badLines := rfl
@[simp] theorem State.setBillet_msix : (s.setBillet b x).msix = s.msix := rfl
@[simp] theorem State.setBillet_sessions : (s.setBillet b x).sessions = s.sessions := rfl
@[simp] theorem State.setBillet_answer : (s.setBillet b x).answer = s.answer := rfl
@[simp] theorem State.setBillet_records : (s.setBillet b x).records = s.records := rfl
@[simp] theorem State.setBillet_due : (s.setBillet b x).due = s.due := rfl
@[simp] theorem State.setBillet_brkStore : (s.setBillet b x).brkStore = s.brkStore := rfl
@[simp] theorem State.setBillet_spdmVersions : (s.setBillet b x).spdmVersions = s.spdmVersions := rfl
@[simp] theorem State.setBillet_spdmAlgo : (s.setBillet b x).spdmAlgo = s.spdmAlgo := rfl
@[simp] theorem State.setBillet_measured : (s.setBillet b x).measured = s.measured := rfl
end setBillet

section modBillet
variable (s : State) (b : Nat) (f : Billet → Billet)
@[simp] theorem State.modBillet_agenda : (s.modBillet b f).agenda = s.agenda := rfl
@[simp] theorem State.modBillet_sel : (s.modBillet b f).sel = s.sel := rfl
@[simp] theorem State.modBillet_oracle : (s.modBillet b f).oracle = s.oracle := rfl
@[simp] theorem State.modBillet_power : (s.modBillet b f).power = s.power := rfl
@[simp] theorem State.modBillet_aux : (s.modBillet b f).aux = s.aux := rfl
@[simp] theorem State.modBillet_wakeAsked : (s.modBillet b f).wakeAsked = s.wakeAsked := rfl
@[simp] theorem State.modBillet_wakeAt : (s.modBillet b f).wakeAt = s.wakeAt := rfl
@[simp] theorem State.modBillet_entering : (s.modBillet b f).entering = s.entering := rfl
@[simp] theorem State.modBillet_enterReq : (s.modBillet b f).enterReq = s.enterReq := rfl
@[simp] theorem State.modBillet_goWaits : (s.modBillet b f).goWaits = s.goWaits := rfl
@[simp] theorem State.modBillet_boot : (s.modBillet b f).boot = s.boot := rfl
@[simp] theorem State.modBillet_keyHash : (s.modBillet b f).keyHash = s.keyHash := rfl
@[simp] theorem State.modBillet_minSvn : (s.modBillet b f).minSvn = s.minSvn := rfl
@[simp] theorem State.modBillet_flash : (s.modBillet b f).flash = s.flash := rfl
@[simp] theorem State.modBillet_writing : (s.modBillet b f).writing = s.writing := rfl
@[simp] theorem State.modBillet_torn : (s.modBillet b f).torn = s.torn := rfl
@[simp] theorem State.modBillet_staging : (s.modBillet b f).staging = s.staging := rfl
@[simp] theorem State.modBillet_repairOk : (s.modBillet b f).repairOk = s.repairOk := rfl
@[simp] theorem State.modBillet_bootDigest : (s.modBillet b f).bootDigest = s.bootDigest := rfl
@[simp] theorem State.modBillet_bootSvn : (s.modBillet b f).bootSvn = s.bootSvn := rfl
@[simp] theorem State.modBillet_identity : (s.modBillet b f).identity = s.identity := rfl
@[simp] theorem State.modBillet_dtb : (s.modBillet b f).dtb = s.dtb := rfl
@[simp] theorem State.modBillet_pwrCap : (s.modBillet b f).pwrCap = s.pwrCap := rfl
@[simp] theorem State.modBillet_sides : (s.modBillet b f).sides = s.sides := rfl
@[simp] theorem State.modBillet_mem : (s.modBillet b f).mem = s.mem := rfl
@[simp] theorem State.modBillet_scr : (s.modBillet b f).scr = s.scr := rfl
@[simp] theorem State.modBillet_contexts : (s.modBillet b f).contexts = s.contexts := rfl
@[simp] theorem State.modBillet_queues : (s.modBillet b f).queues = s.queues := rfl
@[simp] theorem State.modBillet_funcs : (s.modBillet b f).funcs = s.funcs := rfl
@[simp] theorem State.modBillet_launches : (s.modBillet b f).launches = s.launches := rfl
@[simp] theorem State.modBillet_flits : (s.modBillet b f).flits = s.flits := rfl
@[simp] theorem State.modBillet_late : (s.modBillet b f).late = s.late := rfl
@[simp] theorem State.modBillet_signals : (s.modBillet b f).signals = s.signals := rfl
@[simp] theorem State.modBillet_sparse : (s.modBillet b f).sparse = s.sparse := rfl
@[simp] theorem State.modBillet_tlb : (s.modBillet b f).tlb = s.tlb := rfl
@[simp] theorem State.modBillet_links : (s.modBillet b f).links = s.links := rfl
@[simp] theorem State.modBillet_faultLog : (s.modBillet b f).faultLog = s.faultLog := rfl
@[simp] theorem State.modBillet_faultLogNext : (s.modBillet b f).faultLogNext = s.faultLogNext := rfl
@[simp] theorem State.modBillet_withdrawn : (s.modBillet b f).withdrawn = s.withdrawn := rfl
@[simp] theorem State.modBillet_badLines : (s.modBillet b f).badLines = s.badLines := rfl
@[simp] theorem State.modBillet_msix : (s.modBillet b f).msix = s.msix := rfl
@[simp] theorem State.modBillet_sessions : (s.modBillet b f).sessions = s.sessions := rfl
@[simp] theorem State.modBillet_answer : (s.modBillet b f).answer = s.answer := rfl
@[simp] theorem State.modBillet_records : (s.modBillet b f).records = s.records := rfl
@[simp] theorem State.modBillet_due : (s.modBillet b f).due = s.due := rfl
@[simp] theorem State.modBillet_brkStore : (s.modBillet b f).brkStore = s.brkStore := rfl
@[simp] theorem State.modBillet_spdmVersions : (s.modBillet b f).spdmVersions = s.spdmVersions := rfl
@[simp] theorem State.modBillet_spdmAlgo : (s.modBillet b f).spdmAlgo = s.spdmAlgo := rfl
@[simp] theorem State.modBillet_measured : (s.modBillet b f).measured = s.measured := rfl
end modBillet

section modTile
variable (s : State) (a : TileAddr) (f : Tile → Tile)
@[simp] theorem State.modTile_agenda : (s.modTile a f).agenda = s.agenda := rfl
@[simp] theorem State.modTile_sel : (s.modTile a f).sel = s.sel := rfl
@[simp] theorem State.modTile_oracle : (s.modTile a f).oracle = s.oracle := rfl
@[simp] theorem State.modTile_power : (s.modTile a f).power = s.power := rfl
@[simp] theorem State.modTile_aux : (s.modTile a f).aux = s.aux := rfl
@[simp] theorem State.modTile_wakeAsked : (s.modTile a f).wakeAsked = s.wakeAsked := rfl
@[simp] theorem State.modTile_wakeAt : (s.modTile a f).wakeAt = s.wakeAt := rfl
@[simp] theorem State.modTile_entering : (s.modTile a f).entering = s.entering := rfl
@[simp] theorem State.modTile_enterReq : (s.modTile a f).enterReq = s.enterReq := rfl
@[simp] theorem State.modTile_goWaits : (s.modTile a f).goWaits = s.goWaits := rfl
@[simp] theorem State.modTile_boot : (s.modTile a f).boot = s.boot := rfl
@[simp] theorem State.modTile_keyHash : (s.modTile a f).keyHash = s.keyHash := rfl
@[simp] theorem State.modTile_minSvn : (s.modTile a f).minSvn = s.minSvn := rfl
@[simp] theorem State.modTile_flash : (s.modTile a f).flash = s.flash := rfl
@[simp] theorem State.modTile_writing : (s.modTile a f).writing = s.writing := rfl
@[simp] theorem State.modTile_torn : (s.modTile a f).torn = s.torn := rfl
@[simp] theorem State.modTile_staging : (s.modTile a f).staging = s.staging := rfl
@[simp] theorem State.modTile_repairOk : (s.modTile a f).repairOk = s.repairOk := rfl
@[simp] theorem State.modTile_bootDigest : (s.modTile a f).bootDigest = s.bootDigest := rfl
@[simp] theorem State.modTile_bootSvn : (s.modTile a f).bootSvn = s.bootSvn := rfl
@[simp] theorem State.modTile_identity : (s.modTile a f).identity = s.identity := rfl
@[simp] theorem State.modTile_dtb : (s.modTile a f).dtb = s.dtb := rfl
@[simp] theorem State.modTile_pwrCap : (s.modTile a f).pwrCap = s.pwrCap := rfl
@[simp] theorem State.modTile_sides : (s.modTile a f).sides = s.sides := rfl
@[simp] theorem State.modTile_mem : (s.modTile a f).mem = s.mem := rfl
@[simp] theorem State.modTile_scr : (s.modTile a f).scr = s.scr := rfl
@[simp] theorem State.modTile_contexts : (s.modTile a f).contexts = s.contexts := rfl
@[simp] theorem State.modTile_queues : (s.modTile a f).queues = s.queues := rfl
@[simp] theorem State.modTile_funcs : (s.modTile a f).funcs = s.funcs := rfl
@[simp] theorem State.modTile_launches : (s.modTile a f).launches = s.launches := rfl
@[simp] theorem State.modTile_flits : (s.modTile a f).flits = s.flits := rfl
@[simp] theorem State.modTile_late : (s.modTile a f).late = s.late := rfl
@[simp] theorem State.modTile_signals : (s.modTile a f).signals = s.signals := rfl
@[simp] theorem State.modTile_sparse : (s.modTile a f).sparse = s.sparse := rfl
@[simp] theorem State.modTile_tlb : (s.modTile a f).tlb = s.tlb := rfl
@[simp] theorem State.modTile_links : (s.modTile a f).links = s.links := rfl
@[simp] theorem State.modTile_faultLog : (s.modTile a f).faultLog = s.faultLog := rfl
@[simp] theorem State.modTile_faultLogNext : (s.modTile a f).faultLogNext = s.faultLogNext := rfl
@[simp] theorem State.modTile_withdrawn : (s.modTile a f).withdrawn = s.withdrawn := rfl
@[simp] theorem State.modTile_badLines : (s.modTile a f).badLines = s.badLines := rfl
@[simp] theorem State.modTile_msix : (s.modTile a f).msix = s.msix := rfl
@[simp] theorem State.modTile_sessions : (s.modTile a f).sessions = s.sessions := rfl
@[simp] theorem State.modTile_answer : (s.modTile a f).answer = s.answer := rfl
@[simp] theorem State.modTile_records : (s.modTile a f).records = s.records := rfl
@[simp] theorem State.modTile_due : (s.modTile a f).due = s.due := rfl
@[simp] theorem State.modTile_brkStore : (s.modTile a f).brkStore = s.brkStore := rfl
@[simp] theorem State.modTile_spdmVersions : (s.modTile a f).spdmVersions = s.spdmVersions := rfl
@[simp] theorem State.modTile_spdmAlgo : (s.modTile a f).spdmAlgo = s.spdmAlgo := rfl
@[simp] theorem State.modTile_measured : (s.modTile a f).measured = s.measured := rfl
end modTile

section modNode
variable (s : State) (n : NodeAddr) (f : Node → Node)
@[simp] theorem State.modNode_agenda : (s.modNode n f).agenda = s.agenda := rfl
@[simp] theorem State.modNode_sel : (s.modNode n f).sel = s.sel := rfl
@[simp] theorem State.modNode_oracle : (s.modNode n f).oracle = s.oracle := rfl
@[simp] theorem State.modNode_power : (s.modNode n f).power = s.power := rfl
@[simp] theorem State.modNode_aux : (s.modNode n f).aux = s.aux := rfl
@[simp] theorem State.modNode_wakeAsked : (s.modNode n f).wakeAsked = s.wakeAsked := rfl
@[simp] theorem State.modNode_wakeAt : (s.modNode n f).wakeAt = s.wakeAt := rfl
@[simp] theorem State.modNode_entering : (s.modNode n f).entering = s.entering := rfl
@[simp] theorem State.modNode_enterReq : (s.modNode n f).enterReq = s.enterReq := rfl
@[simp] theorem State.modNode_goWaits : (s.modNode n f).goWaits = s.goWaits := rfl
@[simp] theorem State.modNode_boot : (s.modNode n f).boot = s.boot := rfl
@[simp] theorem State.modNode_keyHash : (s.modNode n f).keyHash = s.keyHash := rfl
@[simp] theorem State.modNode_minSvn : (s.modNode n f).minSvn = s.minSvn := rfl
@[simp] theorem State.modNode_flash : (s.modNode n f).flash = s.flash := rfl
@[simp] theorem State.modNode_writing : (s.modNode n f).writing = s.writing := rfl
@[simp] theorem State.modNode_torn : (s.modNode n f).torn = s.torn := rfl
@[simp] theorem State.modNode_staging : (s.modNode n f).staging = s.staging := rfl
@[simp] theorem State.modNode_repairOk : (s.modNode n f).repairOk = s.repairOk := rfl
@[simp] theorem State.modNode_bootDigest : (s.modNode n f).bootDigest = s.bootDigest := rfl
@[simp] theorem State.modNode_bootSvn : (s.modNode n f).bootSvn = s.bootSvn := rfl
@[simp] theorem State.modNode_identity : (s.modNode n f).identity = s.identity := rfl
@[simp] theorem State.modNode_dtb : (s.modNode n f).dtb = s.dtb := rfl
@[simp] theorem State.modNode_pwrCap : (s.modNode n f).pwrCap = s.pwrCap := rfl
@[simp] theorem State.modNode_sides : (s.modNode n f).sides = s.sides := rfl
@[simp] theorem State.modNode_mem : (s.modNode n f).mem = s.mem := rfl
@[simp] theorem State.modNode_scr : (s.modNode n f).scr = s.scr := rfl
@[simp] theorem State.modNode_contexts : (s.modNode n f).contexts = s.contexts := rfl
@[simp] theorem State.modNode_queues : (s.modNode n f).queues = s.queues := rfl
@[simp] theorem State.modNode_funcs : (s.modNode n f).funcs = s.funcs := rfl
@[simp] theorem State.modNode_launches : (s.modNode n f).launches = s.launches := rfl
@[simp] theorem State.modNode_flits : (s.modNode n f).flits = s.flits := rfl
@[simp] theorem State.modNode_late : (s.modNode n f).late = s.late := rfl
@[simp] theorem State.modNode_signals : (s.modNode n f).signals = s.signals := rfl
@[simp] theorem State.modNode_sparse : (s.modNode n f).sparse = s.sparse := rfl
@[simp] theorem State.modNode_tlb : (s.modNode n f).tlb = s.tlb := rfl
@[simp] theorem State.modNode_links : (s.modNode n f).links = s.links := rfl
@[simp] theorem State.modNode_faultLog : (s.modNode n f).faultLog = s.faultLog := rfl
@[simp] theorem State.modNode_faultLogNext : (s.modNode n f).faultLogNext = s.faultLogNext := rfl
@[simp] theorem State.modNode_withdrawn : (s.modNode n f).withdrawn = s.withdrawn := rfl
@[simp] theorem State.modNode_badLines : (s.modNode n f).badLines = s.badLines := rfl
@[simp] theorem State.modNode_msix : (s.modNode n f).msix = s.msix := rfl
@[simp] theorem State.modNode_sessions : (s.modNode n f).sessions = s.sessions := rfl
@[simp] theorem State.modNode_answer : (s.modNode n f).answer = s.answer := rfl
@[simp] theorem State.modNode_records : (s.modNode n f).records = s.records := rfl
@[simp] theorem State.modNode_due : (s.modNode n f).due = s.due := rfl
@[simp] theorem State.modNode_brkStore : (s.modNode n f).brkStore = s.brkStore := rfl
@[simp] theorem State.modNode_spdmVersions : (s.modNode n f).spdmVersions = s.spdmVersions := rfl
@[simp] theorem State.modNode_spdmAlgo : (s.modNode n f).spdmAlgo = s.spdmAlgo := rfl
@[simp] theorem State.modNode_measured : (s.modNode n f).measured = s.measured := rfl
end modNode

section modBillets
variable (s : State) (bs : List Nat) (f : Billet → Billet)
@[simp] theorem State.modBillets_agenda : (s.modBillets bs f).agenda = s.agenda := rfl
@[simp] theorem State.modBillets_sel : (s.modBillets bs f).sel = s.sel := rfl
@[simp] theorem State.modBillets_oracle : (s.modBillets bs f).oracle = s.oracle := rfl
@[simp] theorem State.modBillets_power : (s.modBillets bs f).power = s.power := rfl
@[simp] theorem State.modBillets_aux : (s.modBillets bs f).aux = s.aux := rfl
@[simp] theorem State.modBillets_wakeAsked : (s.modBillets bs f).wakeAsked = s.wakeAsked := rfl
@[simp] theorem State.modBillets_wakeAt : (s.modBillets bs f).wakeAt = s.wakeAt := rfl
@[simp] theorem State.modBillets_entering : (s.modBillets bs f).entering = s.entering := rfl
@[simp] theorem State.modBillets_enterReq : (s.modBillets bs f).enterReq = s.enterReq := rfl
@[simp] theorem State.modBillets_goWaits : (s.modBillets bs f).goWaits = s.goWaits := rfl
@[simp] theorem State.modBillets_boot : (s.modBillets bs f).boot = s.boot := rfl
@[simp] theorem State.modBillets_keyHash : (s.modBillets bs f).keyHash = s.keyHash := rfl
@[simp] theorem State.modBillets_minSvn : (s.modBillets bs f).minSvn = s.minSvn := rfl
@[simp] theorem State.modBillets_flash : (s.modBillets bs f).flash = s.flash := rfl
@[simp] theorem State.modBillets_writing : (s.modBillets bs f).writing = s.writing := rfl
@[simp] theorem State.modBillets_torn : (s.modBillets bs f).torn = s.torn := rfl
@[simp] theorem State.modBillets_staging : (s.modBillets bs f).staging = s.staging := rfl
@[simp] theorem State.modBillets_repairOk : (s.modBillets bs f).repairOk = s.repairOk := rfl
@[simp] theorem State.modBillets_bootDigest : (s.modBillets bs f).bootDigest = s.bootDigest := rfl
@[simp] theorem State.modBillets_bootSvn : (s.modBillets bs f).bootSvn = s.bootSvn := rfl
@[simp] theorem State.modBillets_identity : (s.modBillets bs f).identity = s.identity := rfl
@[simp] theorem State.modBillets_dtb : (s.modBillets bs f).dtb = s.dtb := rfl
@[simp] theorem State.modBillets_pwrCap : (s.modBillets bs f).pwrCap = s.pwrCap := rfl
@[simp] theorem State.modBillets_sides : (s.modBillets bs f).sides = s.sides := rfl
@[simp] theorem State.modBillets_mem : (s.modBillets bs f).mem = s.mem := rfl
@[simp] theorem State.modBillets_scr : (s.modBillets bs f).scr = s.scr := rfl
@[simp] theorem State.modBillets_contexts : (s.modBillets bs f).contexts = s.contexts := rfl
@[simp] theorem State.modBillets_queues : (s.modBillets bs f).queues = s.queues := rfl
@[simp] theorem State.modBillets_funcs : (s.modBillets bs f).funcs = s.funcs := rfl
@[simp] theorem State.modBillets_launches : (s.modBillets bs f).launches = s.launches := rfl
@[simp] theorem State.modBillets_flits : (s.modBillets bs f).flits = s.flits := rfl
@[simp] theorem State.modBillets_late : (s.modBillets bs f).late = s.late := rfl
@[simp] theorem State.modBillets_signals : (s.modBillets bs f).signals = s.signals := rfl
@[simp] theorem State.modBillets_sparse : (s.modBillets bs f).sparse = s.sparse := rfl
@[simp] theorem State.modBillets_tlb : (s.modBillets bs f).tlb = s.tlb := rfl
@[simp] theorem State.modBillets_links : (s.modBillets bs f).links = s.links := rfl
@[simp] theorem State.modBillets_faultLog : (s.modBillets bs f).faultLog = s.faultLog := rfl
@[simp] theorem State.modBillets_faultLogNext : (s.modBillets bs f).faultLogNext = s.faultLogNext := rfl
@[simp] theorem State.modBillets_withdrawn : (s.modBillets bs f).withdrawn = s.withdrawn := rfl
@[simp] theorem State.modBillets_badLines : (s.modBillets bs f).badLines = s.badLines := rfl
@[simp] theorem State.modBillets_msix : (s.modBillets bs f).msix = s.msix := rfl
@[simp] theorem State.modBillets_sessions : (s.modBillets bs f).sessions = s.sessions := rfl
@[simp] theorem State.modBillets_answer : (s.modBillets bs f).answer = s.answer := rfl
@[simp] theorem State.modBillets_records : (s.modBillets bs f).records = s.records := rfl
@[simp] theorem State.modBillets_due : (s.modBillets bs f).due = s.due := rfl
@[simp] theorem State.modBillets_brkStore : (s.modBillets bs f).brkStore = s.brkStore := rfl
@[simp] theorem State.modBillets_spdmVersions : (s.modBillets bs f).spdmVersions = s.spdmVersions := rfl
@[simp] theorem State.modBillets_spdmAlgo : (s.modBillets bs f).spdmAlgo = s.spdmAlgo := rfl
@[simp] theorem State.modBillets_measured : (s.modBillets bs f).measured = s.measured := rfl
end modBillets

section modCtx
variable (s : State) (c : Nat) (f : Context → Context)
@[simp] theorem State.modCtx_agenda : (s.modCtx c f).agenda = s.agenda := rfl
@[simp] theorem State.modCtx_sel : (s.modCtx c f).sel = s.sel := rfl
@[simp] theorem State.modCtx_oracle : (s.modCtx c f).oracle = s.oracle := rfl
@[simp] theorem State.modCtx_power : (s.modCtx c f).power = s.power := rfl
@[simp] theorem State.modCtx_aux : (s.modCtx c f).aux = s.aux := rfl
@[simp] theorem State.modCtx_wakeAsked : (s.modCtx c f).wakeAsked = s.wakeAsked := rfl
@[simp] theorem State.modCtx_wakeAt : (s.modCtx c f).wakeAt = s.wakeAt := rfl
@[simp] theorem State.modCtx_entering : (s.modCtx c f).entering = s.entering := rfl
@[simp] theorem State.modCtx_enterReq : (s.modCtx c f).enterReq = s.enterReq := rfl
@[simp] theorem State.modCtx_goWaits : (s.modCtx c f).goWaits = s.goWaits := rfl
@[simp] theorem State.modCtx_boot : (s.modCtx c f).boot = s.boot := rfl
@[simp] theorem State.modCtx_keyHash : (s.modCtx c f).keyHash = s.keyHash := rfl
@[simp] theorem State.modCtx_minSvn : (s.modCtx c f).minSvn = s.minSvn := rfl
@[simp] theorem State.modCtx_flash : (s.modCtx c f).flash = s.flash := rfl
@[simp] theorem State.modCtx_writing : (s.modCtx c f).writing = s.writing := rfl
@[simp] theorem State.modCtx_torn : (s.modCtx c f).torn = s.torn := rfl
@[simp] theorem State.modCtx_staging : (s.modCtx c f).staging = s.staging := rfl
@[simp] theorem State.modCtx_repairOk : (s.modCtx c f).repairOk = s.repairOk := rfl
@[simp] theorem State.modCtx_bootDigest : (s.modCtx c f).bootDigest = s.bootDigest := rfl
@[simp] theorem State.modCtx_bootSvn : (s.modCtx c f).bootSvn = s.bootSvn := rfl
@[simp] theorem State.modCtx_identity : (s.modCtx c f).identity = s.identity := rfl
@[simp] theorem State.modCtx_dtb : (s.modCtx c f).dtb = s.dtb := rfl
@[simp] theorem State.modCtx_pwrCap : (s.modCtx c f).pwrCap = s.pwrCap := rfl
@[simp] theorem State.modCtx_sides : (s.modCtx c f).sides = s.sides := rfl
@[simp] theorem State.modCtx_billets : (s.modCtx c f).billets = s.billets := rfl
@[simp] theorem State.modCtx_mem : (s.modCtx c f).mem = s.mem := rfl
@[simp] theorem State.modCtx_scr : (s.modCtx c f).scr = s.scr := rfl
@[simp] theorem State.modCtx_queues : (s.modCtx c f).queues = s.queues := rfl
@[simp] theorem State.modCtx_funcs : (s.modCtx c f).funcs = s.funcs := rfl
@[simp] theorem State.modCtx_launches : (s.modCtx c f).launches = s.launches := rfl
@[simp] theorem State.modCtx_flits : (s.modCtx c f).flits = s.flits := rfl
@[simp] theorem State.modCtx_late : (s.modCtx c f).late = s.late := rfl
@[simp] theorem State.modCtx_signals : (s.modCtx c f).signals = s.signals := rfl
@[simp] theorem State.modCtx_sparse : (s.modCtx c f).sparse = s.sparse := rfl
@[simp] theorem State.modCtx_tlb : (s.modCtx c f).tlb = s.tlb := rfl
@[simp] theorem State.modCtx_links : (s.modCtx c f).links = s.links := rfl
@[simp] theorem State.modCtx_faultLog : (s.modCtx c f).faultLog = s.faultLog := rfl
@[simp] theorem State.modCtx_faultLogNext : (s.modCtx c f).faultLogNext = s.faultLogNext := rfl
@[simp] theorem State.modCtx_withdrawn : (s.modCtx c f).withdrawn = s.withdrawn := rfl
@[simp] theorem State.modCtx_badLines : (s.modCtx c f).badLines = s.badLines := rfl
@[simp] theorem State.modCtx_msix : (s.modCtx c f).msix = s.msix := rfl
@[simp] theorem State.modCtx_sessions : (s.modCtx c f).sessions = s.sessions := rfl
@[simp] theorem State.modCtx_answer : (s.modCtx c f).answer = s.answer := rfl
@[simp] theorem State.modCtx_records : (s.modCtx c f).records = s.records := rfl
@[simp] theorem State.modCtx_due : (s.modCtx c f).due = s.due := rfl
@[simp] theorem State.modCtx_brkStore : (s.modCtx c f).brkStore = s.brkStore := rfl
@[simp] theorem State.modCtx_spdmVersions : (s.modCtx c f).spdmVersions = s.spdmVersions := rfl
@[simp] theorem State.modCtx_spdmAlgo : (s.modCtx c f).spdmAlgo = s.spdmAlgo := rfl
@[simp] theorem State.modCtx_measured : (s.modCtx c f).measured = s.measured := rfl
end modCtx

section setQueue
variable (s : State) (q : Nat) (x : VQueue)
@[simp] theorem State.setQueue_agenda : (s.setQueue q x).agenda = s.agenda := rfl
@[simp] theorem State.setQueue_sel : (s.setQueue q x).sel = s.sel := rfl
@[simp] theorem State.setQueue_oracle : (s.setQueue q x).oracle = s.oracle := rfl
@[simp] theorem State.setQueue_power : (s.setQueue q x).power = s.power := rfl
@[simp] theorem State.setQueue_aux : (s.setQueue q x).aux = s.aux := rfl
@[simp] theorem State.setQueue_wakeAsked : (s.setQueue q x).wakeAsked = s.wakeAsked := rfl
@[simp] theorem State.setQueue_wakeAt : (s.setQueue q x).wakeAt = s.wakeAt := rfl
@[simp] theorem State.setQueue_entering : (s.setQueue q x).entering = s.entering := rfl
@[simp] theorem State.setQueue_enterReq : (s.setQueue q x).enterReq = s.enterReq := rfl
@[simp] theorem State.setQueue_goWaits : (s.setQueue q x).goWaits = s.goWaits := rfl
@[simp] theorem State.setQueue_boot : (s.setQueue q x).boot = s.boot := rfl
@[simp] theorem State.setQueue_keyHash : (s.setQueue q x).keyHash = s.keyHash := rfl
@[simp] theorem State.setQueue_minSvn : (s.setQueue q x).minSvn = s.minSvn := rfl
@[simp] theorem State.setQueue_flash : (s.setQueue q x).flash = s.flash := rfl
@[simp] theorem State.setQueue_writing : (s.setQueue q x).writing = s.writing := rfl
@[simp] theorem State.setQueue_torn : (s.setQueue q x).torn = s.torn := rfl
@[simp] theorem State.setQueue_staging : (s.setQueue q x).staging = s.staging := rfl
@[simp] theorem State.setQueue_repairOk : (s.setQueue q x).repairOk = s.repairOk := rfl
@[simp] theorem State.setQueue_bootDigest : (s.setQueue q x).bootDigest = s.bootDigest := rfl
@[simp] theorem State.setQueue_bootSvn : (s.setQueue q x).bootSvn = s.bootSvn := rfl
@[simp] theorem State.setQueue_identity : (s.setQueue q x).identity = s.identity := rfl
@[simp] theorem State.setQueue_dtb : (s.setQueue q x).dtb = s.dtb := rfl
@[simp] theorem State.setQueue_pwrCap : (s.setQueue q x).pwrCap = s.pwrCap := rfl
@[simp] theorem State.setQueue_sides : (s.setQueue q x).sides = s.sides := rfl
@[simp] theorem State.setQueue_billets : (s.setQueue q x).billets = s.billets := rfl
@[simp] theorem State.setQueue_mem : (s.setQueue q x).mem = s.mem := rfl
@[simp] theorem State.setQueue_scr : (s.setQueue q x).scr = s.scr := rfl
@[simp] theorem State.setQueue_contexts : (s.setQueue q x).contexts = s.contexts := rfl
@[simp] theorem State.setQueue_funcs : (s.setQueue q x).funcs = s.funcs := rfl
@[simp] theorem State.setQueue_launches : (s.setQueue q x).launches = s.launches := rfl
@[simp] theorem State.setQueue_flits : (s.setQueue q x).flits = s.flits := rfl
@[simp] theorem State.setQueue_late : (s.setQueue q x).late = s.late := rfl
@[simp] theorem State.setQueue_signals : (s.setQueue q x).signals = s.signals := rfl
@[simp] theorem State.setQueue_sparse : (s.setQueue q x).sparse = s.sparse := rfl
@[simp] theorem State.setQueue_tlb : (s.setQueue q x).tlb = s.tlb := rfl
@[simp] theorem State.setQueue_links : (s.setQueue q x).links = s.links := rfl
@[simp] theorem State.setQueue_faultLog : (s.setQueue q x).faultLog = s.faultLog := rfl
@[simp] theorem State.setQueue_faultLogNext : (s.setQueue q x).faultLogNext = s.faultLogNext := rfl
@[simp] theorem State.setQueue_withdrawn : (s.setQueue q x).withdrawn = s.withdrawn := rfl
@[simp] theorem State.setQueue_badLines : (s.setQueue q x).badLines = s.badLines := rfl
@[simp] theorem State.setQueue_msix : (s.setQueue q x).msix = s.msix := rfl
@[simp] theorem State.setQueue_sessions : (s.setQueue q x).sessions = s.sessions := rfl
@[simp] theorem State.setQueue_answer : (s.setQueue q x).answer = s.answer := rfl
@[simp] theorem State.setQueue_records : (s.setQueue q x).records = s.records := rfl
@[simp] theorem State.setQueue_due : (s.setQueue q x).due = s.due := rfl
@[simp] theorem State.setQueue_brkStore : (s.setQueue q x).brkStore = s.brkStore := rfl
@[simp] theorem State.setQueue_spdmVersions : (s.setQueue q x).spdmVersions = s.spdmVersions := rfl
@[simp] theorem State.setQueue_spdmAlgo : (s.setQueue q x).spdmAlgo = s.spdmAlgo := rfl
@[simp] theorem State.setQueue_measured : (s.setQueue q x).measured = s.measured := rfl
end setQueue

section modFunc
variable (s : State) (n : Nat) (f : Func → Func)
@[simp] theorem State.modFunc_agenda : (s.modFunc n f).agenda = s.agenda := rfl
@[simp] theorem State.modFunc_sel : (s.modFunc n f).sel = s.sel := rfl
@[simp] theorem State.modFunc_oracle : (s.modFunc n f).oracle = s.oracle := rfl
@[simp] theorem State.modFunc_power : (s.modFunc n f).power = s.power := rfl
@[simp] theorem State.modFunc_aux : (s.modFunc n f).aux = s.aux := rfl
@[simp] theorem State.modFunc_wakeAsked : (s.modFunc n f).wakeAsked = s.wakeAsked := rfl
@[simp] theorem State.modFunc_wakeAt : (s.modFunc n f).wakeAt = s.wakeAt := rfl
@[simp] theorem State.modFunc_entering : (s.modFunc n f).entering = s.entering := rfl
@[simp] theorem State.modFunc_enterReq : (s.modFunc n f).enterReq = s.enterReq := rfl
@[simp] theorem State.modFunc_goWaits : (s.modFunc n f).goWaits = s.goWaits := rfl
@[simp] theorem State.modFunc_boot : (s.modFunc n f).boot = s.boot := rfl
@[simp] theorem State.modFunc_keyHash : (s.modFunc n f).keyHash = s.keyHash := rfl
@[simp] theorem State.modFunc_minSvn : (s.modFunc n f).minSvn = s.minSvn := rfl
@[simp] theorem State.modFunc_flash : (s.modFunc n f).flash = s.flash := rfl
@[simp] theorem State.modFunc_writing : (s.modFunc n f).writing = s.writing := rfl
@[simp] theorem State.modFunc_torn : (s.modFunc n f).torn = s.torn := rfl
@[simp] theorem State.modFunc_staging : (s.modFunc n f).staging = s.staging := rfl
@[simp] theorem State.modFunc_repairOk : (s.modFunc n f).repairOk = s.repairOk := rfl
@[simp] theorem State.modFunc_bootDigest : (s.modFunc n f).bootDigest = s.bootDigest := rfl
@[simp] theorem State.modFunc_bootSvn : (s.modFunc n f).bootSvn = s.bootSvn := rfl
@[simp] theorem State.modFunc_identity : (s.modFunc n f).identity = s.identity := rfl
@[simp] theorem State.modFunc_dtb : (s.modFunc n f).dtb = s.dtb := rfl
@[simp] theorem State.modFunc_pwrCap : (s.modFunc n f).pwrCap = s.pwrCap := rfl
@[simp] theorem State.modFunc_sides : (s.modFunc n f).sides = s.sides := rfl
@[simp] theorem State.modFunc_billets : (s.modFunc n f).billets = s.billets := rfl
@[simp] theorem State.modFunc_mem : (s.modFunc n f).mem = s.mem := rfl
@[simp] theorem State.modFunc_scr : (s.modFunc n f).scr = s.scr := rfl
@[simp] theorem State.modFunc_contexts : (s.modFunc n f).contexts = s.contexts := rfl
@[simp] theorem State.modFunc_queues : (s.modFunc n f).queues = s.queues := rfl
@[simp] theorem State.modFunc_launches : (s.modFunc n f).launches = s.launches := rfl
@[simp] theorem State.modFunc_flits : (s.modFunc n f).flits = s.flits := rfl
@[simp] theorem State.modFunc_late : (s.modFunc n f).late = s.late := rfl
@[simp] theorem State.modFunc_signals : (s.modFunc n f).signals = s.signals := rfl
@[simp] theorem State.modFunc_sparse : (s.modFunc n f).sparse = s.sparse := rfl
@[simp] theorem State.modFunc_tlb : (s.modFunc n f).tlb = s.tlb := rfl
@[simp] theorem State.modFunc_links : (s.modFunc n f).links = s.links := rfl
@[simp] theorem State.modFunc_faultLog : (s.modFunc n f).faultLog = s.faultLog := rfl
@[simp] theorem State.modFunc_faultLogNext : (s.modFunc n f).faultLogNext = s.faultLogNext := rfl
@[simp] theorem State.modFunc_withdrawn : (s.modFunc n f).withdrawn = s.withdrawn := rfl
@[simp] theorem State.modFunc_badLines : (s.modFunc n f).badLines = s.badLines := rfl
@[simp] theorem State.modFunc_msix : (s.modFunc n f).msix = s.msix := rfl
@[simp] theorem State.modFunc_sessions : (s.modFunc n f).sessions = s.sessions := rfl
@[simp] theorem State.modFunc_answer : (s.modFunc n f).answer = s.answer := rfl
@[simp] theorem State.modFunc_records : (s.modFunc n f).records = s.records := rfl
@[simp] theorem State.modFunc_due : (s.modFunc n f).due = s.due := rfl
@[simp] theorem State.modFunc_brkStore : (s.modFunc n f).brkStore = s.brkStore := rfl
@[simp] theorem State.modFunc_spdmVersions : (s.modFunc n f).spdmVersions = s.spdmVersions := rfl
@[simp] theorem State.modFunc_spdmAlgo : (s.modFunc n f).spdmAlgo = s.spdmAlgo := rfl
@[simp] theorem State.modFunc_measured : (s.modFunc n f).measured = s.measured := rfl
end modFunc

section modLink
variable (s : State) (l : LinkId) (f : Link → Link)
@[simp] theorem State.modLink_agenda : (s.modLink l f).agenda = s.agenda := rfl
@[simp] theorem State.modLink_sel : (s.modLink l f).sel = s.sel := rfl
@[simp] theorem State.modLink_oracle : (s.modLink l f).oracle = s.oracle := rfl
@[simp] theorem State.modLink_power : (s.modLink l f).power = s.power := rfl
@[simp] theorem State.modLink_aux : (s.modLink l f).aux = s.aux := rfl
@[simp] theorem State.modLink_wakeAsked : (s.modLink l f).wakeAsked = s.wakeAsked := rfl
@[simp] theorem State.modLink_wakeAt : (s.modLink l f).wakeAt = s.wakeAt := rfl
@[simp] theorem State.modLink_entering : (s.modLink l f).entering = s.entering := rfl
@[simp] theorem State.modLink_enterReq : (s.modLink l f).enterReq = s.enterReq := rfl
@[simp] theorem State.modLink_goWaits : (s.modLink l f).goWaits = s.goWaits := rfl
@[simp] theorem State.modLink_boot : (s.modLink l f).boot = s.boot := rfl
@[simp] theorem State.modLink_keyHash : (s.modLink l f).keyHash = s.keyHash := rfl
@[simp] theorem State.modLink_minSvn : (s.modLink l f).minSvn = s.minSvn := rfl
@[simp] theorem State.modLink_flash : (s.modLink l f).flash = s.flash := rfl
@[simp] theorem State.modLink_writing : (s.modLink l f).writing = s.writing := rfl
@[simp] theorem State.modLink_torn : (s.modLink l f).torn = s.torn := rfl
@[simp] theorem State.modLink_staging : (s.modLink l f).staging = s.staging := rfl
@[simp] theorem State.modLink_repairOk : (s.modLink l f).repairOk = s.repairOk := rfl
@[simp] theorem State.modLink_bootDigest : (s.modLink l f).bootDigest = s.bootDigest := rfl
@[simp] theorem State.modLink_bootSvn : (s.modLink l f).bootSvn = s.bootSvn := rfl
@[simp] theorem State.modLink_identity : (s.modLink l f).identity = s.identity := rfl
@[simp] theorem State.modLink_dtb : (s.modLink l f).dtb = s.dtb := rfl
@[simp] theorem State.modLink_pwrCap : (s.modLink l f).pwrCap = s.pwrCap := rfl
@[simp] theorem State.modLink_sides : (s.modLink l f).sides = s.sides := rfl
@[simp] theorem State.modLink_billets : (s.modLink l f).billets = s.billets := rfl
@[simp] theorem State.modLink_mem : (s.modLink l f).mem = s.mem := rfl
@[simp] theorem State.modLink_scr : (s.modLink l f).scr = s.scr := rfl
@[simp] theorem State.modLink_contexts : (s.modLink l f).contexts = s.contexts := rfl
@[simp] theorem State.modLink_queues : (s.modLink l f).queues = s.queues := rfl
@[simp] theorem State.modLink_funcs : (s.modLink l f).funcs = s.funcs := rfl
@[simp] theorem State.modLink_launches : (s.modLink l f).launches = s.launches := rfl
@[simp] theorem State.modLink_flits : (s.modLink l f).flits = s.flits := rfl
@[simp] theorem State.modLink_late : (s.modLink l f).late = s.late := rfl
@[simp] theorem State.modLink_signals : (s.modLink l f).signals = s.signals := rfl
@[simp] theorem State.modLink_sparse : (s.modLink l f).sparse = s.sparse := rfl
@[simp] theorem State.modLink_tlb : (s.modLink l f).tlb = s.tlb := rfl
@[simp] theorem State.modLink_faultLog : (s.modLink l f).faultLog = s.faultLog := rfl
@[simp] theorem State.modLink_faultLogNext : (s.modLink l f).faultLogNext = s.faultLogNext := rfl
@[simp] theorem State.modLink_withdrawn : (s.modLink l f).withdrawn = s.withdrawn := rfl
@[simp] theorem State.modLink_badLines : (s.modLink l f).badLines = s.badLines := rfl
@[simp] theorem State.modLink_msix : (s.modLink l f).msix = s.msix := rfl
@[simp] theorem State.modLink_sessions : (s.modLink l f).sessions = s.sessions := rfl
@[simp] theorem State.modLink_answer : (s.modLink l f).answer = s.answer := rfl
@[simp] theorem State.modLink_records : (s.modLink l f).records = s.records := rfl
@[simp] theorem State.modLink_due : (s.modLink l f).due = s.due := rfl
@[simp] theorem State.modLink_brkStore : (s.modLink l f).brkStore = s.brkStore := rfl
@[simp] theorem State.modLink_spdmVersions : (s.modLink l f).spdmVersions = s.spdmVersions := rfl
@[simp] theorem State.modLink_spdmAlgo : (s.modLink l f).spdmAlgo = s.spdmAlgo := rfl
@[simp] theorem State.modLink_measured : (s.modLink l f).measured = s.measured := rfl
end modLink

section modLaunch
variable (s : State) (r : RecId) (f : Launch → Launch)
@[simp] theorem State.modLaunch_agenda : (s.modLaunch r f).agenda = s.agenda := rfl
@[simp] theorem State.modLaunch_sel : (s.modLaunch r f).sel = s.sel := rfl
@[simp] theorem State.modLaunch_oracle : (s.modLaunch r f).oracle = s.oracle := rfl
@[simp] theorem State.modLaunch_power : (s.modLaunch r f).power = s.power := rfl
@[simp] theorem State.modLaunch_aux : (s.modLaunch r f).aux = s.aux := rfl
@[simp] theorem State.modLaunch_wakeAsked : (s.modLaunch r f).wakeAsked = s.wakeAsked := rfl
@[simp] theorem State.modLaunch_wakeAt : (s.modLaunch r f).wakeAt = s.wakeAt := rfl
@[simp] theorem State.modLaunch_entering : (s.modLaunch r f).entering = s.entering := rfl
@[simp] theorem State.modLaunch_enterReq : (s.modLaunch r f).enterReq = s.enterReq := rfl
@[simp] theorem State.modLaunch_goWaits : (s.modLaunch r f).goWaits = s.goWaits := rfl
@[simp] theorem State.modLaunch_boot : (s.modLaunch r f).boot = s.boot := rfl
@[simp] theorem State.modLaunch_keyHash : (s.modLaunch r f).keyHash = s.keyHash := rfl
@[simp] theorem State.modLaunch_minSvn : (s.modLaunch r f).minSvn = s.minSvn := rfl
@[simp] theorem State.modLaunch_flash : (s.modLaunch r f).flash = s.flash := rfl
@[simp] theorem State.modLaunch_writing : (s.modLaunch r f).writing = s.writing := rfl
@[simp] theorem State.modLaunch_torn : (s.modLaunch r f).torn = s.torn := rfl
@[simp] theorem State.modLaunch_staging : (s.modLaunch r f).staging = s.staging := rfl
@[simp] theorem State.modLaunch_repairOk : (s.modLaunch r f).repairOk = s.repairOk := rfl
@[simp] theorem State.modLaunch_bootDigest : (s.modLaunch r f).bootDigest = s.bootDigest := rfl
@[simp] theorem State.modLaunch_bootSvn : (s.modLaunch r f).bootSvn = s.bootSvn := rfl
@[simp] theorem State.modLaunch_identity : (s.modLaunch r f).identity = s.identity := rfl
@[simp] theorem State.modLaunch_dtb : (s.modLaunch r f).dtb = s.dtb := rfl
@[simp] theorem State.modLaunch_pwrCap : (s.modLaunch r f).pwrCap = s.pwrCap := rfl
@[simp] theorem State.modLaunch_sides : (s.modLaunch r f).sides = s.sides := rfl
@[simp] theorem State.modLaunch_billets : (s.modLaunch r f).billets = s.billets := rfl
@[simp] theorem State.modLaunch_mem : (s.modLaunch r f).mem = s.mem := rfl
@[simp] theorem State.modLaunch_scr : (s.modLaunch r f).scr = s.scr := rfl
@[simp] theorem State.modLaunch_contexts : (s.modLaunch r f).contexts = s.contexts := rfl
@[simp] theorem State.modLaunch_queues : (s.modLaunch r f).queues = s.queues := rfl
@[simp] theorem State.modLaunch_funcs : (s.modLaunch r f).funcs = s.funcs := rfl
@[simp] theorem State.modLaunch_flits : (s.modLaunch r f).flits = s.flits := rfl
@[simp] theorem State.modLaunch_late : (s.modLaunch r f).late = s.late := rfl
@[simp] theorem State.modLaunch_signals : (s.modLaunch r f).signals = s.signals := rfl
@[simp] theorem State.modLaunch_sparse : (s.modLaunch r f).sparse = s.sparse := rfl
@[simp] theorem State.modLaunch_tlb : (s.modLaunch r f).tlb = s.tlb := rfl
@[simp] theorem State.modLaunch_links : (s.modLaunch r f).links = s.links := rfl
@[simp] theorem State.modLaunch_faultLog : (s.modLaunch r f).faultLog = s.faultLog := rfl
@[simp] theorem State.modLaunch_faultLogNext : (s.modLaunch r f).faultLogNext = s.faultLogNext := rfl
@[simp] theorem State.modLaunch_withdrawn : (s.modLaunch r f).withdrawn = s.withdrawn := rfl
@[simp] theorem State.modLaunch_badLines : (s.modLaunch r f).badLines = s.badLines := rfl
@[simp] theorem State.modLaunch_msix : (s.modLaunch r f).msix = s.msix := rfl
@[simp] theorem State.modLaunch_sessions : (s.modLaunch r f).sessions = s.sessions := rfl
@[simp] theorem State.modLaunch_answer : (s.modLaunch r f).answer = s.answer := rfl
@[simp] theorem State.modLaunch_records : (s.modLaunch r f).records = s.records := rfl
@[simp] theorem State.modLaunch_due : (s.modLaunch r f).due = s.due := rfl
@[simp] theorem State.modLaunch_brkStore : (s.modLaunch r f).brkStore = s.brkStore := rfl
@[simp] theorem State.modLaunch_spdmVersions : (s.modLaunch r f).spdmVersions = s.spdmVersions := rfl
@[simp] theorem State.modLaunch_spdmAlgo : (s.modLaunch r f).spdmAlgo = s.spdmAlgo := rfl
@[simp] theorem State.modLaunch_measured : (s.modLaunch r f).measured = s.measured := rfl
end modLaunch

section writeRecord
variable (s : State) (f : FaultInfo)
@[simp] theorem State.writeRecord_agenda : (s.writeRecord f).agenda = s.agenda := rfl
@[simp] theorem State.writeRecord_sel : (s.writeRecord f).sel = s.sel := rfl
@[simp] theorem State.writeRecord_oracle : (s.writeRecord f).oracle = s.oracle := rfl
@[simp] theorem State.writeRecord_power : (s.writeRecord f).power = s.power := rfl
@[simp] theorem State.writeRecord_aux : (s.writeRecord f).aux = s.aux := rfl
@[simp] theorem State.writeRecord_wakeAsked : (s.writeRecord f).wakeAsked = s.wakeAsked := rfl
@[simp] theorem State.writeRecord_wakeAt : (s.writeRecord f).wakeAt = s.wakeAt := rfl
@[simp] theorem State.writeRecord_entering : (s.writeRecord f).entering = s.entering := rfl
@[simp] theorem State.writeRecord_enterReq : (s.writeRecord f).enterReq = s.enterReq := rfl
@[simp] theorem State.writeRecord_goWaits : (s.writeRecord f).goWaits = s.goWaits := rfl
@[simp] theorem State.writeRecord_boot : (s.writeRecord f).boot = s.boot := rfl
@[simp] theorem State.writeRecord_keyHash : (s.writeRecord f).keyHash = s.keyHash := rfl
@[simp] theorem State.writeRecord_minSvn : (s.writeRecord f).minSvn = s.minSvn := rfl
@[simp] theorem State.writeRecord_flash : (s.writeRecord f).flash = s.flash := rfl
@[simp] theorem State.writeRecord_writing : (s.writeRecord f).writing = s.writing := rfl
@[simp] theorem State.writeRecord_torn : (s.writeRecord f).torn = s.torn := rfl
@[simp] theorem State.writeRecord_staging : (s.writeRecord f).staging = s.staging := rfl
@[simp] theorem State.writeRecord_repairOk : (s.writeRecord f).repairOk = s.repairOk := rfl
@[simp] theorem State.writeRecord_bootDigest : (s.writeRecord f).bootDigest = s.bootDigest := rfl
@[simp] theorem State.writeRecord_bootSvn : (s.writeRecord f).bootSvn = s.bootSvn := rfl
@[simp] theorem State.writeRecord_identity : (s.writeRecord f).identity = s.identity := rfl
@[simp] theorem State.writeRecord_dtb : (s.writeRecord f).dtb = s.dtb := rfl
@[simp] theorem State.writeRecord_pwrCap : (s.writeRecord f).pwrCap = s.pwrCap := rfl
@[simp] theorem State.writeRecord_sides : (s.writeRecord f).sides = s.sides := rfl
@[simp] theorem State.writeRecord_billets : (s.writeRecord f).billets = s.billets := rfl
@[simp] theorem State.writeRecord_mem : (s.writeRecord f).mem = s.mem := rfl
@[simp] theorem State.writeRecord_scr : (s.writeRecord f).scr = s.scr := rfl
@[simp] theorem State.writeRecord_contexts : (s.writeRecord f).contexts = s.contexts := rfl
@[simp] theorem State.writeRecord_queues : (s.writeRecord f).queues = s.queues := rfl
@[simp] theorem State.writeRecord_funcs : (s.writeRecord f).funcs = s.funcs := rfl
@[simp] theorem State.writeRecord_launches : (s.writeRecord f).launches = s.launches := rfl
@[simp] theorem State.writeRecord_flits : (s.writeRecord f).flits = s.flits := rfl
@[simp] theorem State.writeRecord_late : (s.writeRecord f).late = s.late := rfl
@[simp] theorem State.writeRecord_signals : (s.writeRecord f).signals = s.signals := rfl
@[simp] theorem State.writeRecord_sparse : (s.writeRecord f).sparse = s.sparse := rfl
@[simp] theorem State.writeRecord_tlb : (s.writeRecord f).tlb = s.tlb := rfl
@[simp] theorem State.writeRecord_links : (s.writeRecord f).links = s.links := rfl
@[simp] theorem State.writeRecord_faultLog : (s.writeRecord f).faultLog = s.faultLog := rfl
@[simp] theorem State.writeRecord_faultLogNext : (s.writeRecord f).faultLogNext = s.faultLogNext := rfl
@[simp] theorem State.writeRecord_withdrawn : (s.writeRecord f).withdrawn = s.withdrawn := rfl
@[simp] theorem State.writeRecord_badLines : (s.writeRecord f).badLines = s.badLines := rfl
@[simp] theorem State.writeRecord_msix : (s.writeRecord f).msix = s.msix := rfl
@[simp] theorem State.writeRecord_sessions : (s.writeRecord f).sessions = s.sessions := rfl
@[simp] theorem State.writeRecord_answer : (s.writeRecord f).answer = s.answer := rfl
@[simp] theorem State.writeRecord_due : (s.writeRecord f).due = s.due := rfl
@[simp] theorem State.writeRecord_brkStore : (s.writeRecord f).brkStore = s.brkStore := rfl
@[simp] theorem State.writeRecord_spdmVersions : (s.writeRecord f).spdmVersions = s.spdmVersions := rfl
@[simp] theorem State.writeRecord_spdmAlgo : (s.writeRecord f).spdmAlgo = s.spdmAlgo := rfl
@[simp] theorem State.writeRecord_measured : (s.writeRecord f).measured = s.measured := rfl
end writeRecord

section modQueue
variable (s : State) (q : Nat) (f : VQueue → VQueue)
@[simp] theorem State.modQueue_agenda : (s.modQueue q f).agenda = s.agenda := by unfold State.modQueue; split <;> rfl
@[simp] theorem State.modQueue_sel : (s.modQueue q f).sel = s.sel := by unfold State.modQueue; split <;> rfl
@[simp] theorem State.modQueue_oracle : (s.modQueue q f).oracle = s.oracle := by unfold State.modQueue; split <;> rfl
@[simp] theorem State.modQueue_power : (s.modQueue q f).power = s.power := by unfold State.modQueue; split <;> rfl
@[simp] theorem State.modQueue_aux : (s.modQueue q f).aux = s.aux := by unfold State.modQueue; split <;> rfl
@[simp] theorem State.modQueue_wakeAsked : (s.modQueue q f).wakeAsked = s.wakeAsked := by unfold State.modQueue; split <;> rfl
@[simp] theorem State.modQueue_wakeAt : (s.modQueue q f).wakeAt = s.wakeAt := by unfold State.modQueue; split <;> rfl
@[simp] theorem State.modQueue_entering : (s.modQueue q f).entering = s.entering := by unfold State.modQueue; split <;> rfl
@[simp] theorem State.modQueue_enterReq : (s.modQueue q f).enterReq = s.enterReq := by unfold State.modQueue; split <;> rfl
@[simp] theorem State.modQueue_goWaits : (s.modQueue q f).goWaits = s.goWaits := by unfold State.modQueue; split <;> rfl
@[simp] theorem State.modQueue_boot : (s.modQueue q f).boot = s.boot := by unfold State.modQueue; split <;> rfl
@[simp] theorem State.modQueue_keyHash : (s.modQueue q f).keyHash = s.keyHash := by unfold State.modQueue; split <;> rfl
@[simp] theorem State.modQueue_minSvn : (s.modQueue q f).minSvn = s.minSvn := by unfold State.modQueue; split <;> rfl
@[simp] theorem State.modQueue_flash : (s.modQueue q f).flash = s.flash := by unfold State.modQueue; split <;> rfl
@[simp] theorem State.modQueue_writing : (s.modQueue q f).writing = s.writing := by unfold State.modQueue; split <;> rfl
@[simp] theorem State.modQueue_torn : (s.modQueue q f).torn = s.torn := by unfold State.modQueue; split <;> rfl
@[simp] theorem State.modQueue_staging : (s.modQueue q f).staging = s.staging := by unfold State.modQueue; split <;> rfl
@[simp] theorem State.modQueue_repairOk : (s.modQueue q f).repairOk = s.repairOk := by unfold State.modQueue; split <;> rfl
@[simp] theorem State.modQueue_bootDigest : (s.modQueue q f).bootDigest = s.bootDigest := by unfold State.modQueue; split <;> rfl
@[simp] theorem State.modQueue_bootSvn : (s.modQueue q f).bootSvn = s.bootSvn := by unfold State.modQueue; split <;> rfl
@[simp] theorem State.modQueue_identity : (s.modQueue q f).identity = s.identity := by unfold State.modQueue; split <;> rfl
@[simp] theorem State.modQueue_dtb : (s.modQueue q f).dtb = s.dtb := by unfold State.modQueue; split <;> rfl
@[simp] theorem State.modQueue_pwrCap : (s.modQueue q f).pwrCap = s.pwrCap := by unfold State.modQueue; split <;> rfl
@[simp] theorem State.modQueue_sides : (s.modQueue q f).sides = s.sides := by unfold State.modQueue; split <;> rfl
@[simp] theorem State.modQueue_billets : (s.modQueue q f).billets = s.billets := by unfold State.modQueue; split <;> rfl
@[simp] theorem State.modQueue_mem : (s.modQueue q f).mem = s.mem := by unfold State.modQueue; split <;> rfl
@[simp] theorem State.modQueue_scr : (s.modQueue q f).scr = s.scr := by unfold State.modQueue; split <;> rfl
@[simp] theorem State.modQueue_contexts : (s.modQueue q f).contexts = s.contexts := by unfold State.modQueue; split <;> rfl
@[simp] theorem State.modQueue_funcs : (s.modQueue q f).funcs = s.funcs := by unfold State.modQueue; split <;> rfl
@[simp] theorem State.modQueue_launches : (s.modQueue q f).launches = s.launches := by unfold State.modQueue; split <;> rfl
@[simp] theorem State.modQueue_flits : (s.modQueue q f).flits = s.flits := by unfold State.modQueue; split <;> rfl
@[simp] theorem State.modQueue_late : (s.modQueue q f).late = s.late := by unfold State.modQueue; split <;> rfl
@[simp] theorem State.modQueue_signals : (s.modQueue q f).signals = s.signals := by unfold State.modQueue; split <;> rfl
@[simp] theorem State.modQueue_sparse : (s.modQueue q f).sparse = s.sparse := by unfold State.modQueue; split <;> rfl
@[simp] theorem State.modQueue_tlb : (s.modQueue q f).tlb = s.tlb := by unfold State.modQueue; split <;> rfl
@[simp] theorem State.modQueue_links : (s.modQueue q f).links = s.links := by unfold State.modQueue; split <;> rfl
@[simp] theorem State.modQueue_faultLog : (s.modQueue q f).faultLog = s.faultLog := by unfold State.modQueue; split <;> rfl
@[simp] theorem State.modQueue_faultLogNext : (s.modQueue q f).faultLogNext = s.faultLogNext := by unfold State.modQueue; split <;> rfl
@[simp] theorem State.modQueue_withdrawn : (s.modQueue q f).withdrawn = s.withdrawn := by unfold State.modQueue; split <;> rfl
@[simp] theorem State.modQueue_badLines : (s.modQueue q f).badLines = s.badLines := by unfold State.modQueue; split <;> rfl
@[simp] theorem State.modQueue_msix : (s.modQueue q f).msix = s.msix := by unfold State.modQueue; split <;> rfl
@[simp] theorem State.modQueue_sessions : (s.modQueue q f).sessions = s.sessions := by unfold State.modQueue; split <;> rfl
@[simp] theorem State.modQueue_answer : (s.modQueue q f).answer = s.answer := by unfold State.modQueue; split <;> rfl
@[simp] theorem State.modQueue_records : (s.modQueue q f).records = s.records := by unfold State.modQueue; split <;> rfl
@[simp] theorem State.modQueue_due : (s.modQueue q f).due = s.due := by unfold State.modQueue; split <;> rfl
@[simp] theorem State.modQueue_brkStore : (s.modQueue q f).brkStore = s.brkStore := by unfold State.modQueue; split <;> rfl
@[simp] theorem State.modQueue_spdmVersions : (s.modQueue q f).spdmVersions = s.spdmVersions := by unfold State.modQueue; split <;> rfl
@[simp] theorem State.modQueue_spdmAlgo : (s.modQueue q f).spdmAlgo = s.spdmAlgo := by unfold State.modQueue; split <;> rfl
@[simp] theorem State.modQueue_measured : (s.modQueue q f).measured = s.measured := by unfold State.modQueue; split <;> rfl
end modQueue

section sendMsix
variable (s : State) (fn v : Nat)
@[simp] theorem State.sendMsix_agenda : (s.sendMsix fn v).agenda = s.agenda := by unfold State.sendMsix; split <;> rfl
@[simp] theorem State.sendMsix_sel : (s.sendMsix fn v).sel = s.sel := by unfold State.sendMsix; split <;> rfl
@[simp] theorem State.sendMsix_oracle : (s.sendMsix fn v).oracle = s.oracle := by unfold State.sendMsix; split <;> rfl
@[simp] theorem State.sendMsix_power : (s.sendMsix fn v).power = s.power := by unfold State.sendMsix; split <;> rfl
@[simp] theorem State.sendMsix_aux : (s.sendMsix fn v).aux = s.aux := by unfold State.sendMsix; split <;> rfl
@[simp] theorem State.sendMsix_wakeAsked : (s.sendMsix fn v).wakeAsked = s.wakeAsked := by unfold State.sendMsix; split <;> rfl
@[simp] theorem State.sendMsix_wakeAt : (s.sendMsix fn v).wakeAt = s.wakeAt := by unfold State.sendMsix; split <;> rfl
@[simp] theorem State.sendMsix_entering : (s.sendMsix fn v).entering = s.entering := by unfold State.sendMsix; split <;> rfl
@[simp] theorem State.sendMsix_enterReq : (s.sendMsix fn v).enterReq = s.enterReq := by unfold State.sendMsix; split <;> rfl
@[simp] theorem State.sendMsix_goWaits : (s.sendMsix fn v).goWaits = s.goWaits := by unfold State.sendMsix; split <;> rfl
@[simp] theorem State.sendMsix_boot : (s.sendMsix fn v).boot = s.boot := by unfold State.sendMsix; split <;> rfl
@[simp] theorem State.sendMsix_keyHash : (s.sendMsix fn v).keyHash = s.keyHash := by unfold State.sendMsix; split <;> rfl
@[simp] theorem State.sendMsix_minSvn : (s.sendMsix fn v).minSvn = s.minSvn := by unfold State.sendMsix; split <;> rfl
@[simp] theorem State.sendMsix_flash : (s.sendMsix fn v).flash = s.flash := by unfold State.sendMsix; split <;> rfl
@[simp] theorem State.sendMsix_writing : (s.sendMsix fn v).writing = s.writing := by unfold State.sendMsix; split <;> rfl
@[simp] theorem State.sendMsix_torn : (s.sendMsix fn v).torn = s.torn := by unfold State.sendMsix; split <;> rfl
@[simp] theorem State.sendMsix_staging : (s.sendMsix fn v).staging = s.staging := by unfold State.sendMsix; split <;> rfl
@[simp] theorem State.sendMsix_repairOk : (s.sendMsix fn v).repairOk = s.repairOk := by unfold State.sendMsix; split <;> rfl
@[simp] theorem State.sendMsix_bootDigest : (s.sendMsix fn v).bootDigest = s.bootDigest := by unfold State.sendMsix; split <;> rfl
@[simp] theorem State.sendMsix_bootSvn : (s.sendMsix fn v).bootSvn = s.bootSvn := by unfold State.sendMsix; split <;> rfl
@[simp] theorem State.sendMsix_identity : (s.sendMsix fn v).identity = s.identity := by unfold State.sendMsix; split <;> rfl
@[simp] theorem State.sendMsix_dtb : (s.sendMsix fn v).dtb = s.dtb := by unfold State.sendMsix; split <;> rfl
@[simp] theorem State.sendMsix_pwrCap : (s.sendMsix fn v).pwrCap = s.pwrCap := by unfold State.sendMsix; split <;> rfl
@[simp] theorem State.sendMsix_sides : (s.sendMsix fn v).sides = s.sides := by unfold State.sendMsix; split <;> rfl
@[simp] theorem State.sendMsix_billets : (s.sendMsix fn v).billets = s.billets := by unfold State.sendMsix; split <;> rfl
@[simp] theorem State.sendMsix_mem : (s.sendMsix fn v).mem = s.mem := by unfold State.sendMsix; split <;> rfl
@[simp] theorem State.sendMsix_scr : (s.sendMsix fn v).scr = s.scr := by unfold State.sendMsix; split <;> rfl
@[simp] theorem State.sendMsix_contexts : (s.sendMsix fn v).contexts = s.contexts := by unfold State.sendMsix; split <;> rfl
@[simp] theorem State.sendMsix_queues : (s.sendMsix fn v).queues = s.queues := by unfold State.sendMsix; split <;> rfl
@[simp] theorem State.sendMsix_launches : (s.sendMsix fn v).launches = s.launches := by unfold State.sendMsix; split <;> rfl
@[simp] theorem State.sendMsix_flits : (s.sendMsix fn v).flits = s.flits := by unfold State.sendMsix; split <;> rfl
@[simp] theorem State.sendMsix_late : (s.sendMsix fn v).late = s.late := by unfold State.sendMsix; split <;> rfl
@[simp] theorem State.sendMsix_signals : (s.sendMsix fn v).signals = s.signals := by unfold State.sendMsix; split <;> rfl
@[simp] theorem State.sendMsix_sparse : (s.sendMsix fn v).sparse = s.sparse := by unfold State.sendMsix; split <;> rfl
@[simp] theorem State.sendMsix_tlb : (s.sendMsix fn v).tlb = s.tlb := by unfold State.sendMsix; split <;> rfl
@[simp] theorem State.sendMsix_links : (s.sendMsix fn v).links = s.links := by unfold State.sendMsix; split <;> rfl
@[simp] theorem State.sendMsix_faultLog : (s.sendMsix fn v).faultLog = s.faultLog := by unfold State.sendMsix; split <;> rfl
@[simp] theorem State.sendMsix_faultLogNext : (s.sendMsix fn v).faultLogNext = s.faultLogNext := by unfold State.sendMsix; split <;> rfl
@[simp] theorem State.sendMsix_withdrawn : (s.sendMsix fn v).withdrawn = s.withdrawn := by unfold State.sendMsix; split <;> rfl
@[simp] theorem State.sendMsix_badLines : (s.sendMsix fn v).badLines = s.badLines := by unfold State.sendMsix; split <;> rfl
@[simp] theorem State.sendMsix_sessions : (s.sendMsix fn v).sessions = s.sessions := by unfold State.sendMsix; split <;> rfl
@[simp] theorem State.sendMsix_answer : (s.sendMsix fn v).answer = s.answer := by unfold State.sendMsix; split <;> rfl
@[simp] theorem State.sendMsix_records : (s.sendMsix fn v).records = s.records := by unfold State.sendMsix; split <;> rfl
@[simp] theorem State.sendMsix_due : (s.sendMsix fn v).due = s.due := by unfold State.sendMsix; split <;> rfl
@[simp] theorem State.sendMsix_brkStore : (s.sendMsix fn v).brkStore = s.brkStore := by unfold State.sendMsix; split <;> rfl
@[simp] theorem State.sendMsix_spdmVersions : (s.sendMsix fn v).spdmVersions = s.spdmVersions := by unfold State.sendMsix; split <;> rfl
@[simp] theorem State.sendMsix_spdmAlgo : (s.sendMsix fn v).spdmAlgo = s.spdmAlgo := by unfold State.sendMsix; split <;> rfl
@[simp] theorem State.sendMsix_measured : (s.sendMsix fn v).measured = s.measured := by unfold State.sendMsix; split <;> rfl
end sendMsix

end Sys2Proof.Machine
end

