-- ==== Sys2Proof/Tests/Slice0.lean ====
section
/-! SUPPORT. The model's own tests: ill-formed terms that the check refuses, words written out from the spec's encodings, witnesses for the
hypotheses of the statements, and single steps whose results the spec gives. -/

namespace Sys2Proof.Tests

open Sys2Proof Sys2Proof.Machine

/-! ### Well-formedness: a term for each check, refused -/

/-- A node without an extension. -/
def plain (w : Shape) (t0 t1 : Target) : GNode := ⟨w, t0, t1, none⟩

/-- A node with an immediate and XMOD. -/
def withImm (w : Shape) (t0 t1 : Target) (isel : ISel) (xmod : BitVec 6) (imm : BitVec 16) : GNode :=
  ⟨w, t0, t1, some ⟨0, 0, isel, xmod, imm⟩⟩

theorem test_wf_shape : WellFormed (.and (plain .packed (.chan 0) .none)) = false := by decide
theorem test_wf_shape_lane : WellFormed (.lget (plain .vec (.chan 0) .none)) = false := by decide
theorem test_wf_targets_none : WellFormed (.sink (plain .word (.chan 0) .none)) = false := by decide
theorem test_wf_target_t1 : WellFormed (.raise (plain .word (.chan 0) (.chan 1))) = false := by decide
theorem test_wf_modifier : WellFormed (.hset (plain .word (.chan 0) .none) false false) = false := by decide
theorem test_wf_access : WellFormed (.ldx ⟨.vec, .chan 0, .none, ⟨0, 0, 62, 62, .tile, 0, 0⟩⟩ .glb .plain) = false := by decide
theorem test_wf_order : WellFormed (.ld ⟨.word, .chan 0, .none, ⟨0, 0, 62, 62, .tile, 0, 0⟩⟩ .glb .rel) = false := by decide
theorem test_wf_operation : WellFormed (.amo ⟨.word, .chan 0, .chan 1, ⟨0, 0, 62, 62, .tile, 0, 0⟩⟩ .glb .plain .add) = false := by decide
theorem test_wf_event : WellFormed (.knockService 0) = false := by decide
theorem test_wf_good : WellFormed (.amo ⟨.word, .chan 0, .none, ⟨0, 0, 62, 62, .tile, 0, 0⟩⟩ .glb .plain .add) = true := by decide

/-! ### Decoding: words of the spec's worked encodings, one or more for each row of the opcode map -/

/-- Row 0x0: add.i32 of port L and 64 to n2.l. -/
theorem test_decode_add : decode [0x02408400, 0x00800040] =
    .ok (.add (withImm .word (.port 2 .L) .none .r 0 64) .i32 false, []) := rfl
/-- Row 0x1: OP 0x10, M 0000; OP 0x1F with its T0. -/
theorem test_decode_row1 : decode [0x2000C000] = .ok (.cmp (plain .word (.port 32 .L) .none) .eq, []) ∧
    decode [0x3E008400] = .ok (.rdslack (plain .word (.port 2 .L) .none), []) := ⟨rfl, rfl⟩
/-- Row 0x2: ffma with 1.5 at Q; fcmp.ole. -/
theorem test_decode_float : decode [0x46420600, 0x00C03FC0] = .ok (.ffma (withImm .word (.chan 3) .none .q 0 0x3FC0) .f32 .rne, []) ∧
    decode [0x4C152A00] = .ok (.fcmp (plain .word (.port 21 .R) .none) .ole, []) := ⟨rfl, rfl⟩
/-- Row 0x3: dot with sticky L; unpack of vectors. -/
theorem test_decode_narrow :
    decode [0x74419C00, 0xF0190C0A] = .ok (.dot ⟨.word, .port 14 .Q, .none, some ⟨15, 0, .none, 0x19, 0x0C0A⟩⟩ false false .rne, []) ∧
    decode [0x64C12200, 0x00010000] = .ok (.unpack (withImm .vec (.port 17 .R) .none .none 1 0), []) := ⟨rfl, rfl⟩
/-- Row 0x4: rsum. -/
theorem test_decode_lanes : decode [0x80A20200] = .ok (.rsum (plain .vec (.chan 1) .none) (.flt .rne), []) := rfl
/-- Row 0x5: steer, carry with LIMIT 12, isend, porter, isect. -/
theorem test_decode_flow : decode [0xA080CA63] = .ok (.steer (plain .vec (.port 37 .L) (.port 35 .L)) false, []) ∧
    decode [0xA4408A00, 0x0000000C] = .ok (.carry (withImm .word (.port 5 .L) .none .none 0 12) false, []) ∧
    decode [0xAC008242] = .ok (.isend (plain .word (.port 1 .L) (.port 2 .L)), []) ∧
    decode [0xBAC08510, 0x000000E0] = .ok (.porter (withImm .vec (.port 2 .L) (.chan 16) .none 0 0xE0), []) ∧
    decode [0xB6020200] = .ok (.isect (plain .word (.chan 1) .none), []) := ⟨rfl, rfl, rfl, rfl, rfl⟩
/-- Row 0x6: ld, st, red, wtaddr, cpy. -/
theorem test_decode_memory :
    decode [0xC0D60A00, 0x00FFF442] = .ok (.ld ⟨.vec, .chan 5, .none, ⟨0, 0, 63, 63, .side, 1, 2⟩⟩ .glb .acq, []) ∧
    decode [0xC2509000, 0x00FBE000] = .ok (.st ⟨.word, .port 8 .L, .none, ⟨0, 0, 62, 62, .tile, 0, 0⟩⟩ .glb .plain, []) ∧
    decode [0xCA40B406, 0xF0FBE000] = .ok (.red ⟨.word, .port 26 .L, .none, ⟨15, 0, 62, 62, .tile, 0, 0⟩⟩ .scr .plain .smax, []) ∧
    decode [0xCE508200, 0x00920001] = .ok (.wtaddr (withImm .word (.port 1 .L) .none .r 0x12 1) true .eq, []) ∧
    decode [0xD8808C00] = .ok (.cpy (plain .vec (.port 6 .L) .none), []) := ⟨rfl, rfl, rfl, rfl, rfl⟩
/-- Row 0x7: mma, mdrain, rpush, spacc, chk. -/
theorem test_decode_system : decode [0xE0740000, 0x64040C04] = .ok (.mma ⟨3, 1, 0, 1, 3, 4⟩ true true .i32, []) ∧
    decode [0xE4420400, 0x00000001] = .ok (.mdrain (withImm .word (.chan 2) .none .none 0 1), []) ∧
    decode [0xE6C09000, 0x00000002] = .ok (.rpush (withImm .vec (.port 8 .L) .none .none 0 2), []) ∧
    decode [0xEA009C00] = .ok (.spacc (plain .word (.port 14 .L) .none), []) ∧
    decode [0xF8040000] = .ok (.chk (plain .word .none .none) .partially, []) := ⟨rfl, rfl, rfl, rfl, rfl⟩
/-- R80, R82 to R84, R86: the marker with a set bit, the reserved W, a reserved target, a missing extension. -/
theorem test_decode_refused : decode [0] = .error .marker ∧ decode [0x00000001] = .error .reservedOpcode ∧
    decode [0x03800000] = .error .reservedShape ∧ decode [0x02000200] = .error .reservedTarget ∧
    decode [0xE0340000] = .error .missingExtension := ⟨rfl, rfl, rfl, rfl, rfl⟩

/-! ### States for single steps -/

/-- The node with these station words alone in its billet, selected, with the tokens that State.place gives it. -/
def site (w : Nat) : State := { State.reset.place 64 w with agenda := [] }

/-- The instruction of station words. -/
def instr (w : Nat) : Instr := (decodeTableWord 64 w).getD (.sink (plain .word .none .none))

/-- The same with tokens of the test's own. -/
def withToks (w : Nat) (es : List Entry) : State := (site w).modTile ⟨1, 0⟩ fun t => { t with store := es }

/-- A token at a port of the node. -/
def tokenAt (p : Port) (tag : Tag) (v : Word) : Entry := { blk := 0, slot := 0, port := p, tok := ⟨tag, .word v⟩ }

/-- Tokens at L and R. -/
def lr (a b : Word) : List Entry := [tokenAt .L {} a, tokenAt .R {} b]

/-- An END of LEVEL 2. -/
def endAt (p : Port) (tag : Tag) : Entry := tokenAt p { tag with kind := .fin } 2

/-- The node fires: it had room (State.Free). -/
def issued (i : Instr) (s : State) : Bool :=
  match exec i s with
  | .next t => (t.tile t.selTile).issued
  | _ => false

/-- The node traps: one record, in a free issue stream. -/
def trapped (i : Instr) (s : State) : Bool :=
  match exec i s with
  | .next t => t.records.length == 1 && !(t.tile t.selTile).issued
  | _ => false

/-- The words of an instruction, numbered from bit 0. -/
def wordsOf (i : Instr) : Nat := ((encode i).zipIdx.map fun (w, k) => w.toNat * 2 ^ (32 * k)).sum

/-- The instruction alone in its billet with a token of zero at each port it reads, and with tokens of the test's own. -/
def alone (i : Instr) : State := site (wordsOf i)
def fed (i : Instr) (es : List Entry) : State := withToks (wordsOf i) es

/-- The billet runs and the block is not gated. -/
def opened (s : State) : Bool := s.live s.sel.b && ((s.billet s.sel.b).blockGate s.sel.t s.sel.blk).isNone

/-- Some tag and tokens meet State.Matched, or State.Ended. -/
def matched (i : Instr) (s : State) : Bool :=
  opened s && (match s.chosen i with
    | .fire .. => true
    | _ => false)
def ended (i : Instr) (s : State) : Bool :=
  opened s && (match s.chosen i with
    | .fin .. => true
    | _ => false)

/-- It matches, or has an END, and what it does has room. -/
def goes (i : Instr) (s : State) : Bool := matched i s && issued i s
def goesEnd (i : Instr) (s : State) : Bool := ended i s && issued i s
def stops (i : Instr) (s : State) : Bool := matched i s && trapped i s

/-- The reason a node holds after its issue attempt. -/
def holds (i : Instr) (s : State) : Option Nat :=
  match exec i s with
  | .next t => some (t.node t.sel).stall
  | _ => none

/-- An access node without a chain, and with a place behind position 1. -/
def acc (w : Access) : MNode := ⟨w, .none, .none, ⟨0, 0, 62, 62, .tile, 0, 0⟩⟩
def chained (w : Access) : MNode := ⟨w, .none, .none, ⟨0, 0, 1, 62, .tile, 0, 0⟩⟩
def bare (w : Shape) : GNode := plain w .none .none

/-- The instruction with a token of zero at each port, and a guard of zero; and with an END at each port. -/
def unguarded (i : Instr) : State := (alone i).modTile ⟨1, 0⟩ fun t =>
  { t with store := t.store ++ [tokenAt .Q {} 0], inCh := t.inCh ++ [(0, { dport := .Q })] }
def finished (i : Instr) : State := (alone i).modTile ⟨1, 0⟩ fun t =>
  { t with store := t.store.map fun e => { e with tok := ⟨{ e.tok.tag with kind := .fin }, .word 2⟩ } }

def masked (i : Instr) (es : List Entry) : State := (fed i (es ++ [tokenAt .Q {} 0])).modTile ⟨1, 0⟩ fun t =>
  { t with inCh := t.inCh ++ [(0, { dport := .Q })] }

/-- It goes on its data, under a false guard, and on its ENDs. -/
def goesAll (i : Instr) : Bool := goes i (alone i) && goes i (unguarded i) && goesEnd i (finished i)

/-- A vector token. -/
def vecAt (p : Port) (tag : Tag) (v : List Word) : Entry := { blk := 0, slot := 0, port := p, tok := ⟨tag, .vec v⟩ }

/-- The node matches, its gate is open and the issue stream is free, and it fires. -/
def fires (w : Nat) : Bool :=
  let s := site w
  s.live s.sel.b && ((s.billet s.sel.b).blockGate s.sel.t s.sel.blk).isNone && issued (instr w) s &&
    (match s.chosen (instr w) with
     | .fire .. => true
     | _ => false)

/-! ### Witnesses for the statements about nodes -/

theorem witness_DecodeEncode : WellFormed (instr 0x0080004002408400) = true := by decide
theorem witness_DecodeWellFormed : decode [0x30020000] = .ok (.mov (plain .word (.chan 0) .none), []) := rfl

theorem witness_StepRunsDecoded : (State.reset.place 64 0x02000000).agenda = [.issue ⟨1, 0, 0, 0⟩] ∧
    decode ((State.reset.place 64 0x02000000).wordsAt ⟨1, 0, 0, 0⟩) = .ok (.add (plain .word .none .none) .i32 false, [0]) ∧
    (Instr.knockService 0).isNode = false := ⟨rfl, rfl, rfl⟩

theorem witness_StepMemoryOk : State.reset.MemoryOk ∧ ∃ s', step State.reset = .next s' := ⟨⟨rfl, rfl⟩, _, rfl⟩

/-- Rows 0x0 and 0x1. -/
theorem witness_IntegerNodesFire :
    ([0x02000000, 0x04000000, 0x06000000, 0x08000000, 0x0A000000, 0x0C000000, 0x0E000000, 0x10000000, 0x12000000, 0x14000000, 0x16000000,
      0x18000000, 0x1A000000, 0x1C000000, 0x1E000000, 0x20000000, 0x22000000, 0x24000000, 0x26000000, 0x28000000, 0x2A000000, 0x2C000000,
      0x2E000000, 0x30000000, 0x32100000, 0x34000000, 0x36800000, 0x38000000, 0x3A000000, 0x3C000000, 0x3E000000].all fires) = true := by
  decide

/-- Its END half: tagset with ENDs at L and R. -/
theorem witness_TagsetEnd : ∃ tag level took, (withToks 0x3A000000 [endAt .L {}, endAt .R {}]).Ended (instr 0x3A000000) tag level took ∧
    issued (instr 0x3A000000) (withToks 0x3A000000 [endAt .L {}, endAt .R {}]) = true := ⟨_, _, _, ⟨⟨rfl, rfl⟩, rfl⟩, rfl⟩

/-- Row 0x2. -/
theorem witness_FloatNodesFire :
    ([0x40000000, 0x42000000, 0x44000000, 0x46000000, 0x48000000, 0x4A000000, 0x4C000000, 0x4E000000, 0x50000000, 0x52000000, 0x54000000,
      0x56000000, 0x58000000, 0x5A000000, 0x5C000000, 0x5E000000].all fires) = true := by decide

/-- Rows 0x3 and 0x4, and rng. -/
theorem witness_NarrowAndLaneNodesFire :
    ([0x60000000, 0x62000000, 0x64000000, 0x66000000, 0x68000000, 0x6A000000, 0x6C000000, 0x6E000000, 0x70000000, 0x72000000, 0x74000000,
      0xBC000000, 0x80800000, 0x82800000, 0x84800000, 0x86800000, 0x88800000, 0x8A800000, 0x8C800000, 0x8E800000, 0x90800000, 0x92000000,
      0x94800000, 0x96000000].all fires) = true := by decide

/-- The first and the last element of a type. -/
theorem witness_IntegerElements : 0 < intCount .i32 ∧ 3 < intCount .i8 := by decide

theorem witness_SteerFires : (∃ took, (withToks 0xA0000000 [tokenAt .L {} 5, tokenAt .R {} 1]).Matched (instr 0xA0000000) {} took) ∧
    issued (instr 0xA0000000) (withToks 0xA0000000 [tokenAt .L {} 5, tokenAt .R {} 1]) = true ∧
    (∃ level took, (withToks 0xA0000000 [endAt .L {}, endAt .R {}]).Ended (instr 0xA0000000) { kind := .fin } level took) ∧
    issued (instr 0xA0000000) (withToks 0xA0000000 [endAt .L {}, endAt .R {}]) = true ∧
    (∃ took, (withToks 0xA0000000 [tokenAt .L { pdep := 7 } 5, tokenAt .R { pdep := 7 } 1]).Matched (instr 0xA0000000) { pdep := 7 } took) ∧
    trapped (instr 0xA0000000) (withToks 0xA0000000 [tokenAt .L { pdep := 7 } 5, tokenAt .R { pdep := 7 } 1]) = true ∧
    Tag.legal { pdep := 6, path := 0x3F } = true :=
  ⟨⟨_, ⟨rfl, rfl⟩, rfl⟩, rfl, ⟨_, _, ⟨rfl, rfl⟩, rfl⟩, rfl, ⟨_, ⟨rfl, rfl⟩, rfl⟩, rfl, rfl⟩

/-- A token at L; a pair of ENDs; a pair of two LEVELs; a token at the wrong port; an END pair that stands longer than a token. -/
theorem witness_MergeFires :
    let ok := withToks 0xA2000000 [tokenAt .L { pdep := 1, path := 1 } 5, tokenAt .R { pdep := 1 } 1]
    let ends := withToks 0xA2000000 [endAt .L { pdep := 1, path := 1 }, endAt .R { pdep := 1 }]
    let odd := withToks 0xA2000000 [endAt .L { pdep := 1, path := 1 }, tokenAt .R { pdep := 1, kind := .fin } 3]
    let bad := withToks 0xA2000000 [tokenAt .L {} 5]
    let badOf (s : State) := (s.candidates .L).filter (mergeBad .L) ++ (s.candidates .R).filter (mergeBad .R)
    ok.Opened ∧ badOf ok = [] ∧ ok.mergePick = some (tokenAt .L { pdep := 1, path := 1 } 5) ∧ ok.mergeEnds = none ∧
    issued (instr 0xA2000000) ok = true ∧
    ends.Opened ∧ badOf ends = [] ∧ ends.mergePick = none ∧
    ends.mergeEnds = some (endAt .L { pdep := 1, path := 1 }, endAt .R { pdep := 1 }) ∧ issued (instr 0xA2000000) ends = true ∧
    mergeEndFirst { tokenAt .L { pdep := 1, path := 1 } 5 with since := 9 } (endAt .L {}) (endAt .R {}) = true ∧
    odd.Opened ∧ badOf odd = [] ∧ odd.mergePick = none ∧ odd.mergeEnds.isSome = true ∧ trapped (instr 0xA2000000) odd = true ∧
    bad.Opened ∧ (badOf bad).head? = some (tokenAt .L {} 5) ∧ trapped (instr 0xA2000000) bad = true :=
  ⟨⟨rfl, rfl⟩, rfl, rfl, rfl, rfl, ⟨rfl, rfl⟩, rfl, rfl, rfl, rfl, rfl, ⟨rfl, rfl⟩, rfl, rfl, rfl, rfl, ⟨rfl, rfl⟩, rfl, rfl⟩

/-- carry with LIMIT 1: a token that trapped at Q on an empty cycle and on one that is not; a feedback token, one without a PATH bit, an entry token, an END in, the END back at a closing and at an open node. -/
theorem witness_CarryFires :
    let w := 0x00000001A4400000
    let n := withImm .word .none .none .none 0 1
    let back := withToks w [tokenAt .R { pdep := 1, path := 1 } 5]
    let bare := withToks w [tokenAt .R {} 5]
    let entry := withToks w [tokenAt .L {} 5]
    let fin := withToks w [endAt .L {}]
    let late := withToks w [endAt .R {}]
    let home := late.modNode ⟨1, 0, 0, 0⟩ fun x => { x with closing := true }
    let atQ := withToks w [tokenAt .Q {} 5]
    let counted := atQ.modNode ⟨1, 0, 0, 0⟩ fun x => { x with carryCount := 1 }
    (atQ.candidates .Q).head? = some (tokenAt .Q {} 5) ∧ (atQ.node atQ.sel).carryCount ≤ (atQ.node atQ.sel).carryDown ∧
    trapped (instr w) atQ = true ∧ (counted.candidates .Q).head? = some (tokenAt .Q {} 5) ∧
    (counted.node counted.sel).carryDown < (counted.node counted.sel).carryCount ∧ (back.candidates .Q).head? = none ∧
    (fin.candidates .Q).head? = none ∧ (home.candidates .Q).head? = none ∧
    back.Opened ∧ earliest ((back.candidates .R).filter fun x => !x.tok.isEnd) = some (tokenAt .R { pdep := 1, path := 1 } 5) ∧
    issued (instr w) back = true ∧ trapped (instr w) bare = true ∧
    entry.Opened ∧ entry.candidates .R = [] ∧ (entry.node entry.sel).closing = false ∧
    entry.carryPick n (entry.candidates .L) = some (tokenAt .L {} 5) ∧ issued (instr w) entry = true ∧
    fin.carryPick n (fin.candidates .L) = some (endAt .L {}) ∧ issued (instr w) fin = true ∧
    home.Opened ∧ ((home.candidates .R).filter fun x => x.tok.isEnd && home.endReady .R x).head? = some (endAt .R {}) ∧
    (home.node home.sel).closing = true ∧ issued (instr w) home = true ∧ trapped (instr w) late = true :=
  ⟨rfl, by decide, rfl, rfl, by decide, rfl, rfl, rfl, ⟨rfl, rfl⟩, rfl, rfl, rfl, ⟨rfl, rfl⟩, rfl, rfl, rfl, rfl, rfl, rfl, ⟨rfl, rfl⟩, rfl, rfl, rfl, rfl⟩

theorem witness_SinkFires : (∃ tag took, (site 0xA8000000).Matched (instr 0xA8000000) tag took) ∧ fires 0xA8000000 = true ∧
    (∃ tag level took, (withToks 0xA8000000 [endAt .L {}]).Ended (instr 0xA8000000) tag level took) ∧
    issued (instr 0xA8000000) (withToks 0xA8000000 [endAt .L {}]) = true :=
  ⟨⟨_, _, ⟨rfl, rfl⟩, rfl⟩, rfl, ⟨_, _, _, ⟨rfl, rfl⟩, rfl⟩, rfl⟩

/-- gate, its END; gate .count with 4 slots, with none, its END; isend, its END. -/
theorem witness_FilterNodesFire :
    let w := 0x00000004A6440000
    let i := instr w
    let meter := withToks w [tokenAt .L {} 5]
    let none_ := withToks 0x00000000A6440000 [tokenAt .L {} 5]
    let fin := withToks w [endAt .L {}]
    fires 0xA6000000 = true ∧ goesEnd (instr 0xA6000000) (withToks 0xA6000000 [endAt .L {}, endAt .R {}]) = true ∧
    meter.Opened ∧ (∃ tag took, meter.chooseOn i [.L] = .fire tag took) ∧
    gateFree (withImm .word .none .none .none 0 4) (meter.node meter.sel) ≠ 0 ∧ issued i meter = true ∧
    gateFree (withImm .word .none .none .none 0 0) (none_.node none_.sel) = 0 ∧ holds (instr 0x00000000A6440000) none_ = some 2 ∧
    pickBest (((none_.tile none_.selTile).taggedReady none_.sel.blk none_.sel.slot (instr 0x00000000A6440000) [.L]).filter fun p =>
      mayChoose false true p.2) = none ∧
    fin.Opened ∧ (∃ tag level took, fin.chooseOn i [.L] = .fin tag level took) ∧ issued i fin = true ∧
    fires 0xAC000000 = true ∧ goesEnd (instr 0xAC000000) (withToks 0xAC000000 [endAt .L {}]) = true :=
  ⟨rfl, rfl, ⟨rfl, rfl⟩, ⟨_, _, rfl⟩, by decide, rfl, rfl, rfl, rfl, ⟨rfl, rfl⟩, ⟨_, _, _, rfl⟩, rfl, rfl, rfl⟩

/-- cnt, join of one and of many, of an END with and without a group, of the END behind it, eos .emit, eos .count with N = 1 before and
after its DATA, and their ENDs. -/
theorem witness_CountingNodesFire :
    let every := 0x00000011AA440000
    let after := (withToks every []).modNode ⟨1, 0, 0, 0⟩ fun x => { x with eosPending := some { kind := .fin, iter := 1 } }
    let j : Instr := .join (withImm .word .none .none .none 0 2) true
    let open_ := (fed j [endAt .L {}]).modNode ⟨1, 0, 0, 0⟩ fun x => { x with joinCount := 1 }
    let behind := (fed j [endAt .L {}]).modNode ⟨1, 0, 0, 0⟩ fun x => { x with joinFlushed := true }
    fires 0xB4000000 = true ∧ goesEnd (instr 0xB4000000) (withToks 0xB4000000 [endAt .L {}]) = true ∧
    fires 0x00000001AE400000 = true ∧ fires 0x00000002AE400000 = true ∧ goesEnd j (fed j [endAt .L {}]) = true ∧ goesEnd j open_ = true ∧
    opened behind = true ∧ (∃ tag level took, behind.onlyEnds.chooseOn j [.L] = .fin tag level took) ∧ issued j behind = true ∧
    fires 0xAA000000 = true ∧ fires every = true ∧ goesEnd (instr every) (withToks every [endAt .L {}]) = true ∧
    after.Opened ∧ (after.node after.sel).eosPending = some { kind := .fin, iter := 1 } ∧ issued (instr every) after = true :=
  ⟨rfl, rfl, rfl, rfl, rfl, rfl, rfl, ⟨_, _, _, rfl⟩, rfl, rfl, rfl, rfl, ⟨rfl, rfl⟩, rfl, rfl⟩

/-- spawn, without a colour, its END and the END behind a call in a static tile; ret of a held colour, of a free one, its END; an END and a ret
whose return queue is full. -/
theorem witness_CallNodesFire :
    let w := 0xB2000000
    let sp := 0xB0000000
    let one : Colour := ⟨1, {}, 0, .port 3 .L, 0, 0, false⟩
    let held := (withToks w [tokenAt .L { colour := 1 } 5]).modBillet 1 fun x => { x with colours := [one] }
    let free := withToks w [tokenAt .L { colour := 1 } 5]
    let all := (site sp).modBillet 1 fun x => { x with colours := (List.range 1023).map fun k => { one with n := k + 1 } }
    let fin := withToks sp [endAt .L {}, endAt .R {}]
    let out := fin.modNode ⟨1, 0, 0, 0⟩ fun x => { x with spawnOut := 1 }
    let full (s : State) := s.modTile ⟨1, 0⟩ fun t => { t with rets := List.replicate 16 ⟨0, .none, {}, 1000⟩ }
    holds (instr sp) (full fin) = some 5 ∧ Config.returnQueue ≤ ((full fin).billet 1).retUse 0 ∧ (fin.billet 1).mayDraw 0 = true ∧
    ((full fin).node (full fin).sel).spawnOut = 0 ∧ holds (instr w) (full held) = some 5 ∧
    Config.returnQueue ≤ ((full held).billet 1).retUse one.tile ∧ ((full held).billet 1).held 1 = some one ∧
    (all.tile all.selTile).isStatic all.sel.blk = true ∧ ended (instr sp) out = true ∧ (out.node out.sel).spawnOut ≠ 0 ∧
    holds (instr sp) out = some 7 ∧ goes (instr sp) (site sp) = true ∧ ((site sp).billet 1).freeColours > ((site sp).billet 1).reservedBelow 0 ∧
    (all.billet 1).freeColours ≤ (all.billet 1).reservedBelow 0 ∧ holds (instr sp) all = some 7 ∧
    goesEnd (instr sp) fin = true ∧ (fin.node fin.sel).spawnOut = 0 ∧ (fin.billet 1).retUse 0 < Config.returnQueue ∧
    (∃ took, held.Matched (instr w) { colour := 1 } took) ∧ (held.billet 1).held 1 = some one ∧ issued (instr w) held = true ∧
    stops (instr w) free = true ∧ (free.billet 1).held 1 = none ∧ goesEnd (instr w) (withToks w [endAt .L {}]) = true :=
  ⟨by decide +kernel, by decide +kernel, by decide +kernel, rfl, by decide +kernel, by decide +kernel, rfl, by decide +kernel, by decide +kernel, by decide +kernel, by decide +kernel, by decide +kernel, by decide +kernel, by decide +kernel,
    by decide +kernel, by decide +kernel, rfl, by decide, ⟨_, ⟨rfl, rfl⟩, rfl⟩, rfl, rfl, rfl, rfl, rfl⟩

/-- Equal coordinates, a lower one at L, a lower one at R, ENDs of one LEVEL and of two, a coordinate that does not rise. -/
theorem witness_StreamNodesFire :
    let s (w : Nat) (l r : Entry) := withToks w [l, r]
    let at_ (c d : Word) : Entry × Entry := (tokenAt .L {} c, tokenAt .R {} d)
    let i := 0xB6000000
    let u := 0xB8000000
    let both (p : Entry × Entry) : Bool := issued (instr i) (s i p.1 p.2) && issued (instr u) (s u p.1 p.2)
    let stuck := (s i (tokenAt .L {} 0x30000) (tokenAt .R {} 0x30000)).modNode ⟨1, 0, 0, 0⟩ fun x =>
      x.setSeg { ctx := ({} : Tag).ctx, prevL := some 3 }
    both (at_ 0x30000 0x30000) = true ∧ both (at_ 0x20000 0x30000) = true ∧ both (at_ 0x30000 0x20000) = true ∧
    both (endAt .L {}, endAt .R {}) = true ∧ trapped (instr i) (s i (endAt .L {}) (tokenAt .R { kind := .fin } 3)) = true ∧
    trapped (instr i) stuck = true ∧ (s i (tokenAt .L {} 0x30000) (tokenAt .R {} 0x30000)).Opened ∧
    bestHeads (s i (tokenAt .L {} 0x30000) (tokenAt .R {} 0x30000)).heads = some (at_ 0x30000 0x30000) ∧
    coordOf (tokenAt .L {} 0x20000) < coordOf (tokenAt .R {} 0x30000) ∧ notRising none (tokenAt .L {} 0x20000) = false ∧
    notRising (some 3) (tokenAt .L {} 0x30000) = true :=
  ⟨rfl, rfl, rfl, rfl, rfl, rfl, ⟨rfl, rfl⟩, rfl, by decide, rfl, rfl⟩
/-! ### Witnesses for the statements about memory, matrix and system nodes -/

/-- A porter of two arcs with a head at arc 0, with 32 grants open, and with a reply whose channel is OFF; with ENDs at both, of one LEVEL and of
two; a reply with and without a grant; an END of the replies. reorder: a token
whose turn it is, an END at the window's place, one below it, one above it. -/
theorem witness_PorterAndReorderFire :
    let i : Instr := .porter (withImm .word .none (.chan 16) .none 0 0x20)
    let arcs (q : Nat → List Token) (s : State) := s.modTile ⟨1, 0⟩ fun t => { t with
      inCh := (List.range 2).map fun c => (c, { dport := .R, queue := q c })
      outCh := [(16, { views := [(0, false)] }), (17, { views := [(0, false)] })] }
    let one (c : Nat) : List Token := if c = 0 then [{}] else []
    let asks := arcs one (fed i [])
    let both := arcs (fun _ => [{ tag := { kind := .fin } }]) (fed i [])
    let reply := (arcs one (fed i [tokenAt .L {} 5])).modNode ⟨1, 0, 0, 0⟩ fun n => { n with grants := [0] }
    let odd := arcs one (fed i [tokenAt .L {} 5])
    let last := arcs one (fed i [endAt .L {}])
    let unequal := arcs (fun c => [{ tag := { kind := .fin }, pay := .word (BitVec.ofNat 32 c) }]) (fed i [])
    let full := asks.modNode ⟨1, 0, 0, 0⟩ fun n => { n with grants := List.replicate 32 0 }
    let off := reply.modTile ⟨1, 0⟩ fun t => { t with outCh := [(16, { views := [(0, true)] }), (17, { views := [(0, false)] })] }
    trapped i unequal = true ∧ holds i full = some 5 ∧ 32 ≤ (full.node full.sel).grants.length ∧
    (off.billet 1).chanOff (off.mtCap 1) (off.now 1) 0 16 none = true ∧ replyChan (withImm .word .none (.chan 16) .none 0 0x20) 0 = .chan 16 ∧
    issued i off = true ∧
    let r : Instr := .reorder (bare .word)
    let due := (fed r []).modNode ⟨1, 0, 0, 0⟩ fun n => { n with window := [(0, {})] }
    let early := (fed r [endAt .L { iter := 0 }]).modNode ⟨1, 0, 0, 0⟩ fun n => { n with next := 1 }
    opened asks = true ∧ issued i asks = true ∧ issued i both = true ∧ (reply.node reply.sel).grants = [0] ∧ issued i reply = true ∧
    trapped i odd = true ∧ issued i last = true ∧
    Tbl.get 0 (due.node due.sel).window = some {} ∧ issued r due = true ∧ issued r (fed r [endAt .L {}]) = true ∧ trapped r early = true ∧
    holds r (fed r [endAt .L { iter := 1 }]) = some 1 :=
  ⟨rfl, rfl, by decide, rfl, rfl, rfl, rfl, rfl, rfl, rfl, rfl, rfl, rfl, rfl, rfl, rfl, rfl, rfl⟩

theorem witness_AccessesIssue :
    ([.ld (acc .word) .scr .plain, .st (acc .word) .scr .plain, .amo (acc .word) .scr .plain .add, .red (acc .word) .scr .plain .add].all
      goesAll) = true ∧
    matched (.ld (chained .word) .scr .plain) (alone (.ld (chained .word) .scr .plain)) = true ∧
    holds (.ld (chained .word) .scr .plain) (alone (.ld (chained .word) .scr .plain)) = some 8 ∧
    stops (.ld (acc .word) .glb .plain) (alone (.ld (acc .word) .glb .plain)) = true ∧
    stops (.ld (acc .word) .scr .plain) (fed (.ld (acc .word) .scr .plain) [tokenAt .L {} 2]) = true := ⟨rfl, rfl, rfl, rfl, rfl⟩

theorem witness_LaneAccessesIssue :
    ([.ldx (acc .word) .scr .plain, .stx (acc .word) .scr .plain, .prf (acc .vec), .wtaddr (bare .word) false .ne].all goesAll) = true ∧
    ([.ldx (chained .word) .scr .plain, .stx (chained .word) .scr .plain].all fun i => holds i (alone i) == some 8) = true ∧
    stops (.wtaddr (bare .word) false .ne) (fed (.wtaddr (bare .word) false .ne) (lr 2 0)) = true := ⟨rfl, rfl, rfl⟩

/-- Releases, an acquiring fence, and the two waits. -/
theorem witness_ReleasesAndWaitsIssue :
    ([.fence (acc .word) .rel, .fence (acc .word) .acq, .tlinc (bare .word), .chk (bare .word) .partially, .halt (bare .word)].all
      goesAll) = true ∧
    ([.waitq (bare .word), .tlwait (bare .word)].all fun i => goes i (alone i) && goesEnd i (finished i)) = true ∧
    holds (.fence (chained .word) .rel) (alone (.fence (chained .word) .rel)) = some 8 := ⟨rfl, rfl, rfl⟩

/-- A copy of one row of 64 bytes; the same descriptor with no bytes; 1,024 bytes into ring 0. -/
def descOf (bytes : Word) : List Word := [0, 0, bytes, 0x00010001] ++ List.replicate 12 0
def ring0 : Machine.Ring := { fmt := 0, mtile := 0, reuse := 1, slots := 2, base := 0 }

theorem witness_CopiesIssue :
    let d (n : Word) := [vecAt .L {} (descOf n)]
    let ringed (n : Word) := (fed (.cpyr (bare .word)) (d n)).modBillet 1 fun x => { x with rings := [(0, ring0)] }
    goes (.cpy (bare .word)) (fed (.cpy (bare .word)) (d 64)) = true ∧ stops (.cpy (bare .word)) (fed (.cpy (bare .word)) (d 0)) = true ∧
    descBad (descOf 64) false = false ∧ descBad (descOf 0) false = true ∧ goes (.cpyr (bare .word)) (ringed 1024) = true ∧
    stops (.cpyr (bare .word)) (fed (.cpyr (bare .word)) (d 1024)) = true ∧
    ([.cpy (bare .word), .cpyr (bare .word)].all fun i => goes i (masked i [vecAt .L {} (descOf 64)]) &&
      goesEnd i (fed i [endAt .L {}])) = true := ⟨rfl, rfl, rfl, rfl, rfl, rfl, rfl⟩

/-- A caravan of 2 slots: a token and an END put into it, without a credit, under a false guard; one token, a vector, and none to get. -/
theorem witness_CaravanNodesFire :
    let with_ (n : Nat) (ks : List CarTok) (s : State) : State := s.modLaunch placeRec fun l => { l with caravans := [⟨0, n, 0, ks⟩] }
    let put : Instr := .qput (bare .word)
    let get : Instr := .qget (bare .word)
    let tok (p : Payload) : CarTok := ⟨0, 0, 0, Token.toSlot { pay := p }⟩
    let got := with_ 2 [tok (.word 5)] (alone get)
    goes put (with_ 2 [] (alone put)) = true ∧ goesEnd put (with_ 2 [] (finished put)) = true ∧ goes put (with_ 2 [] (unguarded put)) = true ∧
    holds put (with_ 0 [] (alone put)) = some 5 ∧ opened got = true ∧ tokenOfSlot (tok (.word 5)).slot = some { pay := .word 5 } ∧
    issued get got = true ∧ trapped get (with_ 2 [tok (.vec (List.replicate 16 1))] (alone get)) = true ∧
    holds get (with_ 2 [] (alone get)) = some 0 := ⟨rfl, rfl, rfl, rfl, rfl, rfl, rfl, rfl, rfl⟩

/-- mma on rings 0 and 1 with full heads; on rings that are not full; on a tile that is not open; in an accumulation on tile 0. -/
def mmaXX : XX := ⟨2, 0, 0, 1, 1, 1⟩
def fullRing : Machine.Ring := { ring0 with full := [0] }

/-- A pair starts. -/
def paired (i : Instr) (s : State) : Bool :=
  match exec i s with
  | .next t => (t.tile t.selTile).mpairs.length == 1
  | _ => false

theorem witness_MmaStarts :
    let i : Instr := .mma mmaXX true true .i32
    let j : Instr := .mma mmaXX false true .i32
    let rings (g : Machine.Ring) (s : State) := s.modBillet 1 fun x => { x with rings := [(0, g), (1, g)] }
    let s (i : Instr) := rings fullRing (alone i)
    let on (k : Nat) := (s i).modNode ⟨1, 0, 0, 0⟩ fun n => { n with accTile := some 0, pairs := k }
    let busy (s : State) := s.modTile ⟨1, 0⟩ fun t => { t with mtxFree := 1000 }
    opened (s i) = true ∧ ((s i).billet 1).rings.length = 2 ∧ fullRing.headFull = true ∧ ring0.headFull = false ∧
    holds i (rings ring0 (alone i)) = some 12 ∧ holds j (s j) = some 13 ∧ paired i (s i) = true ∧ holds i (busy (s i)) = some 0 ∧
    ((on 0).node (on 0).sel).accTile = some 0 ∧ ((on 0).node (on 0).sel).pairs < mmaXX.pairs ∧ paired i (on 0) = true ∧
    mmaXX.pairs ≤ ((on 99).node (on 99).sel).pairs ∧ holds i (on 99) = some 13 ∧ holds i (busy (on 0)) = some 0 :=
  ⟨rfl, rfl, rfl, rfl, rfl, rfl, rfl, rfl, rfl, by decide, rfl, by decide, rfl, rfl⟩

/-- mzero of tile 0; mdrain of a full tile 0 to no row's destination, to a row that channel 0 does not have, and without a full tile. -/
theorem witness_TileNodesFire :
    let z : Instr := .mzero (withImm .word .none .none .none 0 1)
    let d : Instr := .mdrain (withImm .word (.chan 0) .none .none 0 1)
    let full (s : State) := s.modTile ⟨1, 0⟩ fun t => { t with acc := setNth 0 { st := .full } t.acc }
    goesAll z = true ∧ goes d (full (fed d [tokenAt .L {} 255])) = true ∧
    stops d (full (fed d [tokenAt .L {} 7])) = true ∧ ((full (alone d)).billet 1).steerCount 0 (.chan 0) ≤ 7 ∧
    holds d (alone d) = some 13 ∧ goesEnd d (finished d) = true := ⟨rfl, rfl, rfl, by decide, rfl, rfl⟩

/-- rpush of a row, into a ring that another filler claims, an END between tiles and inside one; ringst .query, .pop of a full head and of
none, .reset with and without a claim, its END. -/
theorem witness_RingNodesFire :
    let p : Instr := .rpush (bare .word)
    let q (op : RingOp) : Instr := .ringst (bare .word) op
    let ringed (g : Machine.Ring) (s : State) := s.modBillet 1 fun x => { x with rings := [(0, g)] }
    let row := fed p [vecAt .L {} (List.replicate 16 1)]
    let taken : Machine.Ring := { ring0 with claim := some (1, 1) }
    let inside := (ringed ring0 (fed p [endAt .L {}])).modNode ⟨1, 0, 0, 0⟩ fun n => { n with rpushRow := 3 }
    goes p (ringed ring0 row) = true ∧ ring0.mayFill (0, 0) = true ∧ taken.mayFill (0, 0) = false ∧ holds p (ringed taken row) = some 12 ∧
    goesEnd p (ringed ring0 (fed p [endAt .L {}])) = true ∧ ended p inside = true ∧ (inside.node inside.sel).rpushRow = 3 ∧ trapped p inside = true ∧
    goes (q .query) (ringed ring0 (alone (q .query))) = true ∧ goes (q .pop) (ringed fullRing (alone (q .pop))) = true ∧
    fullRing.headFull = true ∧ holds (q .pop) (ringed ring0 (alone (q .pop))) = some 12 ∧
    goes (q .reset) (ringed fullRing (alone (q .reset))) = true ∧ fullRing.claim = none ∧
    holds (q .reset) (ringed taken (alone (q .reset))) = some 12 ∧ goes (q .pop) (ringed ring0 (unguarded (q .pop))) = true ∧
    goesEnd (q .pop) (ringed ring0 (finished (q .pop))) = true :=
  ⟨rfl, rfl, rfl, rfl, rfl, rfl, rfl, rfl, rfl, rfl, rfl, rfl, rfl, rfl, rfl, rfl, rfl⟩

theorem witness_SparseNodesFire :
    let k : Instr := .spflush (withImm .word .none .none .none 0 1) .rne
    let on := (alone k).modNode ⟨1, 0, 0, 0⟩ fun n => { n with flush := some { tag := {}, issue := 0, next := 6 } }
    goesAll (.spacc (bare .word)) = true ∧ goes k (alone k) = true ∧ ((alone k).node (alone k).sel).flush = none ∧ holds k on = some 5 ∧
    goesEnd k (finished k) = true :=
  ⟨rfl, rfl, rfl, rfl, rfl⟩

/-- raise to the control FIFO, to a target, and under a false guard; hset, hclr, csr. -/
theorem witness_SystemNodesFire :
    let r : Instr := .raise (withImm .word .none .none .none 0 2)
    let rt : Instr := .raise (plain .word (.port 0 .Q) .none)
    goesAll r = true ∧ goes rt (fed rt [tokenAt .L {} 5, tokenAt .Q {} 1]) = true ∧
    ([.hset (bare .word) true true, .hclr (bare .word) true true, .csr (bare .word) .rd].all goesAll) = true := ⟨rfl, rfl, rfl⟩

/-- A session of function 0 that has unlocked context 1. -/
def debugged (s : State) : State := { s with sessions := [{ id := 7, fn := 0, permits := [1], unlocks := [1] }] }

theorem witness_BrkFires :
    let i : Instr := .brk (bare .word)
    goes i (alone i) = true ∧ goes i (debugged (alone i)) = true ∧ (alone i).attached 1 = false ∧ (debugged (alone i)).attached 1 = true ∧
    goesEnd i (fed i [endAt .L {}]) = true := ⟨rfl, rfl, rfl, rfl, rfl⟩

theorem witness_TrapNodeTraps :
    let i : Instr := .trap (bare .word)
    stops i (alone i) = true ∧ goes i (unguarded i) = true ∧ goesEnd i (finished i) = true ∧ ((alone i).billet 1).page = some ⟨1, placeRec, 0⟩ :=
  ⟨rfl, rfl, rfl, rfl⟩

/-- A due trap of the placed launch at the end of the fc, with and without a debugger. -/
theorem witness_TrapTaken :
    let s := { alone (.trap (bare .word)) with agenda := [.settle 0], due := [.trap placeRec 1] }
    let after (s : State) := ({ s with agenda := [] } : State).putRecords
    (after s).launch? placeRec = some placeLaunch ∧ placeLaunch.id = placeRec ∧ placeLaunch.st = .running ∧ (after s).attached 1 = false ∧
    (after (debugged s)).attached 1 = true ∧ (after (debugged s)).launch? placeRec = some placeLaunch ∧
    (s.trap ⟨1, 0, 0, 0⟩ clsTrap {} 0 0).records.length = 1 ∧ (s.trap ⟨1, 0, 0, 0⟩ clsTrap {} 0 0).due = [.trap placeRec 1, .trap placeRec 1] ∧
    ((after (s.trap ⟨1, 0, 0, 0⟩ clsTrap {} 0 0)).launch? placeRec).isSome = true :=
  ⟨rfl, rfl, rfl, rfl, rfl, rfl, rfl, rfl, by decide +kernel⟩

/-- A firing of one result in a tile of the placed billet. -/
theorem witness_CommitEffect : (site 0x02000000).sel.t < ((site 0x02000000).billet (site 0x02000000).sel.b).tiles.length ∧
    (∀ y, (({} : Firing).bill y).tiles = y.tiles) ∧ (∀ y, (({} : Firing).use y).flights = y.flights) :=
  ⟨by decide, fun _ => rfl, fun _ => rfl⟩

theorem witness_NodeFrame : (instr 0x02000000).isNode = true ∧ ∃ t, exec (instr 0x02000000) (site 0x02000000) = .next t := ⟨rfl, _, rfl⟩

/-- add without tokens, with an END against DATA, with two ENDs. -/
theorem witness_ComputeOtherwise :
    let i := instr 0x02000000
    let both := withToks 0x02000000 [endAt .L {}, endAt .R {}]
    (∃ op m n, i.gParts = some (op, m, n) ∧ op.toNat / 16 ≤ 4 ∧ op.toNat ≠ 0x1D) ∧
    (∃ r, (withToks 0x02000000 []).chosen i = .stall r) ∧ opened (withToks 0x02000000 []) = true ∧
    (∃ tag, (withToks 0x02000000 [endAt .L {}, tokenAt .R {} 1]).chosen i = .mismatch tag) ∧
    trapped i (withToks 0x02000000 [endAt .L {}, tokenAt .R {} 1]) = true ∧ goesEnd i both = true :=
  ⟨⟨_, _, _, rfl, by decide, by decide⟩, ⟨_, rfl⟩, rfl, ⟨_, rfl⟩, rfl, rfl⟩

/-! ### Witnesses for the statements about results, channels, memory and control -/

/-- The placed page with a sink, 100 fc after reset; its tile and its billet changed. -/
def here : State := (alone (.sink (bare .word))).modSide 0 fun d => { d with fc := 100 }
def onTile (f : Tile → Tile) : State := here.modTile ⟨1, 0⟩ f
def onBillet (f : Billet → Billet) : State := here.modBillet 1 f

/-- Context 1 maps its first gibibyte to the physical addresses from 0, writable and with CFG. -/
def mapped (s : State) : State := { s with mem := [⟨0, 1⟩, ⟨2, 1⟩, ⟨0x10000, 0xCF⟩] }

/-- A flight with a late effect and one result to port L of the sink. -/
def flightOf (fx : FlightFx) : Flight := { blk := 0, slot := 0, due := 100, fx := fx }

theorem witness_ResultsDeliver :
    let inCh : InChan := { queue := [{}], gate := true }
    let chan := onTile fun t => { t with store := [], inCh := [(0, inCh)] }
    let brk : Break := { idx := 0, en := true, once := false, tile := 0, ch := 0, tagVal := 0, tagMask := 0, pVal := 0, pMask := 0, hits := 0 }
    let ret : RetTok := { pos := 0, tgt := .none, tok := {}, due := 0 }
    let late := { here with signals := [⟨.out ⟨1, 0⟩ 3 0, false, 100⟩] }
    here.active 1 = true ∧ (onTile fun t => { t with flights := [flightOf .nothing] }).active 1 = true ∧
    (onTile fun t => { t with flights := [flightOf .nothing] }).nextFlight ⟨1, 0⟩ [] [flightOf .nothing] = some (flightOf .nothing, []) ∧
    Tbl.get 0 (chan.tile ⟨1, 0⟩).inCh = some inCh ∧ chan.attached 1 = false ∧
    (match (chan.tile ⟨1, 0⟩).instrAt 0 0 with
     | some (.porter _) => true
     | _ => false) = false ∧ (chan.tile ⟨1, 0⟩).takes (chan.now 1) 0 0 .L {} = true ∧
    (debugged (onBillet fun x => { x with breaks := [brk] })).attached 1 = true ∧
    ((onBillet fun x => { x with breaks := [brk] }).billet 1).matchBreaks 0 0 {} [] = [brk] ∧
    here.retTakes ⟨1, 0⟩ ret = true ∧ takeNth 0 late.signals = some (⟨.out ⟨1, 0⟩ 3 0, false, 100⟩, []) ∧
    100 ≤ (late.side (late.signalSide (.out ⟨1, 0⟩ 3 0))).fc :=
  ⟨rfl, rfl, rfl, rfl, rfl, rfl, rfl, rfl, rfl, rfl, rfl, by decide⟩

/-- Each late effect as the effect of the one flight, a return of a held colour among them; indices in each of the ranges. -/
theorem witness_EffectsApply :
    let one : Colour := ⟨1, {}, 0, .port 0 .L, 0, 0, false⟩
    let ret : FlightFx := .ret 0 0 .none {} (some 1)
    let s := (onTile fun t => { t with flights := [flightOf ret] }).modBillet 1 fun x => { x with colours := [one] }
    (∀ fx ∈ [FlightFx.csr 0x080 .clr 1 true, .handler 2 true true false {}, .raise 2 {}, .ret 0 0 .none {} none, ret],
      (onTile fun t => { t with flights := [flightOf fx] }).nextFlight ⟨1, 0⟩ [] [flightOf fx] = some (flightOf fx, [])) ∧
    (s.nextFlight ⟨1, 0⟩ [] [flightOf ret] = some (flightOf ret, []) ∧
      ((some 1).bind fun c => ((s.modTile ⟨1, 0⟩ fun t => { t with rets := [⟨0, .none, {}, 100⟩] }).billet 1).held c) = some one) ∧
    (flightOf (.csr 0x080 .clr 1 true)).due ≤ here.now 1 + 1 ∧
    (0x050 ≤ 0x050 ∧ 0x06F < 0x070 ∧ 0x0D0 ≠ 0x0D9 ∧ 0x070 ≤ 0x07F ∧ 0x07F < 0x080) := by
  refine ⟨fun fx h => ?_, ⟨rfl, rfl⟩, by decide, by decide⟩
  simp only [List.mem_cons, List.not_mem_nil, or_false] at h
  rcases h with rfl | rfl | rfl | rfl | rfl <;> rfl

/-- A launch like the placed one with an edge, its store empty or with a token, and the state that holds it. -/
def edge7 : Edge := { id := 7, prod := 0, cons := 0, ctile := 0, cch := 0, ptile := 0, pch := 0, thresh := 1, view := false }
def edged (e : Edge) (s : State) : State := s.modLaunch placeRec fun l => { l with edges := [e] }

/-- A pool token over a LOCAL route; flits late with an edge and without one, on time, for a handler, by SEQ; a guard passed at the
destination, passed at another egress, and failed; a redelivery; the store's first token, and an empty store. -/
theorem witness_FlitsTravel :
    let route : Route := { kind := .loc, tile := 0, ch := 0 }
    let out : OutChan := { views := [(0, false)] }
    let tok : PoolTok := { ch := 2, tok := {} }
    let s := onBillet fun x => ({ x with routes := [route] }).modTile 0 fun t => { t with pool := [tok], outCh := [(2, out)] }
    let flit (d : FlitDest) (e : Option Nat) (g : BitVec 8) (src : Nat) : Flit :=
      { src := ⟨src, 0⟩, ch := 0, dest := d, edge := e, gen := g, cid := 1, launch := placeRec, tok := {}, due := 100 }
    let fly (f : Flit) : State := { here with flits := [f] }
    let chanFlit := flit (.chan 1 0 0) none 0 1
    let lateFlit := flit (.chan 1 0 0) (some 7) 1 1
    let edgeFlit := flit (.chan 1 0 0) (some 7) 0 1
    let listed (e : Edge) := edged e (onTile fun t => { t with inCh := [(0, {})] })
    let far := flit (.chan 1 0 0) none 0 2
    let direct : Edge := { edge7 with st := .direct, dest := 1 }
    let full : Edge := { edge7 with toks := [{ tok := {} }], nextIn := 1, seq := 1 }
    (s.active 1 = true ∧ Tbl.get 2 (s.tile ⟨1, 0⟩).outCh = some out ∧ (s.billet 1).fifoOf 0 2 = none ∧
      (s.tile ⟨1, 0⟩).poolHead 2 = some (tok, []) ∧ (s.billet 1).pick out none = some (0, route)) ∧
    ((fly chanFlit).flitHeld chanFlit = false ∧ chanFlit.due ≤ (fly chanFlit).flitNow chanFlit ∧ (fly lateFlit).flitLate lateFlit = true ∧
      (fly (flit (.chan 1 0 0) none 1 1)).flitLate (flit (.chan 1 0 0) none 1 1) = true ∧ (fly chanFlit).flitLate chanFlit = false ∧
      (fly (flit (.handler 1 2) none 0 1)).flitLate (flit (.handler 1 2) none 0 1) = false ∧ (fly chanFlit).seqWanted chanFlit 1 0 0 = none ∧
      (listed direct).flitLate edgeFlit = false ∧ (listed direct).seqWanted edgeFlit 1 0 0 = some edgeFlit.seq) ∧
    ((fly far).flitHeld far = false ∧ (fly far).flitLate far = false ∧ (fly far).guardPass far 1 1 = true ∧
      (fly far).guardPass far 3 1 = true ∧ (fly { far with cid := 2 }).guardPass { far with cid := 2 } 1 1 = false) ∧
    (takeFirst (fun (f : Flit) => here.lateSide f == 0) [lateFlit] = some (lateFlit, []) ∧
      (((listed direct).launch? placeRec).bind fun l => l.edge? 7) = some direct ∧ ((listed direct).billet 1).isFrozen = false) ∧
    (((edged full here).launch? placeRec).bind fun l => l.placeOf 0) = some 1 ∧ full.first = full.out ∧ here.drainOpen 1 = true ∧
    edge7.toks.length + edge7.early.length = 0 ∧ edge7.out = edge7.nextIn ∧ edge7.nextIn = edge7.seq ∧ here.storeFlits placeRec 7 = false ∧
    edge7.reserved = false :=
  ⟨⟨rfl, rfl, rfl, rfl, rfl⟩, ⟨rfl, by decide, rfl, rfl, rfl, rfl, rfl, rfl, rfl⟩, ⟨rfl, rfl, rfl, rfl, rfl⟩, ⟨rfl, rfl, rfl⟩, rfl, rfl, rfl,
    rfl, rfl, rfl, rfl, rfl⟩

/-- An access of the sink's position, issued at fc 0. -/
def accOf (i : Instr) (todo : List (Nat × Nat)) (locs : List (Nat × Loc)) (p : Payload) : Acc :=
  { id := 3, blk := 0, slot := 0, instr := i, tag := {}, issue := 0, todo := todo, locs := locs, data := p }
def ldScr : Instr := .ld (acc .word) .scr .plain
def stScr : Instr := .st (acc .word) .scr .plain
def ldGlb : Instr := .ld (acc .word) .glb .plain
def ldxScr : Instr := .ldx (acc .word) .scr .plain
def stxScr : Instr := .stx (acc .word) .scr .plain
def watchScr (c : WatchCond) : Instr := .wtaddr (bare .word) false c

/-- An access at the head of the port; one in flight, which may perform. -/
def atPort (x : Acc) : State := onTile fun t => { t with port := [x] }
def inFlight (x : Acc) : State := onTile fun t => { t with flying := [x] }
def performs (x : Acc) : Bool :=
  let s := inFlight x
  ((s.tile ⟨1, 0⟩).performing 0).isSome && !x.atUnit && s.mayPerform ⟨1, 0⟩ 0 x && x.ripe (s.now 1) && !s.nextWaits [] x && s.active 1

/-- At the port: a load, a prf's hint, a bad lane, a page that is missing, a wake token with and without an abort. In flight: a load, a lane
of ldx and of stx, a watch whose condition holds and one whose condition does not, one that is too early. -/
theorem witness_AccessesPerform :
    let held : Acc := { accOf ldGlb [(0, 64)] [] (.word 0) with held := true, wake := true }
    let stays (t : State) : Bool := decide (0 < (t.tile ⟨1, 0⟩).flying.length) && t.active 1
    (atPort (accOf ldScr [(0, 64)] [] (.word 0))).active 1 = true ∧
    (nthD {} ((atPort (accOf ldScr [(0, 64)] [] (.word 0))).billet 1).mtiles 0 : MTile).role = .addr ∧
    (here.billet 1).addrTrap (here.mtCap 1) .glb 62 64 4 = some clsBounds ∧ here.translateAt 1 1 64 ldGlb.writes = none ∧
    ((atPort held).billet 1).heldVa { held with aborted := true } = some 64 ∧
    performs (accOf ldScr [] [(0, .scr 64)] (.word 0)) = true ∧ performs (accOf ldxScr [] [(3, .scr 64)] (zeroPay true)) = true ∧
    performs (accOf stxScr [] [(3, .scr 64)] (zeroPay true)) = true ∧
    stays ((inFlight (accOf ldScr [] [(0, .scr 64)] (.word 0))).draw.2.readLoc 1 .tile false (.scr 64) 4).2 = true ∧
    stays ((inFlight (accOf stxScr [] [(3, .scr 64)] (zeroPay true))).draw.2.writeLoc 1 .tile false (.scr 64) (bytesOf 4 0)) = true ∧
    performs (accOf (watchScr .eq) [] [(0, .scr 64)] (.word 0)) = true ∧ performs (accOf (watchScr .ne) [] [(0, .scr 64)] (.word 0)) = true ∧
    watchHolds .eq (wordOfBytes (here.readLoc 1 .system false (.scr 64) 4).1) 0 = true ∧
    watchHolds .ne (wordOfBytes (here.readLoc 1 .system false (.scr 64) 4).1) 0 = false ∧
    ({ accOf ldScr [] [(0, .scr 64)] (.word 0) with issue := 99 } : Acc).ripe (here.now 1) = false :=
  ⟨rfl, rfl, rfl, rfl, rfl, rfl, rfl, rfl, rfl, rfl, rfl, rfl, rfl, rfl, rfl⟩

theorem witness_StoresWrite :
    let x := accOf stScr [] [(0, .scr 64)] (.word 7)
    let g (pa : Nat) := accOf (.st (acc .word) .glb .plain) [] [(0, .glb pa false)] (.word 7)
    let cached := (inFlight (g 128)).modBillet 1 fun b => { b with mtiles := modNth (fun (m : MTile) => { m with role := .cache }) 7 b.mtiles }
    (inFlight x).MemoryOk ∧ performs x = true ∧ x.data.toVec.length = 16 ∧ performs (g Config.hostBase) = true ∧
    homeOf Config.hostBase = none ∧ ((inFlight (g Config.hostBase)).billet 1).l1.ofLine (lineOf Config.hostBase) = [] ∧
    cached.mayPerform ⟨1, 0⟩ 0 (g 128) = true ∧ ((cached.tile ⟨1, 0⟩).performing 0).isSome = true ∧ pathOf (cached.billet 1).hasL1 false false (acc .word).xm.scope 128 = .l1 ∧
    128 % Config.lineBytes + (acc .word).w.bytes ≤ Config.lineBytes :=
  ⟨⟨rfl, rfl⟩, rfl, rfl, rfl, rfl, rfl, rfl, rfl, rfl, by decide⟩

/-- Releases of each kind, early ones, a watch whose word is 0 and one that is not due, wait slots whose conditions hold, and one whose
condition does not. -/
theorem witness_ReleasesPerform :
    let rel (i : Instr) : Release := ⟨0, accOf i [] [] (.word 0), .tile⟩
    let on (i : Instr) := onBillet fun x => { x with releases := [rel i] }
    let is : List Instr := [.st (acc .word) .scr .rel, .tlinc (bare .word), .fence (acc .word) .rel, .chk (bare .word) .done, .halt (bare .word)]
    let watch (c : WatchCond) : Watch := { tile := 0, acc := accOf (watchScr c) [] [] (.word 0), loc := .scr 64, next := 100 }
    let slot (i : Instr) : WaitSlot := { id := 3, blk := 0, slot := 0, instr := i, tok := {}, issue := 0 }
    let early := here.waitHolds ⟨1, 0⟩ { slot (.tlwait (bare .word)) with tok := { pay := .word 1 } }
    (is.all fun i => (on i).active 1 && ((on i).billet 1).releaseReady (rel i) && (rel i).acc.ripe ((on i).now 1)) = true ∧
    ({ (rel (.halt (bare .word))).acc with issue := 99 } : Acc).ripe (here.now 1) = false ∧
    ((on (.halt (bare .word))).owner 1).isSome = true ∧ (watch .eq).next ≤ here.now 1 ∧ here.now 1 < { watch .eq with next := 200 }.next ∧
    watchHolds .eq (wordOfBytes (here.atHome (.scr 64) 4)) (watch .eq).acc.data.lane0 = true ∧
    watchHolds .ne (wordOfBytes (here.atHome (.scr 64) 4)) (watch .ne).acc.data.lane0 = false ∧
    here.badAmong [(watch .eq).loc] = none ∧ here.waitHolds ⟨1, 0⟩ (slot (.waitq (bare .word))) = true ∧ here.waitHolds ⟨1, 0⟩ (slot (.tlwait (bare .word))) = true ∧
    early = false ∧ (slot (.waitq (bare .word))).issue + 6 ≤ here.now 1 :=
  ⟨rfl, rfl, rfl, by decide, by decide, rfl, rfl, rfl, rfl, rfl, rfl, by decide⟩

/-- A red and a spacc at their units; a copy whose next granule moves, one whose source or whose destination is missing, one that is done,
with a signal and without; a ring tile whose last row is written, by rpush and by a copy. -/
theorem witness_UnitsAndCopies :
    let redI : Instr := .red (acc .word) .scr .plain .add
    let spI : Instr := .spacc (bare .word)
    let op (i : Instr) (c : Option (Nat × Nat)) : SparseOp := ⟨⟨1, 0⟩, 3, i, .scr 64, .word 1, 0, c⟩
    let at_ (i : Instr) (c : Option (Nat × Nat)) : State :=
      { onTile fun t => { t with flying := [{ accOf i [] [(0, .scr 64)] (.word 1) with atUnit := true }] } with sparse := [op i c] }
    let copy (how : Word) : Copy :=
      { num := 1, tile := 0, blk := 0, slot := 0, tag := {}, desc := [0, 64, 64, 0x00010001, 0, 0, 0, 0, 0, 0, how] ++ List.replicate 5 0, ring := none }
    let copies (k : Copy) := onBillet fun x => { x with ctxs := setNth 0 { last := 1, queue := [k] } x.ctxs }
    let ends (how : Word) : Option Bool := let k := copy how; match (copies k).copyDest 1 1 k k.piece with
      | .ok (_, t) => (match t.copySource 1 1 k k.piece with
        | .ok _ => some true
        | .error _ => some false)
      | .error _ => none
    let done (how : Word) : Copy := { copy how with done := 64 }
    let ring (c : Nat × Nat) : Machine.Ring := { ring0 with claim := some c }
    let byRow := (onBillet fun x => { x with rings := [(0, ring (0, 0))] }).modNode ⟨1, 0, 0, 0⟩ fun n => { n with rpushRow := 16 }
    let byCopy := (copies { copy 0x30000 with ring := some 0, done := 1024 }).modBillet 1 fun x => { x with rings := [(0, ring (8, 0))] }
    groupOf (at_ redI none).sparse [0] = [(op redI none, [])] ∧ (at_ redI none).groupOk [op redI none] = true ∧
    (at_ redI none).mayApply [] (op redI none) = true ∧ redI.atom = some (.add, false, true) ∧
    (at_ spI (some (0, 5))).mayApply [] (op spI (some (0, 5))) = true ∧ ((copies (copy 0x30000)).billet 1).nextCopy = some 0 ∧
    (copies (copy 0x30000)).active 1 = true ∧ ends 0x30000 = some true ∧ ends 0x30001 = some false ∧ ends 0x30100 = none ∧
    (done 0).total ≤ (done 0).done ∧ ((copies (done 0)).billet 1).copyDrained 0 (done 0) = true ∧ bits (dw (done 0x30000).desc 10) 16 2 = 3 ∧
    bits (dw (done 0).desc 10) 16 2 ≠ 3 ∧ ((copies (done 0)).billet 1).addrTrap ((copies (done 0)).mtCap 1) .scr 0 0 4 = none ∧
    (match (copies (done 0)).locate 1 1 .scr 0 0 true with
     | .ok _ _ => true
     | _ => false) = true ∧
    (byRow.billet 1).fillDone 0 (ring (0, 0)) = true ∧ (byCopy.billet 1).fillDone 0 (ring (8, 0)) = true :=
  ⟨rfl, rfl, rfl, rfl, rfl, rfl, rfl, by decide +kernel, by decide +kernel, by decide +kernel, by decide, rfl, rfl, by decide, rfl, rfl, rfl, rfl⟩

/-- The page of an mma with one pair on rings 0 and 1, read and not, last and not, early; an mzero whose tile is free, and one whose tile is
claimed; a drain without a row's destination, with one, and with its channel off; a flush with an entry and without. -/
theorem witness_MatrixApplies :
    let i : Instr := .mma mmaXX true true .i32
    let pair : MPair := { pos := 0, acc := 0, first := true, start := 0, p := 16, part := 0, last := true }
    let m (p : MPair) := ((alone i).modSide 0 fun d => { d with fc := 100 }).modBillet 1 fun x =>
      { x with rings := [(0, fullRing), (1, fullRing)] }.modTile 0 fun t => { t with mpairs := [p] }
    let late : MPair := { pair with start := 90 }
    let z : MZero := { id := 3, blk := 0, slot := 0, tag := {}, pay := .word 0, wait := [0] }
    let zs := onTile fun t => { t with mzeros := [z] }
    let claimed := onTile fun t => { t with mzeros := [z], acc := setNth 0 { claim := some 0 } t.acc }
    let ready (s : State) := z.wait.filter fun j => (nthD {} (s.tile ⟨1, 0⟩).acc j : Accum).claim.isNone && !(s.tile ⟨1, 0⟩).draining j
    let d : Instr := .mdrain (withImm .word (.chan 0) .none .none 0 1)
    let drained (v : Option Nat) := ((alone d).modSide 0 fun d => { d with fc := 100 }).modTile ⟨1, 0⟩ fun t =>
      { t.modNode 0 (fun n => { n with drain := some ⟨{}, 0, 0, v, 100⟩ }) with outCh := [(0, { views := [(0, false)] })] }
    let off := (drained (some 0)).modTile ⟨1, 0⟩ fun t => { t with outCh := [(0, { views := [(0, true)] })] }
    let k : Instr := .spflush (withImm .word .none .none .none 0 1) .rne
    let f : Machine.Flush := { tag := {}, issue := 0, next := 100, started := true, sent := 2 }
    let flushed := ((alone k).modSide 0 fun d => { d with fc := 100 }).modNode ⟨1, 0, 0, 0⟩ fun n => { n with flush := some f }
    let held := flushed.modBillet 1 fun x => { x with mtiles := modNth (fun (t : MTile) => { t with spacc := [(5, 0x3F800000)] }) 0 x.mtiles }
    (m pair).active 1 = true ∧ ((m pair).tile ⟨1, 0⟩).mmaAt 0 = some (mmaXX, true, true, .i32) ∧ pair.start + pair.p + 4 ≤ (m pair).now 1 ∧
    (m late).now 1 + 1 < late.start + late.p ∧ ((m pair).billet 1).ring? 0 = some fullRing ∧ ((m pair).billet 1).ring? 1 = some fullRing ∧
    takeNth 0 (zs.tile ⟨1, 0⟩).mzeros = some (z, []) ∧ z.wait.filter (fun j => !(ready zs).contains j) = [] ∧
    z.wait.filter (fun j => !(ready claimed).contains j) = [0] ∧
    ((drained none).tile ⟨1, 0⟩).instrAt 0 0 = some d ∧ ((drained none).node ⟨1, 0, 0, 0⟩).drain = some ⟨{}, 0, 0, none, 100⟩ ∧
    ((drained (some 0)).billet 1).chanOff ((drained (some 0)).mtCap 1) ((drained (some 0)).now 1) 0 0 (some 0) = false ∧
    (off.billet 1).chanOff (off.mtCap 1) (off.now 1) 0 0 (some 0) = true ∧
    (flushed.tile ⟨1, 0⟩).instrAt 0 0 = some k ∧ flushed.takesNow ⟨1, 0, 0, 0⟩ { iter := 2 } (tgts k) = .ok ∧
    flushed.flushEntry 1 0 0 = none ∧ held.flushEntry 1 0 0 = some (5, 0x3F800000) :=
  ⟨rfl, rfl, by decide, by decide, rfl, rfl, rfl, rfl, rfl, rfl, rfl, rfl, rfl, rfl, rfl, rfl, rfl⟩

/-- An arrival whose slot is free, behind a token of its entry, with the FIFO full, and one behind it that finds its slot; a frozen billet;
an armed entry. -/
theorem witness_ControlTokens :
    let v : Arrival := ⟨2, { tag := { kind := .ctrl } }, none⟩
    let w : Arrival := ⟨4, { tag := { kind := .ctrl } }, none⟩
    let armed (p : Option Token) : Handler := { st := .armed, en := true, pend := p, argch := 0 }
    let s (x : Billet → Billet) := (onTile fun t => { t with inCh := [(0, {})] }).modBillet 1 x
    let tok : Token := {}
    let arrives := s fun x => { x with arrivals := [v] }
    let busy (x : Billet) : Billet := { x with arrivals := [v, w], handlers := setNth 2 (armed (some {})) x.handlers }
    let fullFifo (x : Billet) : Billet := { busy x with ctrl := List.replicate Config.controlFifo (2, tok) }
    let free (t : State) (e : Nat) : Bool := (nthD {} (t.billet 1).handlers e : Handler).pend.isNone
    let direct (t : State) (v : Arrival) : Bool := free t v.entry && (t.billet 1).ctrl.all fun p => p.1 != v.entry
    (arrives.billet 1).isFrozen = false ∧ direct arrives v = true ∧ direct (s busy) v = false ∧
    ((s busy).billet 1).ctrl.length < Config.controlFifo ∧ Config.controlFifo ≤ ((s fullFifo).billet 1).ctrl.length ∧ direct (s fullFifo) v = false ∧
    direct (s fullFifo) w = true ∧ w.entry ≠ v.entry ∧ ((s fun x => { x with frozen := [.debug] }).billet 1).isFrozen = true ∧
    takeFirst (fun (p : Nat × Token) => free (s fun x => { x with ctrl := [(3, tok)] }) p.1) [(3, tok)] = some ((3, tok), []) ∧
    (s busy).active 1 = true ∧ ((s busy).billet 1).chooseHandler = some (2, armed (some {})) ∧ ((s busy).billet 1).handlerFired = false ∧
    ((s fun x => { x with handlerFired := true }).billet 1).handlerFired = true :=
  ⟨rfl, rfl, rfl, by decide, by decide, rfl, rfl, by decide, rfl, rfl, rfl, rfl, rfl, rfl⟩

/-- A billet with a draining float tile, at and before its time, and with the tile in use; idle for 64 fc and less; asleep and awake. -/
theorem witness_BilletsBalance :
    let f : Machine.Float := { tile := 3, stages := [1], draining := some 1 }
    let s := (onBillet fun x => { x with floats := [f], idle := 64 }).modSide 0 fun d => { d with fc := 4096 }
    let used := s.modTile ⟨1, 3⟩ fun t => { t with rets := [⟨0, .none, {}, 100⟩] }
    let asleep := onBillet fun x => { x with c1 := true }
    s.active 1 = true ∧ (s.billet 1).balanced + 4096 ≤ s.now 1 ∧ (s.billet 1).floats[0]? = some f ∧ s.floatEmpty 1 3 = true ∧
    here.now 1 < (here.billet 1).balanced + 4096 ∧ used.floatEmpty 1 3 = false ∧ (here.billet 1).idle < 64 ∧ (here.billet 1).c1 = false ∧
    64 ≤ (s.billet 1).idle ∧ asleep.power = .c0 ∧ (asleep.billet 1).holdsWork = true :=
  ⟨rfl, by decide, rfl, rfl, by decide, rfl, by decide, rfl, by decide, rfl, rfl⟩

/-! ### Witnesses for the statements about queues, launches and pages -/

/-- Bytes of a word, lowest first, at an address: those that are not zero. -/
def cellsAt (a : Nat) (w : Nat) : List Host.Cell :=
  (List.range 4).filterMap fun i => let v := w / 256 ^ i % 256; if v = 0 then none else some ⟨a + i, BitVec.ofNat 8 v⟩

/-- A graph descriptor at 0x20000 with one page, pinned and of 1,088 bytes, at 0x30000: a header and an empty billet section. -/
def graphMem : List Host.Cell :=
  [⟨0, 1⟩, ⟨2, 1⟩, ⟨0x10000, 0xCF⟩] ++ cellsAt 0x20000 0x47440001 ++ cellsAt 0x20004 1 ++ cellsAt 0x20018 0x40 ++
  cellsAt 0x20040 0x30000 ++ cellsAt 0x20048 0x00060440 ++ cellsAt 0x30000 0x4E380001 ++ cellsAt 0x30004 0x440 ++ cellsAt 0x30028 0x04000040

/-- Queue 0 of side 0 for context 1 with a record in slot 0, resident. No way of an L2 is on, since which set a line takes is open. -/
def queueOf (recs : List Rec) : VQueue :=
  { ringVa := 0x40000, log2 := 6, cls := 0, side := 0, cid := 1, cplVa := 0x50000, saveVa := 0x60000, vec := 0, tail := 1, recs := recs }
def queued (q : VQueue) : State :=
  { (mapped here).setQueue 0 q with
    boot := .running, funcs := [(0, { qbase := 0, qcount := 4 })]
    sides := here.sides.map fun (d : Machine.Side) => { d with deskSet := true, waysOff := 0xFFFF } }.setResid 0 0 (some 0, .resident) |>.modCtx 1 fun c => { c with qbillet := 4 }

/-- The record of a type with words 4 on. -/
def recOf (ty : Nat) (ws : List Word) : Rec :=
  { slot := 0, sub := 0, words := [BitVec.ofNat 32 ty, 0, 0, 0] ++ ws, count := 0, failed := false }

/-- Notifies that are taken, ignored, of an idle chip; knocks with a free entry, a victim and neither; a slot to read and none; a decrement
that is delivered and one that waits; a record that completes. -/
theorem witness_QueuesServe :
    let q := queueOf []
    let ready := recOf 6 []
    let knocked := ((queued q).setResid 0 0 (none, .free)).modSide 0 fun d => { d with knocks := [0] }
    let tabled (o : VQueue) : State := (knocked.setQueue 1 o).modSide 0 fun d => { d with resid := d.resid.map fun _ => (some 1, .resident) }
    let full : VQueue := { q with waitDec := [(5, false)], pend := (List.range 64).map fun k => ⟨k + 6, 1, false⟩ }
    let x : Rec := { recOf 6 [] with outcome := some (.ok, 1, 0), sent := true }
    (queued q).fnUp 0 = true ∧ here.fnUp 3 = false ∧ (queued q).power = .c0 ∧ 0 < ((queued q).func 0).qcount ∧ (queued q).queue? 0 = some q ∧
    Power.takesNotify .c2 = true ∧ q.ignores 0 = true ∧ q.ignores 1 = false ∧ (queued q).ctxOpen 1 = true ∧ (queued q).isResident 0 = true ∧
    knocked.isResident 0 = false ∧ knocked.deskUp 0 = true ∧ ((knocked.side 0).resid.findIdx? fun e => e.2 == .free) = some 0 ∧
    (((tabled q).side 0).resid.findIdx? fun e => e.2 == .free) = none ∧ (tabled q).victimQueue 0 = some (0, 1) ∧
    (tabled (queueOf [ready])).victimQueue 0 = none ∧ (tabled q).isResident 0 = false ∧ (tabled q).deskUp 0 = true ∧
    (queued q).deskUp 0 = true ∧ q.read ≠ q.tail ∧ (q.decrement 5 false).isSome = true ∧ full.decrement 5 false = none ∧
    (queued (queueOf [x])).rec? ⟨0, 0⟩ = some x ∧ (queued (queueOf [x])).records = [] :=
  ⟨rfl, rfl, rfl, by decide, rfl, rfl, rfl, rfl, rfl, by decide +kernel, by decide +kernel, by decide +kernel, by decide +kernel,
    by decide +kernel, by decide +kernel, by decide +kernel, by decide +kernel, by decide +kernel, rfl, by decide, rfl, rfl, rfl, rfl⟩

/-- A record of each type that may run, and a failed one; fills, copies, signals of each mode and reads on the mapped page and, without its
page table, on none; times and timelines that have come and that have not. -/
theorem witness_RecordsRun :
    let may (x : Rec) (ty : Nat) : Bool := (queued (queueOf [x])).mayRun ⟨0, 0⟩ ty == some (queueOf [x], x)
    let s (x : Rec) := (queued (queueOf [x])).touchRec ⟨0, 0⟩
    let lost (x : Rec) : State := { s x with mem := [] }
    let ok (e : Except (State × SysFail) State) : Bool := match e with
      | .ok _ => true
      | .error _ => false
    let fill := recOf 2 [0, 0, 0x80000, 0, 128, 0, 1, 7]
    let copy := recOf 2 [0x90000, 0, 0x80000, 0, 128, 0, 0, 0]
    let then_ (t : State) (a n : Nat) (dst : Nat) (f : List Byte → List Byte) : Bool := match t.sysRead 1 a n false with
      | .ok (bs, u) => ok (u.sysWrite 1 dst (f bs))
      | .error _ => false
    let waits (v : Word) := recOf 4 [0x80000, 0, v, 0, 1, 0, 0]
    let signal (m : Word) := recOf 3 [0x80000, 0, 5, 0, m, 0, 0]
    let tl (v : Word) := recOf 5 [0, 0, v, 0, 0, 0, 0]
    ([1, 2, 3, 4, 5, 6, 7, 8, 9].all fun ty => may (recOf ty []) ty && may { recOf ty [] with failed := true } ty) = true ∧
    (queued (queueOf [])).mayRun ⟨0, 0⟩ 1 = none ∧ fill.free = true ∧ { fill with held := some 1 }.free = false ∧ fill.w 10 % 2 = 1 ∧
    ok ((s fill).sysWrite 1 0x80000 (fillBytes 7 0 64)) = true ∧ ok ((lost fill).sysWrite 1 0x80000 (fillBytes 7 0 64)) = false ∧
    copy.w 10 % 2 = 0 ∧ then_ (s copy) 0x90000 64 0x80000 id = true ∧ then_ (lost copy) 0x90000 64 0x80000 id = false ∧
    fill.progress + copyChunk 0x80000 128 0 ≠ 128 ∧ copyChunk 0x80000 64 0 = 64 ∧
    (signal 0).w 8 ≠ 2 ∧ ok ((s (signal 0)).sysWrite 1 0x80000 (signalBytes 0 5 0)) = true ∧
    ok ((lost (signal 0)).sysWrite 1 0x80000 (signalBytes 0 5 0)) = false ∧
    then_ (s (signal 2)) 0x80000 8 0x80000 (fun bs => signalBytes 2 5 (natOf bs)) = true ∧
    (match (s (waits 0)).sysRead 1 0x80000 8 false with
     | .ok (bs, _) => natOf bs == 0
     | .error _ => false) = true ∧
    (match (lost (waits 0)).sysRead 1 0x80000 8 false with
     | .ok _ => false
     | .error _ => true) = true ∧
    waitCond ((waits 0).w 10) 0 (BitVec.ofNat 64 ((waits 0).d 6)) = true ∧ waitCond ((waits 1).w 10) 0 (BitVec.ofNat 64 ((waits 1).d 6)) = false ∧
    (((s (tl 0)).queue? 0).map fun o => (o.ctl - BitVec.ofNat 64 ((tl 0).d 6)).msb) = some false ∧
    (((s (tl 1)).queue? 0).map fun o => (o.ctl - BitVec.ofNat 64 ((tl 1).d 6)).msb) = some true ∧
    (recOf 9 [1, 0]).d 4 > (queued (queueOf [])).ns ∧ (recOf 9 [0, 0]).d 4 ≤ (queued (queueOf [])).ns :=
  ⟨by decide, rfl, rfl, rfl, rfl, by decide +kernel, by decide +kernel, rfl, by decide +kernel, by decide +kernel, by decide, rfl, by decide,
    by decide +kernel, by decide +kernel, by decide +kernel, by decide +kernel, by decide +kernel, rfl, rfl, rfl, rfl, by decide, by decide⟩

/-- A LAUNCH of the descriptor at 0x20000, valid within and beyond the quota, one of a descriptor that fails check 0x1, one of a descriptor
that is not mapped, one whose tables lie on an isolated side; a PAGEIN with its page there, on its way and not asked for; a loading launch that is ready and one that is not; argument
tokens; a launch at its checkout time in each state, and at its deadline. -/
theorem witness_LaunchesRun :
    let x := recOf 1 [0x20000, 0, 0xFFFFFFFF, 0xFFFFFFFF, 0, 0x70000, 0, 0, 0, 0, 0, 0]
    let s : State := { queued (queueOf [x]) with mem := graphMem, launches := [], billets := [] }
    let verdict (g : Nat) (t : State) : Option (Option Bool) := match validate 1 g 0 (2 ^ 64 - 1) 0 (t.touchRec ⟨0, 0⟩) with
      | .ok (_, u) => some (some (u.quotaOk 1 (u.pinnedOf 1 (some (g, 0)) + 1)))
      | .error (_, .check 1 0) => some none
      | .error (_, .read _) => none
      | .error _ => some (some false)
    let cut (s : State) : State := (s.modSide 1 fun d => { d with iso := true }).modCtx 1 fun c => { c with root := 0xC0000 }
    let lost (s : State) : Bool := match validate 1 0x20000 0 (2 ^ 64 - 1) 0 ((cut s).touchRec ⟨0, 0⟩) with
      | .error (_, .lost) => true
      | _ => false
    let arg : ArgRec := ⟨0, 0, 0, {}⟩
    let base := queued (queueOf [recOf 7 [0x20000, 0, 0, 0]])
    let argued (off : Bool) := base.modLaunch placeRec fun l => { l with args := [arg], argView := [(0, 0, 0, off)] }
    let loading := (base.modLaunch placeRec fun l => { l with st := .loading, graph := { l.graph with pages :=
      [{ image := 0x30000, size := 1088, side := 0, pin := true, entry := true, bases := [] }] } })
    let closed := loading.modBillet 1 fun b => { b with load := some { phase := .closed, image := [], first := true } }
    let holding (t : State) := t.modLaunch placeRec fun l =>
      { l with pagein := true, gdesc := 0x20000, pages := [{ place := some 1, pagein := some ⟨0, 0⟩ }] }
    let there (t : State) : Option Bool := (t.holdOf 1 0x20000 0 0).map fun l => (l.placeOf 0).any fun b =>
      (t.billet b).load.any fun d => d.phase == .closed
    let due (st : LaunchState) := base.modLaunch placeRec fun l => { l with st := st, deadline := 5, budget := 5 }
    let timed (st : LaunchState) : Bool := ((due st).launch? placeRec).any fun l =>
      (due st).deskUp l.side && l.st == st && l.deadline != 2 ^ 64 - 1 && decide ((l.deadline : Int) - l.budget ≤ (due st).ns) &&
      !l.stopLoading && l.entered != some 100
    (s.mayRun ⟨0, 0⟩ 1).isSome = true ∧ x.failed = false ∧ x.started = false ∧ s.launchServed 0 ⟨0, 0⟩ = true ∧
    (base.mayRun ⟨0, 0⟩ 1 = none) ∧ verdict 0x20000 s = some (some true) ∧ verdict 0x20040 s = some none ∧
    verdict 0x20000 { s with mem := [] } = none ∧ lost s = true ∧ verdict 0x20000 (s.modCtx 1 fun c => { c with qbillet := 0 }) = some (some false) ∧
    (base.mayRun ⟨0, 0⟩ 7).isSome = true ∧ there (holding closed) = some true ∧ there (holding loading) = some false ∧ there base = none ∧
    ((closed.launch? placeRec).any fun l => closed.entriesReady l) = true ∧ ((loading.launch? placeRec).any fun l => !loading.entriesReady l) = true ∧
    (((argued false).launch? placeRec).any fun l => !l.argOff arg && decide (l.argFc arg ≤ 100) && l.st == .running) = true ∧
    (((argued true).launch? placeRec).any fun l => l.argOff arg) = true ∧ (argued false).drainOpen 1 = true ∧
    ([LaunchState.running, .loading, .stopped].all timed) = true ∧ 5 ≤ ({ due .checkout with dtb := { ns := 5 } } : State).ns ∧
    timed .checkout = true :=
  ⟨rfl, rfl, rfl, by decide +kernel, rfl, by decide +kernel, by decide +kernel, by decide +kernel, by decide +kernel, by decide +kernel, rfl, rfl, rfl, rfl, rfl, rfl,
    rfl, rfl, rfl, by decide, by decide, by decide⟩

/-- A threshold that is met and one that is not; a fault that is served; the page of the descriptor at 0x20000 as it loads: accepted, of no
form, unreadable, and with a used tile that acknowledges, is streamed again and fails; the bus in use; the steward's end. -/
theorem witness_PagesLoad :
    let g : GPage := { image := 0x30000, size := 1088, side := 0, pin := true, entry := true, bases := List.replicate 8 0 }
    let load (ph : LoadPhase) (im : List Byte) : Load := { phase := ph, image := im, first := true }
    let s (m : List Host.Cell) (d : Load) : State := ({ queued (queueOf []) with mem := m }.modBillet 1 fun x =>
      { x with load := some d }).modLaunch placeRec fun l => { l with graph := { l.graph with pages := [g] } }
    let reads (m : List Host.Cell) : Option Bool := match readBytes 1 0x30000 1088 (s m (load .stream [])) with
      | .ok (img, t) => some ((imgRefused (t.fedBy ⟨1, placeRec, 0⟩) img).isNone && capOk (wordsOfBytes 272 img) (t.mtCap 1))
      | .error _ => none
    let used : List Byte := List.replicate 10 0 ++ [4, 0] ++ List.replicate 52 0
    let faulting := ({ queued (queueOf []) with mem := graphMem, billets := [] }.modLaunch placeRec fun l =>
      { l with graph := { l.graph with pages := [g] }, pages := [{ faulting := true }] }).modCtx 1 fun c => { c with qstore := 100 }
    let wanting (e : Edge) : Bool := ({ placeLaunch with edges := [e], pages := [{}] } : Launch).thresholdMet 0
    wanting { edge7 with toks := [{ tok := {} }] } = true ∧ wanting edge7 = false ∧ faulting.deskUp 0 = true ∧ here.deskUp 0 = false ∧
    (faulting.shrinkAll.faultQueue 0).map (fun f => f.2) = [(placeRec, 0)] ∧
    ((faulting.shrinkAll.faultQueue 0).all fun f => faulting.first 0 (faulting.launchRanks 0 ++ faulting.evictRanks 0) f.1) = true ∧
    (faulting.serveFault placeRec 0).isSome = true ∧ (s graphMem (load .stream [])).streamsNext ⟨1, placeRec, 0⟩ = true ∧
    (s graphMem (load .stream [])).busFree 0 = true ∧ (s graphMem { load .stream [] with busEnd := 200 }).busFree 0 = false ∧
    reads graphMem = some true ∧ reads (graphMem.take 3) = some false ∧ reads [] = none ∧
    (load .crc used).waits 0 = true ∧ { load .crc used with restreamed := [0] }.restreamed.contains 0 = true ∧
    ((s graphMem (load .steward [])).billet 1).load = some (load .steward []) ∧ (load .steward []).busEnd ≤ here.now 1 ∧
    (onBillet fun x => { x with steward := true }).active 1 = true :=
  ⟨rfl, rfl, rfl, rfl, by decide +kernel, by decide +kernel, by decide +kernel, rfl, rfl, rfl, by decide +kernel, by decide +kernel,
    by decide +kernel, by decide +kernel, rfl, rfl, by decide, rfl⟩

/-- The placed page pinned, in a context with a page store of a size. -/
def pinned (store : Word) : State := ((queued (queueOf [])).modLaunch placeRec fun l => { l with graph := { l.graph with
  pages := [{ image := 0x30000, size := 1088, side := 0, pin := true, entry := true, bases := [] }] } }).modCtx 1 fun c => { c with qstore := store }

/-- An eviction in each phase: that may start, with room for its page's record and without; quiet and not; at its boundary and not; past its
budget; with another page of its launch still to be scanned; with a marked flit. -/
theorem witness_PagesLeave :
    let ev (ph : EvictPhase) : Evict := { phase := ph, quiet := 64 }
    let s (ph : EvictPhase) := onBillet fun x => { x with evict := some (ev ph) }
    let late := { s .boundary with dtb := { ns := 50000 } }
    let p : Resident := ⟨1, placeRec, 0⟩
    let flit : Flit := { src := ⟨1, 0⟩, ch := 0, dest := .chan 1 0 0, cid := 1, launch := placeRec, tok := {}, due := 100 }
    let busy := (s .boundary).modTile ⟨1, 0⟩ fun t => { t with flights := [flightOf .nothing] }
    let two := (s .scan).setBillet 2 { page := some p, evict := some (ev .scan) }
    (s .wanted).mayEvict 1 p = true ∧ (s .wanted).evictTurn (ev .wanted) = true ∧ ((pinned 200).reservePinned p).isSome = true ∧
    ((pinned 0).reservePinned p).isNone = true ∧ ((s .wanted).modLaunch placeRec fun l => { l with st := .checkout }).mayEvict 1 p = false ∧
    (s .drain).active 1 = true ∧ 64 ≤ (ev .drain).quiet ∧ { ev .drain with quiet := 3 }.quiet < 64 ∧
    (s .drain).now 1 < (ev .drain).startFc + 8192 ∧ (s .boundary).atBoundary 1 = true ∧ busy.atBoundary 1 = false ∧
    (ev .boundary).startNs + 50000 ≤ late.ns ∧ (s .boundary).ns < (ev .boundary).startNs + 50000 ∧ (s .scan).power = .c0 ∧
    (((s .scan).billetsOf placeRec).filter fun c => c ≠ 1) = [] ∧
    (((two.billetsOf placeRec).filter fun c => c ≠ 1).any fun c => (two.billet c).evict.any fun f => f.phase == .scan) = true ∧
    (s .flush).flits = [] ∧ flit.same flit = true :=
  ⟨by decide +kernel, by decide +kernel, by decide +kernel, by decide +kernel, by decide +kernel, rfl, by decide, by decide, by decide,
    by decide +kernel, by decide +kernel, by decide, by decide, rfl, by decide +kernel, by decide +kernel, rfl, by decide +kernel⟩

/-! ### Witnesses for the statements about errors, links, time and the mailbox -/

/-- The placed page with a booted device and nothing else. -/
def booted : State := { here with boot := .running, sides := here.sides.map fun (d : Machine.Side) => { d with deskSet := true } }

/-- A request of PF0, or of function 5, with arguments. -/
def ask (fn : Nat) (args : List Word) : MbReq := ⟨fn, 1, args⟩

/-- A hot line and none, with its bank free and held; a wanted way; a bad page and a good one; a site that may be spared, with its billet
full and empty, and one that may not; a running billet and one without a page; a read of a line under way and none; the Innkeeper. -/
theorem witness_ErrorsHandled :
    let hot := booted.modSide 0 fun d => { d with ceHist := List.replicate 4 (2, 0, 0), waysWanted := [3] }
    let bad : State := { booted with badLines := [0] }
    let free : State := { booted with billets := [] }
    let watching := booted.modBillet 1 fun x => { x with watches := [{ tile := 0, acc := accOf ldGlb [] [] (.word 0), loc := .glb 128 false, next := 0 }] }
    let reading := booted.modTile ⟨1, 0⟩ fun t => { t with flying := [accOf ldGlb [] [(0, .glb 128 false)] (.word 0)] }
    hot.hotLine 0 (bankCode 2 0) false = some 0 ∧ booted.hotLine 0 (bankCode 2 0) false = none ∧ hot.keeperUp 0 = true ∧
    hot.bankHeld 0 (bankCode 2 0) = false ∧ hot.bankHeld 0 (2 ^ 20 + 4 * 2 ^ 5) = true ∧
    (hot.side 0).waysWanted.contains 3 = true ∧ (booted.side 0).waysWanted.contains 3 = false ∧
    bad.pageBad 0 = true ∧ bad.withdrawn.contains 0 = false ∧ booted.pageBad 0 = false ∧ bad.keeperUp (pageSide 0) = true ∧
    booted.maySpare 0 0 4 0 = true ∧ (booted.modSide 0 fun d => { d with roleTo := some [] }).maySpare 0 0 4 0 = false ∧
    (booted.wantOut (booted.siteUser 0 0 4 0)).empty (booted.siteUser 0 0 4 0) = false ∧ booted.siteUser 0 1 4 0 = 1 ∧
    (free.wantOut (free.siteUser 0 0 4 0)).empty (free.siteUser 0 0 4 0) = true ∧ (booted.billet 1).page = some ⟨1, placeRec, 0⟩ ∧
    (booted.billet 1).isFrozen = false ∧ ((booted.freeze [1] .debug).billet 1).isFrozen = true ∧
    ((booted.freeze [1] .debug).billet 1).page = some ⟨1, placeRec, 0⟩ ∧ (booted.modSide 0 fun d => d.schedule (0, 4, 0)).keeperUp 0 = true ∧
    (booted.billet 2).page = none ∧ ((booted.tile ⟨1, 0⟩).readerOf (lineOf 128)).isNone = true ∧ ((reading.tile ⟨1, 0⟩).readerOf (lineOf 128)).isSome = true ∧
    ((booted.billet 1).watcherOf 0 (lineOf 128)).isNone = true ∧ ((watching.billet 1).watcherOf 0 (lineOf 128)).isSome = true ∧
    ((booted.modSide 0 fun d => { d with innkeeperDown := true }).side 0).innkeeperDown = true ∧ (booted.side 0).innkeeperDown = false :=
  ⟨by decide +kernel, by decide +kernel, rfl, rfl, by decide +kernel, rfl, rfl, rfl, rfl, rfl, rfl, rfl, rfl, by decide +kernel, rfl, by decide +kernel,
    rfl, rfl, rfl, rfl, rfl, rfl, rfl, rfl, rfl, rfl, rfl, rfl⟩

theorem witness_LinksRetrain :
    let l : LinkId := ⟨.ucieA, 0, 0, 0⟩
    let s (n : Nat) : State := booted.modLink (linkKey l) fun k => { k with crcFails := n, running := if n = 7 then some .retrain else none }
    ((s 0).link (linkKey l)).crcFails < 7 ∧ ((s 7).link (linkKey l)).crcFails = 7 ∧ ((s 0).link (linkKey l)).lost = false ∧
    ((booted.modLink (linkKey l) fun k => { k with lost := true }).link (linkKey l)).lost = true ∧ LinkKind.ucie .mesh = false ∧
    LinkKind.ucie l.kind = true ∧ ((s 7).link (linkKey l)).running = some .retrain ∧ ((s 0).link (linkKey l)).running = none :=
  ⟨by decide, rfl, rfl, rfl, rfl, rfl, rfl, rfl⟩

/-- A side at its fastest, in a step, and 100 ms after one; a keeper that is down; a bounded cap. -/
theorem witness_ClocksStep :
    let slow := { booted.modSide 0 fun d => { d with clk := 2 } with dtb := { ns := 100000000 } }
    let going := booted.modSide 0 fun d => { d with stepTo := some 1 }
    (going.side 0).roleClock = false ∧ ((going.modSide 0 fun d => { d with roleClock := true }).side 0).roleClock = true ∧
    booted.keeperUp 0 = true ∧ (booted.side 0).stepTo = none ∧ (booted.side 0).clk < 2 ∧ 2 ≤ (slow.side 0).clk ∧
    (slow.side 0).baseClk < (slow.side 0).clk ∧ (slow.side 0).stepNs + 100000000 ≤ slow.ns ∧ (booted.side 0).clk ≤ (booted.side 0).baseClk ∧
    (booted.modSide 0 fun d => { d with innkeeperDown := true }).keeperUp 0 = false ∧ (going.side 0).stepTo = some 1 ∧ going.keeperUp 0 = true :=
  ⟨rfl, rfl, rfl, rfl, by decide, by decide, by decide, by decide, by decide, rfl, rfl, rfl⟩

/-- The line "ZTOD,7,1". -/
def ztodLine : List Byte := [90, 84, 79, 68, 44, 55, 44, 49]

/-- Each source; offsets above a millisecond, below, and 0; an edge that pends and none; a line in time that reads and one that does not; a
lost source; a slew that is over and none; DTBREAD and TSYNCWRITE from PF0. -/
theorem witness_TimeDisciplined :
    let s (d : Dtb) : State := { booted with dtb := d }
    let m : MbReq := ⟨0, 1, [1]⟩
    (s { src := 1 }).dtb.src = 1 ∧ (1000000 : Int) < 2000000 - ((s { src := 1 }).ns : Int) ∧ (5 - ((s { src := 1 }).ns : Int)) ≠ 0 ∧
    (0 - ((s { src := 1 }).ns : Int)) = 0 ∧ (s { src := 2 }).dtb.src ≠ 1 ∧ (s { src := 1 }).dtb.src ≠ 2 ∧
    (s { src := 2 }).dtb.edgePending = false ∧ (s { src := 2, edgePending := true }).dtb.edgePending = true ∧
    (s { src := 2, edgePending := true }).ns ≤ (s { src := 2 }).dtb.lastEdgeNs + 500000000 ∧ ztodOf ztodLine = some 7 ∧ ztodOf [90] = none ∧
    (s { src := 2, ns := 2000000000 }).dtb.lastEdgeNs + 2000000000 ≤ (s { src := 2, ns := 2000000000 }).ns ∧
    (s { slewing := true }).dtb.slew = 0 ∧ (s {}).dtb.slewing = false ∧ (s {}).mbUp 0 0x40 = true ∧ (s {}).mbUp 0 0x43 = true ∧
    ((s {}).func 0).state ≠ .running ∧ m.pf0 = true ∧ m.endsAt 1 = true ∧ (ask 0 []).endsAt 0 = true ∧ (s {}).mbServes = true ∧
    (s {}).goWaits = [] :=
  ⟨rfl, by decide, by decide, by decide, by decide, by decide, rfl, rfl, by decide, rfl, rfl, by decide, rfl, rfl, rfl, rfl, by decide, rfl, rfl, rfl, rfl, rfl⟩

/-- Every command from PF0 on a mailbox that is idle, running or down, with the Innkeeper up and down and a command that waits for it, a BAR that
the host reaches and one that it does not; a command from function 5, an argument out of its table. -/
theorem witness_MailboxChecks :
    let running := booted.modFunc 0 fun f => { f with state := .running }
    (∀ op ∈ [0x01, 0x02, 0x03, 0x10, 0x11, 0x12, 0x20, 0x21, 0x22, 0x30, 0x31, 0x32, 0x40, 0x41, 0x42, 0x43, 0x44, 0x50, 0x60, 0x61],
      booted.mbUp 0 op = true ∧ booted.mbUp 5 op = true ∧ here.mbUp 0 op = false) ∧
    (let down := booted.modSide 0 fun d => { d with innkeeperDown := true }
     let held : State := { down with goWaits := [(ask 0 [0], 0x01)] }
     down.mbServes = false ∧ booted.mbServes = true ∧ booted.goWaits = [] ∧ held.goWaits.head? = some (ask 0 [0], 0x01) ∧
     held.barUp 0 = true ∧ here.barUp 0 = false ∧ ({ here with boot := .recovery } : State).barUp 0 = true ∧
     ({ here with boot := .recovery } : State).mbUp 0 0x01 = false) ∧
    (let named := booted.modFunc 0 fun f => { f with cmdOp := 0x40 }
     (goRow (named.func 0).cmdOp.toNat ((named.func 0).request 0)).isSome = true ∧
     goRow (booted.func 0).cmdOp.toNat ((booted.func 0).request 0) = none ∧ booted.mbUp 0 (booted.func 0).cmdOp.toNat = true ∧
     (booted.func 0).pending = []) ∧ booted.writing = none ∧
    (booted.func 0).state ≠ .running ∧ (running.func 0).state = .running ∧ (booted.func 0).waits = none ∧
    booted.roleUnderWay (ask 0 [0]) = false ∧ booted.enterReq ≠ some (ask 0 [0]) ∧ (ask 5 [0]).pf0 = false ∧ (ask 0 [128]).fits 0 7 = false :=
  ⟨by decide, ⟨rfl, rfl, rfl, rfl, rfl, rfl, rfl, rfl⟩, ⟨rfl, rfl, rfl, rfl⟩, rfl, by decide, rfl, rfl, rfl, by decide, rfl, rfl⟩

/-- An entry of 256 bits: valid, function 0, QBILLET 4, WEIGHT 1, and one that ends; a descriptor of queue 1, with a record in execution and
without; a fault queue; registers that are and that are not; roles CMOO, asked for and under way. -/
theorem witness_MailboxInstalls :
    let ctx : MbReq := ask 0 [2, 0x00040001, 0x100, 0, 0, 0, 0, 0, 0]
    let off : MbReq := ask 0 [1, 0, 0, 0, 0, 0, 0, 0, 0]
    let sum (m : MbReq) := ((List.range 8).map fun k => m.arg (k + 1) * 2 ^ (32 * k)).sum
    let n := sum ctx
    let u := booted.modCtx 2 fun c => c.ofNat n
    let s := { booted.modFunc 0 (fun f => { f with qcount := 4 }) with launches := [] }
    let q : MbReq := ask 0 [1, 0x40000, 0, 0x106, 0, 0x50000, 0, 0x60000, 0, 0]
    let fq : MbReq := ask 0 [1, 0x70000, 0, 6]
    let idle : VQueue := queueOf []
    let busy : VQueue := queueOf [{ recOf 1 [] with started := true }]
    let roles := ask 0 [0, 0x09]
    let under := booted.modSide 0 fun d => { d with roleTo := some [.compute, .memory, .off, .off], roleReq := some roles }
    (booted.ctx 2).teardown = false ∧ (booted.ctx 2).zeroing = false ∧ (booted.ctx 2).valid = false ∧ entryReserved n = true ∧
    u.ctxTableOk (u.ctx 2) = true ∧ (booted.ctx 1).valid = true ∧ sum off % 2 = 0 ∧
    ((booted.modCtx 2 fun c => { c with teardown := true }).ctx 2).teardown = true ∧
    (ask 0 [1, 4, 4]).arg 1 + (ask 0 [1, 4, 4]).arg 2 ≤ 16384 ∧ (booted.mbAccept (ask 0 [1, 4, 4]) 0x03).rangeFree 1 4 4 = true ∧
    ctx.endsAt 9 = true ∧ q.endsAt 17 = true ∧ fq.endsAt 4 = true ∧ roles.endsAt 2 = true ∧
    ((s.modCtx 1 fun c => { c with func := 5 }).owns 6 1 = false ∧ (s.modCtx 1 fun c => { c with func := 5 }).owns 5 1 = true) ∧
    fld ((ask 0 [0x1003]).arg 0) 8 5 = 16 ∧ fld ((ask 0 [0x1003]).arg 0) 6 2 = 0 ∧ fld ((ask 0 [0x3]).arg 0) 8 5 = 0 ∧
    q.fits 0 14 = true ∧ q.arg 0 < (s.func 0).qcount ∧ (installQueue q).cid = 1 ∧ q.descOk = true ∧ s.ctxOpen 1 = true ∧ s.queue? 1 = none ∧
    (s.setQueue 1 idle).queue? 1 = some idle ∧ idle.recs.any Rec.busy = false ∧ busy.recs.any Rec.busy = true ∧ fq.fits 0 7 = true ∧
    fq.vaOk 1 = true ∧ s.owns 0 1 = true ∧
    4 ≤ fld (fq.arg 3) 0 4 ∧ fld (fq.arg 3) 0 4 ≤ 12 ∧ fq.arg2 1 % 64 = 0 ∧ fld ((ask 0 [0x100]).arg 0) 8 5 = 1 ∧
    (booted.regRead 5 0).isSome = true ∧ (booted.regRead 5 200).isNone = true ∧ 200 ≤ (ask 0 [5, 0, 300]).arg 2 ∧
    (ask 0 [5, 0, 100]).arg 2 < 200 ∧ rolesOf 0x09 = some [.compute, .memory, .off, .off] ∧
    (s.mbAccept roles 0x31).roleOk 0 [.compute, .memory, .off, .off] = true ∧ (s.side 0).innkeeperDown = false ∧ 0 < s.sides.length ∧
    under.roleUnderWay roles = true ∧ under.keeperUp 0 = true :=
  ⟨rfl, rfl, rfl, by decide +kernel, by decide +kernel, rfl, by decide, rfl, by decide, rfl, rfl, rfl, rfl, rfl, ⟨rfl, rfl⟩, rfl, rfl, rfl, rfl,
    by decide, rfl, by decide +kernel, rfl, rfl, rfl, rfl, rfl, rfl, rfl, rfl, by decide, by decide, rfl, rfl, rfl, rfl, by decide, by decide, rfl, by decide +kernel, rfl, by decide, rfl, rfl⟩

/-- INVAL of a context and of a range; no translation cached, one cached; acknowledgements outstanding, all in with nothing left, and with a
dirty byte left; a granule's RESUME; a page that moves and one that does not; a session; a teardown. -/
theorem witness_MailboxTranslates :
    let all := ask 0 [0x101]
    let range := ask 0 [1, 0x10000, 0, 1]
    let move := ask 0 [1, 0, 0]
    let waiting (k : Nat) := booted.modFunc 0 fun f => { f with waits := some (.inval 1 none), acks := k }
    let session : Session := { id := 7, fn := 513 }
    let held := booted.modTile ⟨1, 0⟩ fun t => { t with flying := [accOf ldGlb [] [(0, .glb 128 false)] (.word 0)] }
    all.endsAt 1 = true ∧ range.endsAt 4 = true ∧ move.endsAt 3 = true ∧ all.fits 0 9 = true ∧ fld (all.arg 0) 7 1 = 0 ∧ fld (all.arg 0) 8 1 = 1 ∧ fld (range.arg 0) 8 1 = 0 ∧ range.vaOk 1 = true ∧
    range.fits 3 21 = true ∧ range.arg2 1 % 65536 = 0 ∧ range.arg 3 ≠ 0 ∧ booted.owns 0 1 = true ∧ booted.tlb = [] ∧
    ((waiting 3).func 0).waits = some (.inval 1 none) ∧ ((waiting 3).func 0).acks < 8 ∧ 8 ≤ ((waiting 8).func 0).acks ∧
    (waiting 8).translationsIdle 1 [] = true ∧ held.translationsIdle 1 [] = false ∧ (booted.func 0).waits = none ∧
    (ask 0 [1, 0, 0]).faultArgs = true ∧
    (booted.mbAccept move 0x30).movable 1 placeRec 0 = some 1 ∧ ((booted.mbAccept move 0x30).freeBillets 0).isEmpty = false ∧
    (booted.mbAccept move 0x30).movable 2 placeRec 0 = none ∧
    ({ booted with sessions := [session] } : State).sessions.any (fun x => x.id = 7) = true ∧ booted.ctxOpen 1 = true ∧
    ((booted.modCtx 1 fun c => { c with zeroing := true }).ctx 1).zeroing = true ∧ (booted.ctx 1).zeroing = false :=
  ⟨rfl, rfl, rfl, rfl, rfl, rfl, rfl, rfl, rfl, rfl, by decide, rfl, rfl, rfl, by decide, by decide, rfl, rfl, rfl, rfl, rfl, by decide +kernel,
    rfl, rfl, rfl, rfl, rfl⟩

/-- Power changes from each state, ended and refused, and a wake called for, under way and due; with and without auxiliary power; an image boots for every implementation of R446's signature check that accepts it (the
check has no body here), and a device without an image is in recovery, from where FWCOMMIT goes on; a commit of an image that is none. -/
theorem witness_PowerChanges (img : List Byte) (h : fwFormOk img = true)
    (v : Config.mldsaVerify (fwKey img) (fwDigest img) (fwSig img) = true) :
    let s : State := { State.reset with flash := img, keyHash := Config.sha3 (fwKey img) }
    let b := s.coldReset.applyRepairs.setDesks
    let blank := State.reset.coldReset.applyRepairs.setDesks
    let asleep : State := { booted with power := .c2 }
    let woken : State := { asleep with wakeAsked := true }
    let waking (t : Nat) : State := { asleep with wakeAt := some t }
    let writing : State := { booted with writing := some ([], ask 0 [0]) }
    let going : State := { booted with entering := true, enterReq := some (ask 0 [3]) }
    s.boot = .notBooted ∧ b.fwVerifies b.flash = true ∧ blank.fwVerifies blank.flash = false ∧
    booted.powerBusy = false ∧ going.powerBusy = true ∧ going.enterReq = some (ask 0 [3]) ∧ booted.power = .c0 ∧ woken.wakeCalled = true ∧
    woken.wakeAt = none ∧ asleep.wakeCalled = false ∧ 0 ≤ (waking 0).ns ∧ (waking 0).ns < 9 ∧ (waking 9).wakeAt = some 9 ∧
    (waking 9).powerBusy = true ∧ booted.aux = true ∧ ({ booted with aux := false } : State).aux = false ∧ booted.writing = none ∧
    writing.writing = some ([], ask 0 [0]) ∧ b.torn = false ∧ writing.coldReset.torn = true ∧ booted.sides.length = 2 ∧
    (booted.sessions.any fun x => x.fn == 0) = false ∧ (ask 0 [3]).endsAt 1 = true ∧ (booted.ctx 1).valid = true ∧
    (booted.ctx 1).func.toNat = 0 ∧ booted.boot = .running ∧ ({ booted with power := .d3hot } : State).power = .d3hot ∧
    ({ booted with boot := .recovery } : State).mbUp 0 0x61 = true ∧ (ask 0 [3]).fits 0 13 = true ∧
    booted.fwVerifies (booted.staged 0) = false := by
  refine ⟨rfl, ?_, rfl, rfl, rfl, rfl, rfl, rfl, rfl, rfl, by decide, by decide, rfl, rfl, rfl, rfl, rfl, rfl, rfl, rfl, rfl, rfl, rfl, rfl, rfl, rfl,
    rfl, rfl, rfl, rfl⟩
  show (fwFormOk img && Config.sha3 (fwKey img) == Config.sha3 (fwKey img) && Config.mldsaVerify (fwKey img) (fwDigest img) (fwSig img) &&
    decide (0 ≤ fwSvn img)) = true
  simp [h, v]

/-- A header of R445 alone has the form that the check asks for. -/
theorem witness_imageForm : fwFormOk ([1, 0, 0x46, 0x5A, 0, 0x10] ++ List.replicate 4090 0) = true := by decide +kernel

/-- A session with an unlock and without; a running launch, a stopped one with a node and an empty slot; reads and writes of mapped bytes
and, without a page table, of none. -/
theorem witness_DebugServes :
    let d : DbgReq := ⟨7, 1⟩
    let session : Session := { id := 7, fn := 513, permits := [1], unlocks := [1] }
    let s : State := { mapped booted with sessions := [session], sides := booted.sides.map fun (d : Machine.Side) => { d with waysOff := 0xFFFF } }
    let lost : State := { s with mem := [] }
    let stopped := (s.modLaunch placeRec fun l => { l with st := .stopped }).modBillet 1 fun x => { x with frozen := [.debug], routes := [{}] }
    let ok {α : Type} (e : Except State α) : Bool := match e with
      | .ok _ => true
      | .error _ => false
    let writes (s : State) : Bool := match s.mayParts 1 (parts 0x80000 2) with
      | .ok t => ok (t.writeParts 1 (parts 0x80000 2) [1, 2])
      | .error _ => false
    s.doeUp 513 = true ∧ (s.sessions.any fun x => x.id == 8) = false ∧ s.session? 7 = some session ∧ session.permits.contains 1 = true ∧
    s.session? 8 = none ∧ s.unlocked d = true ∧
    booted.unlocked d = false ∧ s.launch? placeRec = some placeLaunch ∧ placeLaunch.st = .running ∧ stopped.isStopped d placeRec = true ∧
    ((stopped.billet 1).page.any fun p => p.launch = placeRec) = true ∧ stopped.power = .c0 ∧ s.isStopped d placeRec = false ∧
    (stopped.discardAt ⟨1, 0, 0, 0⟩).isSome = true ∧ (stopped.discardAt ⟨1, 0, 0, 1⟩).isNone = true ∧
    ((stopped.tile ⟨1, 0⟩).instrAt 0 0).isSome = true ∧ ((stopped.tile ⟨1, 0⟩).instrAt 0 1).isNone = true ∧
    stopped.scannable d 1 = true ∧ s.scannable d 1 = false ∧
    0 < (stopped.billet 1).routes.length ∧ ok (s.readParts 1 (parts 0x80000 70)) = true ∧ ok (lost.readParts 1 (parts 0x80000 70)) = false ∧
    writes s = true ∧ ok (lost.mayParts 1 (parts 0x80000 2)) = false ∧ (BitVec.extractLsb' 10 22 (0x08D : BitVec 192)) = 0 :=
  ⟨rfl, rfl, rfl, rfl, rfl, rfl, rfl, rfl, rfl, rfl, rfl, rfl, rfl, rfl, rfl, rfl, rfl, rfl, rfl, by decide, by decide +kernel, by decide +kernel,
    by decide +kernel, by decide +kernel, rfl⟩

theorem witness_Attestation : booted.doeUp 0 = true ∧ booted.doeUp 513 = true ∧ ({ booted with power := .d3hot } : State).doeUp 0 = false ∧
    Tbl.get 0 ({ booted with spdmAlgo := [(0, { sig := .ecdsaP384 })] } : State).spdmAlgo = some { sig := .ecdsaP384 } ∧
    ({ booted with identity := some ([1], [2]) } : State).identity = some ([1], [2]) := ⟨rfl, rfl, rfl, rfl, rfl⟩

/-! ### Single steps and functions on the spec's worked values -/

/-- The results a firing puts into the pipeline, with its flags. -/
def sent (i : Instr) (s : State) : List (Out × Flags) :=
  match exec i s with
  | .next t => (t.tile t.selTile).flights.flatMap fun f => f.outs.map fun o => (o, f.flags)
  | _ => []

/-- The word a node with T0 on channel 0 sends, and its flags (OF is bit 2, NX bit 4). -/
def wordSent (i : Instr) (es : List Entry) : Option (Word × Flags) :=
  (sent i ((fed i es).modTile ⟨1, 0⟩ fun t => { t with outCh := [(0, { views := [(0, false)] })] })).head?.bind fun p => match p.1.res with
    | .pay (.word w) => some (w, p.2)
    | _ => none

def out0 (w : Shape) : GNode := plain w (.chan 0) .none

/-- R14, R44: the tags of the worked example of 01. -/
theorem test_tag_path : ({ colour := 3, iter := 5 } : Tag).toNat = 0x30005 ∧
    (({ colour := 3, iter := 5 } : Tag).append true).toNat = 0x24030005 ∧
    ((({ colour := 3, iter := 5 } : Tag).append true).append false).toNat = 0x28030005 ∧
    ({ kind := .fin, colour := 3, iter := 64 } : Tag).toNat = 0x1000030040 := ⟨rfl, rfl, rfl, rfl⟩
/-- R121: a wrap and its saturated form; sub's operand order. -/
theorem test_add_wraps : wordSent (.add (out0 .word) .i32 false) (lr 0x7FFFFFFF 1) = some (0x80000000, 0) := rfl
theorem test_add_saturates : (wordSent (.add (out0 .word) .i32 true) (lr 0x7FFFFFFF 1)).map Prod.fst = some 0x7FFFFFFF := rfl
theorem test_sub_order : wordSent (.sub (out0 .word) .i32 false) (lr 5 7) = some (0xFFFFFFFE, 0) := rfl
theorem test_shr_sign : wordSent (.shr (out0 .word) .i32 true) (lr 0xFFFFFFF0 2) = some (0xFFFFFFFC, 0) := rfl
/-- R130: frsqe of 2.0, 4.0 and 8.0. -/
theorem test_frsqe : (wordSent (.frsqe (out0 .word) .f32) [tokenAt .L {} 0x40000000]).map Prod.fst = some 0x3F350000 ∧
    wordSent (.frsqe (out0 .word) .f32) [tokenAt .L {} 0x40800000] = some (0x3F000000, 0) ∧
    (wordSent (.frsqe (out0 .word) .f32) [tokenAt .L {} 0x41000000]).map Prod.fst = some 0x3EB50000 := by decide +kernel
/-- R129: 3.0 × 0.5 + 1.5. -/
theorem test_ffma : wordSent (.ffma (out0 .word) .f32 .rne) [tokenAt .L {} 0x40400000, tokenAt .R {} 0x3F000000, tokenAt .Q {} 0x3FC00000] =
    some (0x40400000, 0) := by decide +kernel
/-- R142: the worked dots, with the imm and XMOD that they print. -/
theorem test_dot : (wordSent (.dot { out0 .word with xg := some ⟨0, 0, .none, 25, 0x0C0A⟩ } false false .rne) (lr 0x0105FE03 0x3004F287)).map
      Prod.fst = some 46 ∧
    (wordSent (.dot { out0 .word with xg := some ⟨0, 0, .none, 25, 0x2C0A⟩ } false false .rne) (lr 0x0105FE03 0x3004F287)).map Prod.fst =
      some 15 ∧
    (wordSent (.dot { out0 .word with xg := some ⟨0, 0, .none, 17, 0x0C0A⟩ } false false .rne) (lr 0x0105FE03 0x3004F287)).map Prod.fst =
      some 36 := by decide +kernel
/-- R74: sround of 0x3F805000 to bf16 with both random halves, NX set. -/
theorem test_sround : (wordSent (.sround { out0 .word with xg := some ⟨0, 0, .none, 0, 1⟩ }) (lr 0x3F805000 0xB0000000)).map
      Prod.fst = some 0x3F81 ∧
    (wordSent (.sround { out0 .word with xg := some ⟨0, 0, .none, 0, 1⟩ }) (lr 0x3F805000 0xAFFF0000)).map Prod.fst = some 0x3F80 := by
  decide +kernel
/-- R69: rsum of 2^24, 1.0, 1.0 and zeros. -/
theorem test_rsum : (wordSent (.rsum (out0 .vec) (.flt .rne)) [vecAt .L {} ([0x4B800000, 0x3F800000, 0x3F800000] ++ List.replicate 13 0)]).map
    Prod.fst = some 0x4B800000 := by decide +kernel
/-- R72: the worked LNS terms in element 0, the other elements zero (code 0x10), accumulated into zero. -/
theorem test_lacc : (wordSent (.lacc (out0 .word)) [tokenAt .L {} 0x10410405, tokenAt .R {} 0x1041043E, tokenAt .Q {} 0]).map Prod.fst = some 0xFFFE5176 ∧
    (wordSent (.lacc (out0 .word)) [tokenAt .L {} 0x10410411, tokenAt .R {} 0x10410411, tokenAt .Q {} 0]).map Prod.fst = some 362 := by decide +kernel
/-- R200: 1.0 added to 2^24 singly, and three at once. -/
theorem test_red_sums : groupWord .fadd 0x4B800000 [0x3F800000] = 0x4B800000 ∧
    groupWord .fadd 0x4B800000 [0x3F800000, 0x3F800000] = 0x4B800001 ∧
    groupWord .fadd 0x4B800000 [0x3F800000, 0x3F800000, 0x3F800000] = 0x4B800002 := by decide +kernel
/-- R265, R266: the EDGE route of the worked page takes 12 fc and PACE 2. -/
theorem test_route_time : State.reset.oneWay 0x05 0x27 = 12 ∧ paceOf 24 = 2 ∧ paceOf 60 = 8 := by decide +kernel
/-- R365 to R367: the worked walk of context 9, and D set by a store. -/
def walkMem : List Host.Cell := cellsAt 0x800 0x10001 ++ cellsAt 0x10808 0x20001 ++ cellsAt 0x20808 0x0020004B ++ cellsAt 0x2080C 4
theorem test_walk : ((({ State.reset with mem := walkMem } : State).translate 9 0x804060345678 false).map fun p => p.1.pa) = some 0x400345678 ∧
    ((({ State.reset with mem := walkMem } : State).translate 9 0x804060345678 true).map fun p => natOf (p.2.homeReads 0x20808 8)) =
      some 0x4002000CB := by decide +kernel
/-- R368, R369: a cached leaf is used though its PTE is gone, and no longer after the dies have removed those of its context. -/
def walked : State := (({ State.reset with mem := walkMem } : State).translateAt 5 9 0x804060345678 false).elim State.reset Prod.snd
def dropped : State := (List.range 8).foldl (fun s die => s.tlbInval die 9 none) { walked with mem := [] }
theorem test_tlb : (({ walked with mem := [] } : State).translateAt 5 9 0x804060340008 false).map (fun p => p.1.pa) = some 0x400340008 ∧
    dropped.walk 9 0x804060340008 = none ∧ (dropped.translateAt 5 9 0x804060340008 false).isNone = true := by decide +kernel
/-- R3: the worked billet, at side 1, L2, bx = 3, by = 1: its address, and its sites of rows 4 and 5 with c7. -/
theorem test_sites : siteBillet 1 2 12 4 = 0x67 ∧ [tileSite 0x67 true 0, tileSite 0x67 false 0, tileSite 0x67 true 1, tileSite 0x67 false 1] =
      [(12, 4), (13, 4), (14, 4), (15, 4)] ∧
    [tileSite 0x67 false 2, tileSite 0x67 true 2, tileSite 0x67 false 3, tileSite 0x67 true 3] = [(12, 5), (13, 5), (14, 5), (15, 5)] ∧
    tileSite 0x67 true 7 = (15, 7) ∧ siteTile 15 7 = 7 := by decide
/-- R427: DV_LAYERCAP at reset, pattern CMCM on both sides. -/
theorem test_layercap : State.reset.layerCap = 0x25252525 := by decide +kernel
/-- R440, R441: MBCMD keeps a code that names no command, and GO completes it with BADOP and its TAG. -/
theorem test_go_unknown : (match booted.barWrite 0 0x10000 0x12340099 with
    | .next t => (match t.barWrite 0 0x10008 1 with
      | .next u => some (u.barRead 0 0x10000, u.barRead 0 0x10004)
      | _ => none)
    | _ => none) = some (0x12340099, 0x12340202) := by decide +kernel
/-- With nothing on the agenda, a step lays out an fc of side 0. -/
theorem test_reset_runs : step State.reset = .next { State.reset with agenda := State.reset.plan State.reset.nextSide } := rfl

end Sys2Proof.Tests
end

/-! Row 0x5 (05): how a node on the shared firing rule fires, and the node sink. -/

namespace Sys2Proof.Machine

section onNode
variable {s : State} {i : Instr} {tag : Tag} {took : List Entry}

/-- A node on the shared firing rule whose data handler issues a firing fires so on a match (R24, R35). -/
theorem State.fires_of_matched (h : s.Matched i tag took) {fire : Tag → List Entry → Firing} {onEnd : Tag → Nat → List Entry → State}
    (hx : exec i s = .next (s.onNode i (fun tag took => s.tryFire i (fire tag took)) onEnd)) : s.Fires i (fire tag took) := by
  intro hfree
  rw [hx, State.onNode_matched h, State.tryFire_free hfree]

/-- A node on the shared firing rule whose END handler issues a firing fires so when it has an END to forward (R32). -/
theorem State.fires_of_ended {level : Nat} (h : s.Ended i tag level took) {onFire : Tag → List Entry → State}
    {fin : Tag → Nat → List Entry → Firing}
    (hx : exec i s = .next (s.onNode i onFire fun tag level took => s.tryFire i (fin tag level took))) :
    s.Fires i (fin tag level took) := by
  intro hfree
  rw [hx, State.onNode_ended h, State.tryFire_free hfree]

end onNode

/-- R163: sink stands on the shared firing rule, and both its firings send nothing. -/
theorem exec_sink (n : GNode) (s : State) :
    exec (.sink n) s = .next (s.onNode (.sink n) (fun _ took => s.tryFire (.sink n) (.of took []))
      fun tag _ took => s.tryFire (.sink n) (s.endFiring tag took [])) := rfl

/-- Settles O14: the sink takes its DATA and its END by the shared firing rule, with no result in either case. -/
theorem sinkFires : Obligations.SinkFires := by
  intro s n tag took level
  constructor
  · intro hdata
    exact State.fires_of_matched hdata (exec_sink n s)
  · intro hend
    exact State.fires_of_ended hend (exec_sink n s)

end Sys2Proof.Machine

/-! The nodes brk and trap (07): a firing with a debug stop or a count beside it, a trap at issue, and the record that a trap makes. -/

namespace Sys2Proof.Machine

/-- What a firing of brk on a page leads to (R241): a debug stop under a debugger, a count in CT_BRKCNT (R242) without one. -/
def State.brkFired (s : State) (n : GNode) (fr : Firing) (p : Resident) : State :=
  if s.attached p.cid then (s.commit (.brk n) fr).stopAt p.launch s.sel.b (.brk n.imm)
  else (s.commit (.brk n) fr).modTile s.selTile fun t =>
    { t with brkCnt := if t.brkCnt = 0xFFFF then t.brkCnt else t.brkCnt + 1 }

/-- R241: brk stands on the shared firing rule; its firing passes L on, and its END goes to both targets. -/
theorem exec_brk (n : GNode) (s : State) : exec (.brk n) s = .next (s.onNode (.brk n)
    (fun tag took => (s.billet s.sel.b).page.elim s fun p =>
      s.whenFree (.brk n) (.of took (s.passAll (.brk n) n tag took)) (s.brkFired n (.of took (s.passAll (.brk n) n tag took)) p))
    (fun tag level took => s.tryFire (.brk n) (s.endFiring tag took ((tgts (.brk n)).map (endOut tag level))))) := by
  refine congrArg (fun onFire => Host.Outcome.next (s.onNode (.brk n) onFire _)) (funext₂ fun tag took => ?_)
  cases (s.billet s.sel.b).page with
  | none => rfl
  | some p => exact (apply_ite (s.whenFree (.brk n) _) _ _ _).symm

/-- A brk that matches and has room does what its firing on its page leads to. -/
theorem exec_brk_matched {s : State} {n : GNode} {tag : Tag} {took : List Entry} {p : Resident} (h : s.Matched (.brk n) tag took)
    (hp : (s.billet s.sel.b).page = some p) (hfree : s.Free (.brk n) (.of took (s.passAll (.brk n) n tag took))) :
    exec (.brk n) s = .next (s.brkFired n (.of took (s.passAll (.brk n) n tag took)) p) := by
  rw [exec_brk, State.onNode_matched h, hp, Option.elim_some, State.whenFree_free hfree]

/-- Settles O30: the page's debugger decides between the debug stop and the count; an END takes the shared path of forwarding. -/
theorem brkFires : Obligations.BrkFires := by
  intro s n tag took level p
  constructor
  · intro hdata hp hfree
    have hfired := exec_brk_matched hdata hp hfree
    constructor
    · intro hnone
      simpa [State.brkFired, hnone] using hfired
    · intro hattached
      simpa [State.brkFired, hattached, State.stopAt] using hfired
  · intro hend
    exact State.fires_of_ended hend (exec_brk n s)

/-- R240: trap stands on the shared firing rule; its guard decides between the trap at issue and the consuming of its tokens. -/
theorem exec_trap (n : GNode) (s : State) : exec (.trap n) s = .next (s.onNode (.trap n)
    (fun tag took =>
      if s.guardTrue (.trap n) (s.fireOf (.trap n) tag took) then s.trapAt clsTrap tag 0 n.imm
      else s.tryFire (.trap n) (.of took []))
    (fun tag _ took => s.tryFire (.trap n) (s.endFiring tag took []))) := rfl

/-- R240: under a true guard the node traps at issue. -/
theorem trap_traps {s : State} {n : GNode} {tag : Tag} {took : List Entry} (h : s.Matched (.trap n) tag took)
    (hg : s.guardTrue (.trap n) (s.fireOf (.trap n) tag took) = true) : s.Traps (.trap n) clsTrap tag 0 n.imm := by
  intro hopen
  rw [exec_trap, State.onNode_matched h, if_pos hg, State.trapAt_free hopen]

/-- R240: under a false guard the node fires and sends nothing. -/
theorem trap_consumes {s : State} {n : GNode} {tag : Tag} {took : List Entry} (h : s.Matched (.trap n) tag took)
    (hg : s.guardTrue (.trap n) (s.fireOf (.trap n) tag took) = false) : s.Fires (.trap n) (.of took []) := by
  intro hfree
  rw [exec_trap, State.onNode_matched h, if_neg (by simp [hg]), State.tryFire_free hfree]

/-- R415: on a page a trap writes its record and is due at the end of the fc. -/
theorem State.trap_on_page {s : State} {b : NodeAddr} {p : Resident} (hp : (s.billet b.b).page = some p)
    (cls : Nat) (tag : Tag) (detail addr : Nat) :
    s.trap b cls tag detail addr =
      { s with records := s.records ++ [trapInfo p b cls tag detail addr], due := s.due ++ [.trap p.launch b.b] } := by
  simp only [State.trap, hp]
  rfl

/-- Settles O31: the node's guard and its END by cases, then the record of a trap on a page. -/
theorem trapNodeTraps : Obligations.TrapNodeTraps := by
  constructor
  · intro s n tag took level
    refine ⟨fun hdata => ⟨trap_traps hdata, trap_consumes hdata⟩, fun hend => ?_⟩
    exact State.fires_of_ended hend (exec_trap n s)
  · intro s n cls detail addr tag p hp
    exact State.trap_on_page hp cls tag detail addr

end Sys2Proof.Machine

/-! What an operation may leave as it was: the relation that the frames of the power states and resets are stated in. -/

namespace Sys2Proof.Machine

/-- Time, log, image and power state stand; no side comes or goes, no zeroing ends, no queue, launch or session is new, and the memories
stay in canonical form. -/
structure State.Keeps (s t : State) : Prop where
  device : (t.dtb, t.faultLog, t.flash, t.minSvn, t.keyHash, t.power) = (s.dtb, s.faultLog, s.flash, s.minSvn, s.keyHash, s.power)
  sides : t.sides.length = s.sides.length
  zeroing : ∀ c, (s.ctx c).zeroing = true → (t.ctx c).zeroing = true
  queues : ∀ q ∈ t.queues, ∃ p ∈ s.queues, p.1 = q.1
  launches : ∀ l ∈ t.launches, ∃ k ∈ s.launches, k.id = l.id
  sessions : ∀ x ∈ t.sessions, ∃ y ∈ s.sessions, y.fn = x.fn
  memory : s.MemoryOk → t.MemoryOk

end Sys2Proof.Machine

/-! Encoding (03 R80 to R94): each field is read back as it was written, and each table gives its constructor back. -/

namespace Sys2Proof

/-! Modifiers: a reader gives a value exactly for the bits that its twin writes. -/

namespace Mod
variable {m : BitVec 4}

@[simp] theorem none_eq_some {a : Unit} : none m = some a ↔ m = 0 := by cases a; revert m; decide

@[simp] theorem tySat_eq_some {a : IntTy × Bool} : tySat m = some a ↔ m = tySatBits a.1 a.2 := by
  obtain ⟨x, y⟩ := a
  cases x <;> cases y <;> revert m <;> decide

@[simp] theorem ty_eq_some {x : IntTy} : ty m = some x ↔ m = tyBits x := by cases x <;> revert m <;> decide

@[simp] theorem tySatBit_eq_some {a : IntTy × Bool × Bool} : tySatBit m = some a ↔ m = tySatBitBits a.1 a.2.1 a.2.2 := by
  obtain ⟨x, y, z⟩ := a
  cases x <;> cases y <;> cases z <;> revert m <;> decide

@[simp] theorem tyBit_eq_some {a : IntTy × Bool} : tyBit m = some a ↔ m = tyBitBits a.1 a.2 := by
  obtain ⟨x, y⟩ := a
  cases x <;> cases y <;> revert m <;> decide

@[simp] theorem intCond_eq_some {x : IntCond} : intCond m = some x ↔ m = intCondBits x := by cases x <;> revert m <;> decide

@[simp] theorem fltCond_eq_some {x : FloatCond} : fltCond m = some x ↔ m = fltCondBits x := by cases x <;> revert m <;> decide

@[simp] theorem lea_eq_some {x : LeaScale} : lea m = some x ↔ m = leaBits x := by cases x <;> revert m <;> decide

@[simp] theorem constMode_eq_some {x : ConstMode} : constMode m = some x ↔ m = constModeBits x := by cases x <;> revert m <;> decide

@[simp] theorem satTo_eq_some {x : SatTo} : satTo m = some x ↔ m = satToBits x := by cases x <;> revert m <;> decide

@[simp] theorem tagGet_eq_some {x : TagGet} : tagGet m = some x ↔ m = tagGetBits x := by cases x <;> revert m <;> decide

@[simp] theorem tagSet_eq_some {x : TagSet} : tagSet m = some x ↔ m = tagSetBits x := by cases x <;> revert m <;> decide

@[simp] theorem timeSel_eq_some {x : TimeSel} : timeSel m = some x ↔ m = timeSelBits x := by cases x <;> revert m <;> decide

@[simp] theorem fltRound_eq_some {a : FloatTy × Round} : fltRound m = some a ↔ m = fltRoundBits a.1 a.2 := by
  obtain ⟨x, y⟩ := a
  cases x <;> cases y <;> revert m <;> decide

@[simp] theorem flt_eq_some {x : FloatTy} : flt m = some x ↔ m = fltBits x := by cases x <;> revert m <;> decide

@[simp] theorem fltSign_eq_some {a : FloatTy × SignOp} : fltSign m = some a ↔ m = fltSignBits a.1 a.2 := by
  obtain ⟨x, y⟩ := a
  cases x <;> cases y <;> revert m <;> decide

@[simp] theorem tyRound_eq_some {a : IntTy × Round} : tyRound m = some a ↔ m = tyRoundBits a.1 a.2 := by
  obtain ⟨x, y⟩ := a
  cases x <;> cases y <;> revert m <;> decide

@[simp] theorem round_eq_some {x : Round} : round m = some x ↔ m = roundBits x := by cases x <;> revert m <;> decide

@[simp] theorem bit_eq_some {x : Bool} : bit m = some x ↔ m = bitBits x := by cases x <;> revert m <;> decide

@[simp] theorem dot_eq_some {a : Bool × Bool × Round} : dot m = some a ↔ m = dotBits a.1 a.2.1 a.2.2 := by
  obtain ⟨x, y, z⟩ := a
  cases x <;> cases y <;> cases z <;> revert m <;> decide

@[simp] theorem sum_eq_some {x : SumMode} : sum m = some x ↔ m = sumBits x := by
  cases x with
  | int u s => cases u <;> cases s <;> revert m <;> decide
  | flt r => cases r <;> revert m <;> decide

@[simp] theorem laneTy_eq_some {x : LaneTy} : laneTy m = some x ↔ m = laneTyBits x := by cases x <;> revert m <;> decide

@[simp] theorem watch_eq_some {a : Bool × WatchCond} : watch m = some a ↔ m = watchBits a.1 a.2 := by
  obtain ⟨x, y⟩ := a
  cases x <;> cases y <;> revert m <;> decide

@[simp] theorem ringOp_eq_some {x : RingOp} : ringOp m = some x ↔ m = ringOpBits x := by cases x <;> revert m <;> decide

@[simp] theorem enPend_eq_some {a : Bool × Bool} : enPend m = some a ↔ m = enPendBits a.1 a.2 ∧ (a.1 || a.2) = true := by
  obtain ⟨x, y⟩ := a
  cases x <;> cases y <;> revert m <;> decide

@[simp] theorem chk_eq_some {x : ChkFlag} : chk m = some x ↔ m = chkBits x := by cases x <;> revert m <;> decide

@[simp] theorem csr_eq_some {x : CsrOp} : csr m = some x ↔ m = csrBits x := by cases x <;> revert m <;> decide

@[simp] theorem mma_eq_some {a : Bool × Bool × AccTy} : mma m = some a ↔ m = mmaBits a.1 a.2.1 a.2.2 := by
  obtain ⟨x, y, z⟩ := a
  cases x <;> cases y <;> cases z <;> revert m <;> decide

@[simp] theorem none_zero : none 0 = some () := rfl

@[simp] theorem tySat_bits (x : IntTy) (y : Bool) : tySat (tySatBits x y) = some (x, y) := tySat_eq_some.mpr rfl

@[simp] theorem ty_bits (x : IntTy) : ty (tyBits x) = some x := ty_eq_some.mpr rfl

@[simp] theorem tySatBit_bits (x : IntTy) (y : Bool) (z : Bool) : tySatBit (tySatBitBits x y z) = some (x, y, z) := tySatBit_eq_some.mpr rfl

@[simp] theorem tyBit_bits (x : IntTy) (y : Bool) : tyBit (tyBitBits x y) = some (x, y) := tyBit_eq_some.mpr rfl

@[simp] theorem intCond_bits (x : IntCond) : intCond (intCondBits x) = some x := intCond_eq_some.mpr rfl

@[simp] theorem fltCond_bits (x : FloatCond) : fltCond (fltCondBits x) = some x := fltCond_eq_some.mpr rfl

@[simp] theorem lea_bits (x : LeaScale) : lea (leaBits x) = some x := lea_eq_some.mpr rfl

@[simp] theorem constMode_bits (x : ConstMode) : constMode (constModeBits x) = some x := constMode_eq_some.mpr rfl

@[simp] theorem satTo_bits (x : SatTo) : satTo (satToBits x) = some x := satTo_eq_some.mpr rfl

@[simp] theorem tagGet_bits (x : TagGet) : tagGet (tagGetBits x) = some x := tagGet_eq_some.mpr rfl

@[simp] theorem tagSet_bits (x : TagSet) : tagSet (tagSetBits x) = some x := tagSet_eq_some.mpr rfl

@[simp] theorem timeSel_bits (x : TimeSel) : timeSel (timeSelBits x) = some x := timeSel_eq_some.mpr rfl

@[simp] theorem fltRound_bits (x : FloatTy) (y : Round) : fltRound (fltRoundBits x y) = some (x, y) := fltRound_eq_some.mpr rfl

@[simp] theorem flt_bits (x : FloatTy) : flt (fltBits x) = some x := flt_eq_some.mpr rfl

@[simp] theorem fltSign_bits (x : FloatTy) (y : SignOp) : fltSign (fltSignBits x y) = some (x, y) := fltSign_eq_some.mpr rfl

@[simp] theorem tyRound_bits (x : IntTy) (y : Round) : tyRound (tyRoundBits x y) = some (x, y) := tyRound_eq_some.mpr rfl

@[simp] theorem round_bits (x : Round) : round (roundBits x) = some x := round_eq_some.mpr rfl

@[simp] theorem bit_bits (x : Bool) : bit (bitBits x) = some x := bit_eq_some.mpr rfl

@[simp] theorem dot_bits (x : Bool) (y : Bool) (z : Round) : dot (dotBits x y z) = some (x, y, z) := dot_eq_some.mpr rfl

@[simp] theorem sum_bits (x : SumMode) : sum (sumBits x) = some x := sum_eq_some.mpr rfl

@[simp] theorem laneTy_bits (x : LaneTy) : laneTy (laneTyBits x) = some x := laneTy_eq_some.mpr rfl

@[simp] theorem watch_bits (x : Bool) (y : WatchCond) : watch (watchBits x y) = some (x, y) := watch_eq_some.mpr rfl

@[simp] theorem ringOp_bits (x : RingOp) : ringOp (ringOpBits x) = some x := ringOp_eq_some.mpr rfl

@[simp] theorem chk_bits (x : ChkFlag) : chk (chkBits x) = some x := chk_eq_some.mpr rfl

@[simp] theorem csr_bits (x : CsrOp) : csr (csrBits x) = some x := csr_eq_some.mpr rfl

@[simp] theorem mma_bits (x : Bool) (y : Bool) (z : AccTy) : mma (mmaBits x y z) = some (x, y, z) := mma_eq_some.mpr rfl

/-- The pair 00 has no reading; every other pair reads as it was written. -/
theorem enPend_bits {x y : Bool} {a : Bool × Bool} (h : enPend (enPendBits x y) = some a) : (x, y) = a := by
  cases x <;> cases y <;> revert a <;> decide

@[simp] theorem spaceOrder_eq_some {os : List Order} {a : Space × Order} :
    spaceOrder os m = some a ↔ m = spaceOrderBits a.1 a.2 ∧ os.contains a.2 = true := by
  obtain ⟨x, y⟩ := a
  have hspace : Space.ofCode (hi m) = some x ↔ hi m = x.code := by
    generalize hi m = c
    cases x <;> revert c <;> decide
  have horder : Order.ofCode (lo m) = y ↔ lo m = y.code := by
    generalize lo m = c
    cases y <;> revert c <;> decide
  have hbits : m = spaceOrderBits x y ↔ hi m = x.code ∧ lo m = y.code := by
    cases x <;> cases y <;> revert m <;> decide
  rw [hbits, ← hspace, ← horder, spaceOrder]
  cases Space.ofCode (hi m) with
  | none => simp
  | some sp => by_cases hc : os.contains (Order.ofCode (lo m)) = true <;> simp <;> grind

theorem atomSpace_eq_some {os : List Order} {a : Space × Order} :
    atomSpace os m = some a ↔ spaceOrder os m = some a ∧ a.1 ≠ .ring := by
  obtain ⟨x, y⟩ := a
  unfold atomSpace
  cases hso : spaceOrder os m with
  | none => simp
  | some b => obtain ⟨sp, o⟩ := b; cases sp <;> cases x <;> simp

@[simp] theorem fenceOrder_eq_some {a : Order} : fenceOrder m = some a ↔ m = fenceOrderBits a ∧ a ≠ .plain := by
  cases a <;> revert m <;> decide

theorem spaceOrder_bits {os : List Order} {x : Space} {y : Order} {a : Space × Order}
    (h : spaceOrder os (spaceOrderBits x y) = some a) : (x, y) = a := by
  obtain ⟨hbits, -⟩ := spaceOrder_eq_some.mp h
  obtain ⟨x', y'⟩ := a
  revert hbits
  cases x <;> cases y <;> cases x' <;> cases y' <;> decide

theorem fenceOrder_bits {x a : Order} (h : fenceOrder (fenceOrderBits x) = some a) : x = a := by
  cases x <;> revert a <;> decide

end Mod

/-! The opcode maps. -/

/-- The opcode, modifier and fields of what an entry of the map builds are those it was built from. -/
theorem gParts_of_gForm {op : BitVec 7} {m : BitVec 4} {f : GForm} {mk : GNode → Instr} (hf : gForm op.toNat = some f)
    (hb : f.build m = some mk) (n : GNode) : (mk n).gParts = some (op, m, n) := by
  obtain ⟨k, hk⟩ : ∃ k, k = op.toNat := ⟨_, rfl⟩
  have hlt : k < 128 := hk ▸ op.isLt
  rw [← hk] at hf
  have hop : op = BitVec.ofNat 7 k := by simp [hk]
  subst hop
  clear hk
  interval_cases k <;> cases hf <;> simp only [Option.map_eq_some_iff] at hb <;> obtain ⟨a, ha, rfl⟩ := hb <;> simp at ha <;>
    exact congrArg some (by simp [ha])

/-- The map's entry for the opcode of a node builds that node from its modifier. -/
theorem build_of_gParts {i : Instr} {op : BitVec 7} {m : BitVec 4} {n : GNode} (h : i.gParts = some (op, m, n)) :
    ∃ f, gForm op.toNat = some f ∧ ∀ mk, f.build m = some mk → mk n = i := by
  cases i <;> simp only [Instr.gParts, reduceCtorEq, Option.some.injEq, Prod.mk.injEq] at h <;> obtain ⟨rfl, rfl, rfl⟩ := h <;>
    refine ⟨_, rfl, fun mk hb => ?_⟩ <;> simp only [Option.map_eq_some_iff] at hb <;> obtain ⟨a, ha, rfl⟩ := hb
  case hset | hclr => cases Mod.enPend_bits ha; rfl
  all_goals simp at ha; subst_vars; rfl

/-! Targets and words. -/

open BitVec (extractLsb'_append_eq_of_le extractLsb'_append_eq_right extractLsb'_eq_self getLsbD_append)

theorem Target.code_of_ofCode {c : BitVec 9} {t : Target} (h : Target.ofCode c = some t) : t.code = c := by
  have key : ∀ c : BitVec 9, (Target.ofCode c).all (fun t => t.code == c) = true := by decide
  simpa [h] using key c

theorem Target.fits_of_ofCode {c : BitVec 9} {t : Target} (h : Target.ofCode c = some t) : t.fits = true := by
  simp [Target.fits, Target.code_of_ofCode h, h]

@[simp] theorem AtomOp.ofCode_eq_some {c : BitVec 9} {a : AtomOp} : AtomOp.ofCode c = some a ↔ c = a.code := by
  constructor
  · intro h
    unfold AtomOp.ofCode at h
    split at h <;> cases h
    all_goals exact BitVec.eq_of_toNat_eq (by assumption)
  · rintro rfl
    cases a <;> rfl

@[simp] theorem Access.ofCode_code (w : Access) : Access.ofCode w.code = w := by cases w <;> rfl

theorem Shape.find_code {l : List Shape} {w : Shape} (h : l.contains w = true) : l.find? (fun s => s.code == w.code) = some w := by
  have inj : ∀ s : Shape, (s.code == w.code) = (s == w) := by intro s; cases s <;> cases w <;> rfl
  simp only [inj]
  cases hf : l.find? (· == w) with
  | none => exact absurd (List.contains_iff_mem.mp h) (by simpa using List.find?_eq_none.mp hf w)
  | some s => simpa using List.find?_some hf

section gWord
variable (op : BitVec 7) (w : BitVec 2) (e : Bool) (m : BitVec 4) (t0 t1 : BitVec 9)

@[simp] theorem gWord_op : (gWord op w e m t0 t1).extractLsb' 25 7 = op := by
  simp (disch := decide) only [gWord, extractLsb'_append_eq_of_le, extractLsb'_eq_self, Nat.reduceSub]

@[simp] theorem gWord_w : (gWord op w e m t0 t1).extractLsb' 23 2 = w := by
  simp (disch := decide) only [gWord, extractLsb'_append_eq_of_le, extractLsb'_append_eq_right, Nat.reduceSub]

@[simp] theorem gWord_m : (gWord op w e m t0 t1).extractLsb' 18 4 = m := by
  simp (disch := decide) only [gWord, extractLsb'_append_eq_of_le, extractLsb'_append_eq_right, Nat.reduceSub]

@[simp] theorem gWord_t0 : (gWord op w e m t0 t1).extractLsb' 9 9 = t0 := by
  simp (disch := decide) only [gWord, extractLsb'_append_eq_of_le, extractLsb'_append_eq_right, Nat.reduceSub]

@[simp] theorem gWord_t1 : (gWord op w e m t0 t1).extractLsb' 0 9 = t1 := by
  simp (disch := decide) only [gWord, extractLsb'_append_eq_right]

@[simp] theorem gWord_ext : (gWord op w e m t0 t1)[22] = e := by
  rw [← BitVec.getLsbD_eq_getElem]
  simp (disch := decide) only [gWord, getLsbD_append, Nat.reduceSub]
  simp

@[simp] theorem bits_gWord_op : bits (gWord op w e m t0 t1) 25 7 = op.toNat := by
  rw [bits, gWord_op]

theorem gWord_ne_zero {op : BitVec 7} (h : op ≠ 0) : gWord op w e m t0 t1 ≠ 0#32 := by
  intro h0
  have hop := gWord_op op w e m t0 t1
  rw [h0] at hop
  exact h (hop ▸ by decide)

end gWord

@[simp] theorem XG.ofWord_toWord (x : XG) : XG.ofWord x.toWord = x := by
  obtain ⟨sl, sr, isel, xmod, imm⟩ := x
  simp (disch := decide) only [XG.ofWord, XG.toWord, extractLsb'_append_eq_of_le, extractLsb'_append_eq_right,
    extractLsb'_eq_self, Nat.reduceSub]
  cases isel <;> rfl

@[simp] theorem XM.ofWord_toWord (x : XM) : XM.ofWord x.toWord = some x := by
  obtain ⟨sl, sr, pred, succ, scope, win, disp⟩ := x
  simp (disch := decide) only [XM.ofWord, XM.toWord, extractLsb'_append_eq_of_le, extractLsb'_append_eq_right,
    extractLsb'_eq_self, Nat.reduceSub]
  cases scope <;> rfl

@[simp] theorem XX.ofWord_toWord (x : XX) : XX.ofWord x.toWord = x := by
  simp (disch := decide) only [XX.ofWord, XX.toWord, extractLsb'_append_eq_of_le, extractLsb'_append_eq_right,
    extractLsb'_eq_self, Nat.reduceSub]

/-! The memory opcodes. -/

/-- As gParts_of_gForm, for the opcodes with an XM extension; T1 holds an operation or a target. -/
theorem mParts_of_mForm {op : BitVec 7} {m : BitVec 4} {t1 : BitVec 9} {f : MForm} {mk : MNode → Instr} (hf : mForm op.toNat = some f)
    (hb : f.build m t1 = some mk) {n : MNode} (hn : f.t1Op = false → n.t1.code = t1) :
    (mk n).gParts = none ∧ (mk n).mParts = some (op, m, t1, n) := by
  obtain ⟨k, hk⟩ : ∃ k, k = op.toNat := ⟨_, rfl⟩
  rw [← hk] at hf
  have hop : op = BitVec.ofNat 7 k := by simp [hk]
  subst hop
  clear hk
  unfold mForm at hf
  split at hf <;> cases hf
  case h_5 =>
    dsimp only at hb
    split at hb
    case h_1 sp o a ha hop =>
      cases hb
      simp only [Mod.atomSpace_eq_some, Mod.spaceOrder_eq_some, AtomOp.ofCode_eq_some] at ha hop
      exact ⟨rfl, congrArg some (by simp [ha, hop])⟩
    case h_2 => cases hb
  case h_6 =>
    dsimp only at hb
    split at hb
    case h_1 sp o a ha hop =>
      obtain ⟨-, hmk⟩ := Option.ite_none_right_eq_some.mp hb
      cases hmk
      simp only [Mod.atomSpace_eq_some, Mod.spaceOrder_eq_some, AtomOp.ofCode_eq_some] at ha hop
      exact ⟨rfl, congrArg some (by simp [ha, hop])⟩
    case h_2 => cases hb
  case h_8 =>
    obtain ⟨ha, hmk⟩ := Option.ite_none_right_eq_some.mp hb
    cases hmk
    exact ⟨rfl, congrArg some (by simp [ha, hn])⟩
  all_goals
    simp only [Option.map_eq_some_iff] at hb
    obtain ⟨a, ha, rfl⟩ := hb
    simp only [Mod.spaceOrder_eq_some, Mod.fenceOrder_eq_some] at ha
    exact ⟨rfl, congrArg some (by simp [ha, hn])⟩

/-- As build_of_gParts, for the opcodes with an XM extension. -/
theorem build_of_mParts {i : Instr} {op : BitVec 7} {m : BitVec 4} {t1 : BitVec 9} {n : MNode} (h : i.mParts = some (op, m, t1, n)) :
    ∃ f, mForm op.toNat = some f ∧ (f.t1Op = false → t1 = n.t1.code) ∧ ∀ mk, f.build m t1 = some mk → mk n = i := by
  cases i <;> simp only [Instr.mParts, reduceCtorEq, Option.some.injEq, Prod.mk.injEq] at h <;> obtain ⟨rfl, rfl, rfl, rfl⟩ := h <;>
    refine ⟨_, rfl, ?_, fun mk hb => ?_⟩
  case amo.refine_1 | red.refine_1 => exact nofun
  case amo.refine_2 =>
    dsimp only at hb
    split at hb
    case h_1 sp o a ha hop =>
      cases hb
      cases Mod.spaceOrder_bits (Mod.atomSpace_eq_some.mp ha).1
      cases hop.symm.trans (AtomOp.ofCode_eq_some.mpr rfl)
      rfl
    case h_2 => cases hb
  case red.refine_2 =>
    dsimp only at hb
    split at hb
    case h_1 sp o a ha hop =>
      obtain ⟨-, hmk⟩ := Option.ite_none_right_eq_some.mp hb
      cases hmk
      cases Mod.spaceOrder_bits (Mod.atomSpace_eq_some.mp ha).1
      cases hop.symm.trans (AtomOp.ofCode_eq_some.mpr rfl)
      rfl
    case h_2 => cases hb
  case prf.refine_2 => cases hb; rfl
  case fence.refine_2 =>
    obtain ⟨a, ha, rfl⟩ := Option.map_eq_some_iff.mp hb
    cases Mod.fenceOrder_bits ha
    rfl
  case ld.refine_2 | st.refine_2 | ldx.refine_2 | stx.refine_2 =>
    obtain ⟨a, ha, rfl⟩ := Option.map_eq_some_iff.mp hb
    cases Mod.spaceOrder_bits ha
    rfl
  all_goals exact fun _ => rfl

/-! Decoding what was encoded. -/

theorem decode_gForm {op : BitVec 7} {m : BitVec 4} {n : GNode} {f : GForm} {mk : GNode → Instr} (hf : gForm op.toNat = some f)
    (hb : f.build m = some mk) (hfits : gFits op m n = true) (rest : List Word) :
    decode (gWord op n.w.code n.xg.isSome m n.t0.code n.t1.code :: (n.xg.toList.map XG.toWord ++ rest)) = .ok (mk n, rest) := by
  have hop : op ≠ 0 := by rintro rfl; cases hf
  simp only [gFits, hf, Bool.and_eq_true, Target.fits, beq_iff_eq] at hfits
  obtain ⟨⟨⟨⟨hw, -⟩, ht⟩, h0⟩, h1⟩ := hfits
  obtain ⟨w, t0, t1, xg⟩ := n
  cases xg with
  | none => simp [decode, gWord_ne_zero w.code false m t0.code t1.code hop, hf, Shape.find_code hw, hb, ht, h0, h1]
  | some x => simp [decode, gWord_ne_zero w.code true m t0.code t1.code hop, hf, Shape.find_code hw, hb, ht, h0, h1]

theorem gForm_of_mForm {op : Nat} {f : MForm} (h : mForm op = some f) : gForm op = none := by
  unfold mForm at h
  split at h
  rotate_right
  · cases h
  all_goals rfl

theorem decode_mForm {op : BitVec 7} {m : BitVec 4} {t1 : BitVec 9} {n : MNode} {f : MForm} {mk : MNode → Instr}
    (hf : mForm op.toNat = some f) (ht1 : f.t1Op = false → t1 = n.t1.code)
    (hb : f.build m t1 = some mk) (hfits : mFits op m t1 n = true) (rest : List Word) :
    decode (gWord op n.w.code true m n.t0.code t1 :: n.xm.toWord :: rest) = .ok (mk n, rest) := by
  have hop : op ≠ 0 := by rintro rfl; cases hf
  have hg : gForm op.toNat = none := gForm_of_mForm hf
  simp only [mFits, hf, Bool.and_eq_true, Target.fits, beq_iff_eq] at hfits
  obtain ⟨⟨⟨⟨hw, -⟩, h0⟩, h1⟩, ht⟩ := hfits
  obtain ⟨w, t0, t1', xm⟩ := n
  have hne := gWord_ne_zero w.code true m t0.code t1 hop
  cases hp : f.t1Op with
  | false =>
    cases ht1 hp
    simp [decode, hne, hg, hf, hp, List.contains_iff_mem.mp hw, hb, h0, h1]
  | true =>
    have hnone : t1' = .none := by simpa [hp] using ht
    simp [decode, hne, hg, hf, hp, List.contains_iff_mem.mp hw, hb, h0, hnone]

/-- mma, the one node of its extension. -/
theorem decode_mma (x : XX) (f l : Bool) (a : AccTy) (rest : List Word) :
    decode (gWord 0x70 0 true (Mod.mmaBits f l a) 0 0 :: x.toWord :: rest) = .ok (.mma x f l a, rest) := by
  have hne := gWord_ne_zero 0#2 true (Mod.mmaBits f l a) 0#9 0#9 (op := 0x70#7) (by decide)
  have hg : gForm 112 = none := rfl
  have hm : mForm 112 = none := rfl
  simp [decode, hne, hg, hm]

theorem encode_gParts {i : Instr} {op : BitVec 7} {m : BitVec 4} {n : GNode} (h : i.gParts = some (op, m, n)) :
    encode i = gWord op n.w.code n.xg.isSome m n.t0.code n.t1.code :: n.xg.toList.map XG.toWord := by
  simp only [encode, h]
  cases n.xg <;> rfl

theorem encode_mParts {i : Instr} {op : BitVec 7} {m : BitVec 4} {t1 : BitVec 9} {n : MNode} (hg : i.gParts = none)
    (h : i.mParts = some (op, m, t1, n)) : encode i = [gWord op n.w.code true m n.t0.code t1, n.xm.toWord] := by
  simp only [encode, hg, h]

/-- Settles O1: by the kind of extension, the word's fields, the map's entry and the extension word are each read back. -/
theorem decodeEncode : Obligations.DecodeEncode := by
  intro i rest h
  unfold WellFormed at h
  split at h
  case h_1 op m n hp =>
    obtain ⟨f, hf, hmk⟩ := build_of_gParts hp
    obtain ⟨mk, hb⟩ : ∃ mk, f.build m = some mk := Option.isSome_iff_exists.mp (by simp_all [gFits])
    rw [encode_gParts hp, List.cons_append, decode_gForm hf hb h, hmk mk hb]
  case h_2 hg =>
    split at h
    case h_1 op m t1 n hp =>
      obtain ⟨f, hf, ht1, hmk⟩ := build_of_mParts hp
      obtain ⟨mk, hb⟩ : ∃ mk, f.build m t1 = some mk := Option.isSome_iff_exists.mp (by simp_all [mFits])
      rw [encode_mParts hg hp, List.cons_append, List.cons_append, List.nil_append, decode_mForm hf ht1 hb h, hmk mk hb]
    case h_2 =>
      split at h
      · exact decode_mma ..
      · cases h

/-- What the decoder checks of a node with an XG extension makes it well formed. -/
theorem wellFormed_gForm {op : BitVec 7} {wf : BitVec 2} {m : BitVec 4} {t0c t1c : BitVec 9} {f : GForm} {mk : GNode → Instr} (n : GNode)
    (hf : gForm op.toNat = some f) (hw : f.shapes.find? (fun s => s.code == wf) = some n.w) (hb : f.build m = some mk)
    (ht : ¬(!f.targets t0c t1c) = true) (h0 : Target.ofCode t0c = some n.t0) (h1 : Target.ofCode t1c = some n.t1) :
    WellFormed (mk n) = true := by
  rw [← Target.code_of_ofCode h0, ← Target.code_of_ofCode h1, Bool.not_eq_true, Bool.not_eq_false'] at ht
  simp [WellFormed, gParts_of_gForm hf hb n, gFits, hf, List.mem_of_find?_eq_some hw, hb, ht, Target.fits_of_ofCode h0,
    Target.fits_of_ofCode h1]

/-- What the decoder checks of a node with an XM extension makes it well formed. -/
theorem wellFormed_mForm {op : BitVec 7} {m : BitVec 4} {t0c t1c : BitVec 9} {f : MForm} {mk : MNode → Instr} (n : MNode)
    (hf : mForm op.toNat = some f) (hw : ¬(!f.shapes.contains n.w) = true) (hb : f.build m t1c = some mk)
    (h0 : Target.ofCode t0c = some n.t0) (h1 : (if f.t1Op = true then some Target.none else Target.ofCode t1c) = some n.t1) :
    WellFormed (mk n) = true := by
  have hparts : (mk n).gParts = none ∧ (mk n).mParts = some (op, m, t1c, n) :=
    mParts_of_mForm hf hb fun hp => Target.code_of_ofCode (by simpa [hp] using h1)
  have h1fits : n.t1.fits = true ∧ (!f.t1Op || n.t1 == .none) = true := by
    cases hp : f.t1Op with
    | false => exact ⟨Target.fits_of_ofCode (c := t1c) (by simpa [hp] using h1), rfl⟩
    | true =>
      have hnone : .none = n.t1 := by simpa [hp] using h1
      rw [← hnone]
      exact ⟨rfl, rfl⟩
  simp only [Bool.not_eq_true', Bool.not_eq_false] at hw
  simp only [WellFormed, hparts, mFits, hf, hw, hb, Target.fits_of_ofCode h0, h1fits, Option.isSome_some, Bool.and_self]

/-- Settles O2: each branch of the decoder that answers has checked what well-formedness asks. -/
theorem decodeWellFormed : Obligations.DecodeWellFormed := by
  intro ws rest i h
  cases ws with
  | nil => cases h
  | cons w ws =>
    simp only [decode] at h
    repeat' split at h
    all_goals cases h
    · next f hf _ sh hw _ mk hb ht _ _ t0 t1 h0 h1 _ _ x => exact wellFormed_gForm ⟨sh, t0, t1, some (XG.ofWord x)⟩ hf hw hb ht h0 h1
    · next f hf _ sh hw _ mk hb ht _ _ t0 t1 h0 h1 _ => exact wellFormed_gForm ⟨sh, t0, t1, none⟩ hf hw hb ht h0 h1
    · next f hf hw _ mk hb _ _ t0 t1 h0 h1 _ _ _ _ xm hx => exact wellFormed_mForm ⟨_, t0, t1, xm⟩ hf hw hb h0 h1
    · rfl

/-- Settles O3: the decoder runs on each word. -/
theorem decodeWords : Obligations.DecodeWords := by
  refine ⟨?_, ?_, ?_, ?_, ?_, ?_, ?_, ?_, ?_⟩ <;> rfl

end Sys2Proof

/-! The frame of every node (R111, R183, R224, R238): what an issue leaves alone. -/

namespace Sys2Proof.Machine

open State

section
variable {s t : State}

/-- A firing that waits has only its reason to hold; one that goes has what follows it. -/
theorem State.local_whenFree {i : Instr} {f : Firing} {k : State} (h : s.Local k) : s.Local (s.whenFree i f k) :=
  whenFree_elim (fun _ h => h) h

theorem State.local_onNode {i : Instr} {onFire : Tag → List Entry → State} {onEnd : Tag → Nat → List Entry → State}
    (hf : ∀ tag took, s.Local (onFire tag took)) (he : ∀ tag level took, s.Local (onEnd tag level took)) :
    s.Local (s.onNode i onFire onEnd) := onNode_elim (fun _ h => h) hf he

theorem State.local_atNode {i : Instr} {k : Choice → State} (hk : ∀ c, s.Local (k c)) : s.Local (s.atNode i k) :=
  atNode_elim (fun _ h => h) hk

theorem State.local_onLoose {i : Instr} {onFire : Fire → State} (hf : ∀ f, s.Local (onFire f)) : s.Local (s.onLoose i onFire) :=
  onLoose_elim (fun _ h => h) hf

theorem State.local_dispatch {c : Choice} {onFire : Tag → List Entry → State} {onEnd : Tag → Nat → List Entry → State}
    (hf : ∀ tag took, s.Local (onFire tag took)) (he : ∀ tag level took, s.Local (onEnd tag level took)) :
    s.Local (s.dispatch c onFire onEnd) := dispatch_elim (fun _ h => h) hf he

theorem State.local_dispatchIf {i : Instr} {ps : List Port} {ok : Choice → Bool} {r : Nat} {onFire : Option Nat → Tag → List Entry → State}
    {onEnd : Option Nat → Tag → Nat → List Entry → State} (hf : ∀ o tag took, s.Local (onFire o tag took))
    (he : ∀ o tag level took, s.Local (onEnd o tag level took)) : s.Local (s.dispatchIf i ps ok r onFire onEnd) := by
  unfold State.dispatchIf
  dsimp only
  split
  · exact local_dispatch (hf _) (he _)
  split
  · exact local_setStall ..
  split
  · exact local_dispatch (hf _) (he _)
  · exact local_setStall ..

theorem State.local_of_next (h : s.Local t) {u : State} (e : Host.Outcome.next t = (.next u : Answer)) : s.Local u := by
  cases e
  exact h

/-! Row 0x5. -/

theorem local_execSteer {n : GNode} {inv : Bool} (h : execSteer n inv s = .next t) : s.Local t := by
  refine local_of_next (local_onNode (fun tag took => ?_) fun tag level took => ?_) h <;>
    exact ite_elim (local_trapAt ..) (local_tryFire ..)

theorem State.local_mergeFin (i : Instr) (l r : Entry) : s.Local (s.mergeFin i l r) :=
  ite_elim (local_tryFire ..) (local_trapAt ..)

theorem local_execMerge {n : GNode} (h : execMerge n s = .next t) : s.Local t := by
  refine local_of_next (local_atNode fun _ => ?_) h
  dsimp only
  split
  · exact local_trapAt ..
  split
  · exact ite_elim (local_mergeFin ..) (local_tryFire ..)
  · exact local_tryFire ..
  · exact local_mergeFin ..
  · exact local_setStall ..

theorem State.local_carryExit (e : Entry) : s.Local (s.carryExit e) :=
  ite_elim (local_trapAt ..) ((local_modTile s _).trans (local_modNode (s.modTile s.selTile _) _))

theorem State.local_carryFire (n : GNode) (inc : Bool) : s.Local (s.carryFire n inc) := by
  unfold State.carryFire
  dsimp only
  split
  · exact ite_elim (local_trapAt ..) (local_tryFire ..)
  · exact ite_elim (local_tryFire ..) (local_trapAt ..)
  · refine ite_elim (local_setStall ..) ?_
    split
    · exact ite_elim (local_tryFire ..) (local_tryFire ..)
    · exact local_setStall ..

theorem local_execCarry {n : GNode} {inc : Bool} (h : execCarry n inc s = .next t) : s.Local t := by
  refine local_of_next (local_atNode fun _ => ?_) h
  split
  · exact local_carryExit ..
  · exact local_carryFire ..

theorem local_execGate {n : GNode} {count : Bool} (h : execGate n count s = .next t) : s.Local t :=
  local_of_next (ite_elim
    (local_atNode fun _ => local_dispatchIf (fun _ _ _ => local_tryFire ..) fun _ _ _ _ => local_tryFire ..)
    (local_onNode (fun _ _ => local_tryFire ..) fun _ _ _ => local_tryFire ..)) h

theorem local_execSink {n : GNode} (h : execSink n s = .next t) : s.Local t :=
  local_of_next (local_onNode (fun _ _ => local_tryFire ..) fun _ _ _ => local_tryFire ..) h

theorem local_execEos {n : GNode} {count : Bool} (h : execEos n count s = .next t) : s.Local t := by
  refine local_of_next (local_atNode fun _ => ?_) h
  split
  · exact local_tryFire ..
  · exact local_dispatch (fun _ _ => ite_elim (local_tryFire ..) (local_tryFire ..)) fun _ _ _ => local_tryFire ..

theorem local_execIsend {n : GNode} (h : execIsend n s = .next t) : s.Local t :=
  local_of_next (local_onNode (fun _ _ => local_tryFire ..) fun _ _ _ => local_tryFire ..) h

theorem local_execJoin {n : GNode} {flush : Bool} (h : execJoin n flush s = .next t) : s.Local t := by
  refine local_of_next (local_atNode fun _ => ?_) h
  refine ite_elim (local_dispatch (fun _ _ => .refl s) fun _ _ _ => ?_)
    (local_dispatch (fun _ _ => ite_elim (local_tryFire ..) (local_tryFire ..)) fun _ _ _ => ?_) <;>
    exact ite_elim (local_tryFire ..) (local_tryFire ..)

theorem local_execCnt {n : GNode} (h : execCnt n s = .next t) : s.Local t :=
  local_of_next (local_onNode (fun _ _ => local_tryFire ..) fun _ _ _ => local_tryFire ..) h

theorem local_execSpawn {n : GNode} {two : Bool} (h : execSpawn n two s = .next t) : s.Local t :=
  local_of_next (local_atNode fun _ => local_dispatchIf (fun _ _ _ => local_tryFire ..) fun _ _ _ _ =>
    ite_elim (local_setStall ..) (local_tryFire ..)) h

theorem local_execRet {n : GNode} (h : execRet n s = .next t) : s.Local t := by
  refine local_of_next (local_onNode (fun tag took => ?_) fun _ _ _ => local_tryFire ..) h
  dsimp only
  split
  · exact local_trapAt ..
  · exact ite_elim (local_trapAt ..) (ite_elim (local_setStall ..) (local_tryFire ..))

theorem State.local_streamPair (i : Instr) (union : Bool) (l r : Entry) : s.Local (s.streamPair i union l r) :=
  ite_elim (local_trapAt ..) (ite_elim (ite_elim (local_tryFire ..) (local_trapAt ..)) (local_tryFire ..))

theorem State.local_stream (i : Instr) (union : Bool) : s.Local (s.stream i union) := by
  refine local_atNode fun _ => ?_
  split
  · exact local_streamPair ..
  · exact local_setStall ..

theorem State.local_porterArcGrant (i : Instr) (n : GNode) (heads : List (Option Token)) : s.Local (s.porterArcGrant i n heads) := by
  unfold State.porterArcGrant
  dsimp only
  split
  · exact local_setStall ..
  · exact ite_elim (local_setStall ..) (local_tryFire ..)

theorem State.local_porterGrant (i : Instr) (n : GNode) : s.Local (s.porterGrant i n) := by
  unfold State.porterGrant
  dsimp only
  split
  · exact ite_elim (ite_elim (local_tryFire ..) (local_trapAt ..)) (local_porterArcGrant ..)
  · exact local_porterArcGrant ..

theorem local_execPorter {n : GNode} (h : execPorter n s = .next t) : s.Local t := by
  refine local_of_next (local_atNode fun _ => ?_) h
  dsimp only
  split
  · split
    · exact local_trapAt ..
    · exact ite_elim (local_porterGrant ..) (local_tryFire ..)
  · exact ite_elim (local_tryFire ..) (local_porterGrant ..)
  · exact local_porterGrant ..

theorem local_execReorder {n : GNode} (h : execReorder n s = .next t) : s.Local t := by
  refine local_of_next (local_atNode fun _ => ?_) h
  split
  · exact local_tryFire ..
  · split
    · exact ite_elim (local_tryFire ..) (ite_elim (local_trapAt ..) (local_setStall ..))
    · exact local_setStall ..

/-! Row 0x6. -/

theorem local_execTlinc {n : GNode} (h : execTlinc n s = .next t) : s.Local t :=
  local_of_next (local_onLoose fun _ => ite_elim (local_issueRelease ..) (local_noOp ..)) h

theorem local_execWtaddr {n : GNode} {glb : Bool} {c : WatchCond} (h : execWtaddr n glb c s = .next t) : s.Local t :=
  local_of_next (local_onLoose fun _ => ite_elim (local_noOp ..) (local_issueAcc ..)) h

theorem State.local_issueWait (i : Instr) (w : Shape) (kind : Fire → Kind) : s.Local (s.issueWait i w kind) :=
  local_onLoose fun _ => local_tryFire ..

theorem local_execPrf {n : MNode} (h : execPrf n s = .next t) : s.Local t :=
  local_of_next (local_onLoose fun _ => ite_elim (local_noOp ..) (local_issueAcc ..)) h

theorem State.local_issueCopy (i : Instr) (ring : Bool) : s.Local (s.issueCopy i ring) :=
  local_onLoose fun _ => ite_elim (local_noOp ..) (local_whenFree (ite_elim (local_trapSelected ..) (local_commit ..)))

theorem State.local_putToken (i : Instr) (n : GNode) (f : Fire) (p : Payload) : s.Local (s.putToken i n f p) := by
  unfold State.putToken
  dsimp only
  split
  · exact ite_elim (local_setStall ..) (local_issueAcc ..)
  · exact .refl s

theorem local_execQput {n : GNode} (h : execQput n s = .next t) : s.Local t :=
  local_of_next (local_onNode (fun _ _ => ite_elim (local_putToken ..) (local_noOp ..)) fun _ _ _ => local_putToken ..) h

/-! Row 0x7. -/

theorem local_execMma {x : XX} {first last : Bool} {acc : AccTy} (h : execMma x first last acc s = .next t) : s.Local t := by
  refine local_of_next (local_atNode fun _ => ?_) h
  dsimp only
  split
  · refine ite_elim (local_setStall ..) ?_
    split
    · exact ite_elim (local_setStall ..) (ite_elim (local_startPair ..) (local_setStall ..))
    · exact ite_elim (local_setStall ..) (ite_elim (local_setStall ..) (ite_elim (local_startPair ..) (local_setStall ..)))
  · exact local_setStall ..

theorem local_execMzero {n : GNode} (h : execMzero n s = .next t) : s.Local t :=
  local_of_next (local_onLoose fun _ => ite_elim (local_tryFire ..) (local_tryFire ..)) h

theorem local_execMdrain {n : GNode} (h : execMdrain n s = .next t) : s.Local t :=
  local_of_next (local_onNode
    (fun _ _ => ite_elim (local_setStall ..) (ite_elim (local_trapAt ..) (local_whenFree (local_commit ..))))
    fun _ _ _ => ite_elim (local_setStall ..) (local_tryFire ..)) h

theorem local_execRpush {n : GNode} (h : execRpush n s = .next t) : s.Local t := by
  refine local_of_next (local_onNode (fun _ _ => ?_) fun _ _ _ =>
    ite_elim (local_forwardEnd ..) (ite_elim (local_setStall ..) (local_trapAt ..))) h
  dsimp only
  split
  · exact local_setStall ..
  · exact ite_elim (local_setStall ..) (local_tryFire ..)

theorem local_execRingst {n : GNode} {op : RingOp} (h : execRingst n op s = .next t) : s.Local t := by
  refine local_of_next (local_onNode (fun _ _ => ?_) fun _ _ _ => local_forwardEnd ..) h
  dsimp only
  split
  · exact local_setStall ..
  · exact ite_elim (local_tryFire ..) (ite_elim (local_setStall ..)
      (local_whenFree (((Local.refl s).readsOn _ (List.range 8)).commit _ _)))

theorem local_execSpflush {n : GNode} {rm : Round} (h : execSpflush n rm s = .next t) : s.Local t :=
  local_of_next (local_onNode (fun _ _ => ite_elim (local_setStall ..) (local_tryFire ..)) fun _ _ _ =>
    ite_elim (local_setStall ..) (local_forwardEnd ..)) h

theorem local_execRaise {n : GNode} (h : execRaise n s = .next t) : s.Local t :=
  local_of_next (local_onNode (fun _ _ => ite_elim (local_tryFire ..) (ite_elim (local_tryFire ..) (local_tryFire ..)))
    fun _ _ _ => local_tryFire ..) h

theorem State.local_handlerNode (i : Instr) (n : GNode) (set en pend : Bool) : s.Local (s.handlerNode i n set en pend) :=
  local_onNode (fun _ _ => local_tryFire ..) fun _ _ _ => local_forwardEnd ..

theorem local_execTrap {n : GNode} (h : execTrap n s = .next t) : s.Local t :=
  local_of_next (local_onNode (fun _ _ => ite_elim (local_trapAt ..) (local_tryFire ..)) fun _ _ _ => local_tryFire ..) h

theorem local_execChk {n : GNode} {c : ChkFlag} (h : execChk n c s = .next t) : s.Local t :=
  local_of_next (local_onLoose fun _ => ite_elim (local_issueRelease ..) (local_tryFire ..)) h

theorem local_execCsr {n : GNode} {op : CsrOp} (h : execCsr n op s = .next t) : s.Local t :=
  local_of_next (local_onNode (fun _ _ => local_tryFire ..) fun _ _ _ => local_forwardEnd ..) h

theorem local_execBrk {n : GNode} (h : execBrk n s = .next t) : s.Local t := by
  refine local_of_next (local_onNode (fun _ _ => ?_) fun _ _ _ => local_forwardEnd ..) h
  dsimp only
  split
  · exact .refl s
  · refine ite_elim (local_whenFree ?_) (local_whenFree ?_)
    · exact (local_commit ..).trans (local_stopAt ..)
    · exact (local_commit ..).modTile _

theorem local_execHalt {n : GNode} (h : execHalt n s = .next t) : s.Local t :=
  local_of_next (local_onNode (fun _ _ => ite_elim (local_issueRelease ..) (local_tryFire ..)) fun _ _ _ => local_tryFire ..) h

/-- The compute nodes of rows 0x0 to 0x4, and rng. -/
theorem local_of_computeWith {i : Instr} {e : Tag → Tag} {f : Fire → Result} (h : .next (s.computeWith i e f) = (.next t : Answer)) :
    s.Local t := local_of_next (local_computeWith ..) h

/-- All nodes but three change their own billet, the records and the due events alone. -/
theorem local_exec {i : Instr} (hn : i.isNode = true) (h : exec i s = .next t) (hf : ∀ m o, i ≠ .fence m o) (hq : ∀ n, i ≠ .qget n)
    (hs : ∀ n, i ≠ .spacc n) : s.Local t := by
  cases i
  case steer => exact local_execSteer h
  case merge => exact local_execMerge h
  case carry => exact local_execCarry h
  case gate => exact local_execGate h
  case sink => exact local_execSink h
  case eos => exact local_execEos h
  case isend => exact local_execIsend h
  case join => exact local_execJoin h
  case cnt => exact local_execCnt h
  case spawn => exact local_execSpawn h
  case ret => exact local_execRet h
  case isect | unio => exact local_of_next (local_stream ..) h
  case porter => exact local_execPorter h
  case reorder => exact local_execReorder h
  case ld | st | amo | red => exact local_of_next (local_single ..) h
  case ldx | stx => exact local_of_next (local_lanewiseAcc ..) h
  case fence => exact absurd rfl (hf _ _)
  case tlinc => exact local_execTlinc h
  case wtaddr => exact local_execWtaddr h
  case waitq | tlwait => exact local_of_next (local_issueWait ..) h
  case prf => exact local_execPrf h
  case cpy | cpyr => exact local_of_next (local_issueCopy ..) h
  case qput => exact local_execQput h
  case qget => exact absurd rfl (hq _)
  case mma => exact local_execMma h
  case mzero => exact local_execMzero h
  case mdrain => exact local_execMdrain h
  case rpush => exact local_execRpush h
  case ringst => exact local_execRingst h
  case spacc => exact absurd rfl (hs _)
  case spflush => exact local_execSpflush h
  case raise => exact local_execRaise h
  case hset | hclr => exact local_of_next (local_handlerNode ..) h
  case trap => exact local_execTrap h
  case chk => exact local_execChk h
  case csr => exact local_execCsr h
  case brk => exact local_execBrk h
  case halt => exact local_execHalt h
  case add | sub | mul | mulh | mad | min | max | absn | and | or | xor | andn | shl | shr | rot | cmp | sel | clz | popc | bext | bins | lea
      | const | mov | sat | icvt | iota | tagget | tagset | rdtime | rdslack | fadd | fsub | fmul | ffma | fmin | fmax | fcmp | fsgn | frcpe
      | frsqe | fexp2e | flog2e | frnd | fcvt | ftoi | itof | cvtch | pack | unpack | sround | lmul | lacc | lcvt | scl | qnt | dqnt | dot
      | rsum | rmax | rmin | perm | bcast | lsh | scan | cmpx | splat | lget | lset | wcv | rng => exact local_of_computeWith h
  all_goals exact absurd hn Bool.false_ne_true

/-! The three nodes that change more. -/

theorem State.acquireCaches_sides (b : Nat) (sc : Scope) :
    ∃ u sides, (s.sel.b = b → s.Local u) ∧ s.acquireCaches b sc = { u with sides := sides } := by
  have hl : s.sel.b = b → s.Local (if sc.rank ≥ 2 then s.modBillet b fun x => { x with l1 := x.l1.dropClean } else s) := by
    rintro rfl
    exact ite_elim (local_modBillet ..) (.refl s)
  unfold State.acquireCaches
  dsimp only
  split
  · exact ⟨_, _, hl, rfl⟩
  · exact ⟨_, _, hl, rfl⟩

/-- Local but for the caches of the sides. -/
def State.LocalSides (s t : State) : Prop := ∃ u sides, s.Local u ∧ t = { u with sides := sides }

theorem State.Local.sides (h : s.Local t) : s.LocalSides t := ⟨t, t.sides, h, rfl⟩

/-- An acquiring fence drops clean lines of its side's RDC as well (R295). -/
theorem localSides_execFence {n : MNode} {o : Order} (h : execFence n o s = .next t) : s.LocalSides t := by
  obtain ⟨rfl⟩ : _ = t := Host.Outcome.next.inj h
  refine onLoose_elim (fun _ h => h.sides) fun f => ite_elim ?_ (local_setStall ..).sides
  refine ite_elim (local_noOp ..).sides (ite_elim (whenFree_elim (fun _ h => h.sides) ?_) (local_issueRelease ..).sides)
  have hcommit := local_commit s (.fence n o) { use := fun t => ((t.useAll f.took).usePlace s.sel.blk n f.tag).addPlace s.sel.blk s.sel.slot n f.tag
                                                outs := sendAll (.fence n o) f.tag.asData (.pay (if n.w = .vec then .vec (f.lanes 16 .L) else .word (f.word .L)))
                                                loose := true }
  obtain ⟨u, sides, hu, he⟩ := State.acquireCaches_sides (s := s.commit _ _) s.sel.b n.xm.scope
  exact ⟨u, sides, hcommit.trans (hu (by rw [hcommit.sel])), he⟩

theorem State.modCaravan_launches (b k : Nat) (f : Caravan → Caravan) : ∃ ls, s.modCaravan b k f = { s with launches := ls } := by
  unfold State.modCaravan
  split <;> exact ⟨_, rfl⟩

/-- Local but for the launches and the device fault log. -/
def State.LocalLaunches (s t : State) : Prop :=
  ∃ u ls log next, s.Local u ∧ t = { u with launches := ls, faultLog := log, faultLogNext := next }

theorem State.Local.launches (h : s.Local t) : s.LocalLaunches t := ⟨t, t.launches, t.faultLog, t.faultLogNext, h, rfl⟩

theorem State.localLaunches_logRecord (h : s.Local t) (f : FaultInfo) : s.LocalLaunches (t.logRecord f) :=
  ⟨t, t.launches, _, _, h, rfl⟩

theorem State.localLaunches_ueBillet (s : State) (b code addr : Nat) : s.LocalLaunches (s.ueBillet b code addr) := by
  unfold State.ueBillet
  split
  · exact localLaunches_logRecord (.refl s) _
  next p _ =>
    have hrec (f : FaultInfo) : s.Local (s.writeRecord f) := ⟨⟨_, _, _, rfl⟩, fun _ _ => rfl⟩
    exact ite_elim (localLaunches_logRecord (hrec _) _)
      ⟨{ s.writeRecord _ with due := s.due ++ [.ue p.launch b] }, _, _, _, ⟨⟨_, _, _, rfl⟩, fun _ _ => rfl⟩, rfl⟩

/-- A qget takes a token from its caravan, which its launch holds, or logs an error of the slot (R216). -/
theorem localLaunches_execQget {n : GNode} (h : execQget n s = .next t) : s.LocalLaunches t := by
  obtain ⟨rfl⟩ : _ = t := Host.Outcome.next.inj h
  refine atNode_elim (fun _ h => h.launches) fun _ => ?_
  split
  · exact (local_setStall ..).launches
  split
  · exact localLaunches_ueBillet ..
  · refine ite_elim (local_trapAt ..).launches (whenFree_elim (fun _ h => h.launches) ?_)
    obtain ⟨ls, he⟩ := State.modCaravan_launches (s := s.commit _ _) s.sel.b (n.imm % 256) _
    exact ⟨_, ls, _, _, local_commit .., he⟩

/-- Local but for the queues of the sparse accumulation units. -/
def State.LocalSparse (s t : State) : Prop := ∃ u sparse, s.Local u ∧ t = { u with sparse := sparse }

theorem State.Local.sparse (h : s.Local t) : s.LocalSparse t := ⟨t, t.sparse, h, rfl⟩

/-- A spacc joins the queue of its unit (R236). -/
theorem localSparse_execSpacc {n : GNode} (h : execSpacc n s = .next t) : s.LocalSparse t := by
  obtain ⟨rfl⟩ : _ = t := Host.Outcome.next.inj h
  refine onLoose_elim (fun _ h => h.sparse) fun f => ite_elim (local_tryFire ..).sparse (whenFree_elim (fun _ h => h.sparse) ?_)
  exact ⟨_, _, local_commit .., rfl⟩

end

/-- Settles O34: all nodes but fence, qget and spacc stay within their billet, the records and the due events; each of the three adds the
part of the machine that it is named with. -/
theorem nodeFrame : Obligations.NodeFrame := by
  intro s t i hn h
  by_cases hf : ∃ m o, i = .fence m o
  · obtain ⟨m, o, rfl⟩ := hf
    obtain ⟨u, sides, ⟨⟨bs, rs, ds, rfl⟩, hb⟩, rfl⟩ := localSides_execFence h
    exact ⟨rfl, hb, fun hne => absurd rfl (hne m o), fun _ => ⟨rfl, rfl, rfl⟩, fun _ => rfl⟩
  by_cases hq : ∃ n, i = .qget n
  · obtain ⟨n, rfl⟩ := hq
    obtain ⟨u, ls, log, next, ⟨⟨bs, rs, ds, rfl⟩, hb⟩, rfl⟩ := localLaunches_execQget h
    exact ⟨rfl, hb, fun _ => rfl, fun hne => absurd rfl (hne n), fun _ => rfl⟩
  by_cases hs : ∃ n, i = .spacc n
  · obtain ⟨n, rfl⟩ := hs
    obtain ⟨u, sparse, ⟨⟨bs, rs, ds, rfl⟩, hb⟩, rfl⟩ := localSparse_execSpacc h
    exact ⟨rfl, hb, fun _ => rfl, fun _ => ⟨rfl, rfl, rfl⟩, fun hne => absurd rfl (hne n)⟩
  · obtain ⟨⟨bs, rs, ds, rfl⟩, hb⟩ := local_exec hn h (fun m o e => hf ⟨m, o, e⟩) (fun n e => hq ⟨n, e⟩) fun n e => hs ⟨n, e⟩
    exact ⟨rfl, hb, fun _ => rfl, fun _ => ⟨rfl, rfl, rfl⟩, fun _ => rfl⟩

end Sys2Proof.Machine

/-! The step's own rules (log entry 1), and the memories at reset. -/

namespace Sys2Proof.Machine

/-- What a node's words decode to is what is fetched there. -/
theorem State.fetch_of_decode {s : State} {n : NodeAddr} {i : Instr} {ws : List Word} (h : decode (s.wordsAt n) = .ok (i, ws)) :
    s.fetch n = some i := by
  unfold State.fetch
  rw [h]

theorem runAct_issue {s : State} {n : NodeAddr} {i : Instr} (h : s.fetch n = some i) : runAct (.issue n) s = exec i { s with sel := n } := by
  simp only [runAct, h]

theorem runRow_event {s : State} {i : Instr} (h : i.isNode = false) : runRow i s = exec i s := by
  unfold runRow
  rw [h]
  rfl

theorem step_of_agenda {s : State} {a : Act} {acts : List Act} (h : s.agenda = a :: acts) : step s = runAct a { s with agenda := acts } := by
  unfold step State.nextStep
  rw [h]

theorem step_of_empty {s : State} (h : s.agenda = []) : step s = .next { s with agenda := s.plan s.nextSide } := by
  unfold step State.nextStep
  rw [h]

/-- Settles O4: the step takes the agenda's next act, and an act runs what its position decodes to, or its row. -/
theorem stepRunsDecoded : Obligations.StepRunsDecoded := by
  intro s n acts i ws
  refine ⟨fun ha hd => ?_, fun ha hi => ?_, step_of_empty⟩
  · rw [step_of_agenda ha]
    exact runAct_issue (State.fetch_of_decode hd)
  · rw [step_of_agenda ha]
    exact runRow_event hi

/-- Settles O5: both memories of the machine after reset are empty. -/
theorem resetMemoryOk : Obligations.ResetMemoryOk := ⟨rfl, rfl⟩

end Sys2Proof.Machine

/-! The compute nodes (R111 to R145, R178): one shared meaning, each with the function of its operands that its table gives. -/

namespace Sys2Proof.Machine

section compute
variable {s : State} {i : Instr} {endTag : Tag → Tag} {f : Fire → Result}

/-- A node whose meaning is the shared one of the compute nodes computes its function. -/
theorem State.computes_of_exec (hx : exec i s = .next (s.computeWith i endTag f)) : s.Computes i f := by
  intro tag took h hfree
  rw [hx, State.computeWith_matched h, State.tryFire_free hfree]

theorem State.computeWith_ended {tag : Tag} {level : Nat} {took : List Entry} (h : s.Ended i tag level took) :
    s.computeWith i endTag f = s.forwardEnd i tag (endTag tag) level took := by
  simp [State.computeWith, State.atNode_opened h.toOpened, h.fires]

/-- A compute node forwards an END under the tag that it gives it. -/
theorem State.ended_of_exec (hx : exec i s = .next (s.computeWith i endTag f)) {tag : Tag} {level : Nat} {took : List Entry}
    (h : s.Ended i tag level took) : s.Fires i (s.endFiring tag took ((tgts i).map (endOut (endTag tag) level))) := by
  intro hfree
  rw [hx, State.computeWith_ended h]
  exact congrArg _ (State.tryFire_free hfree)

theorem State.computeWith_stalled (h : s.Opened) {r : Nat} (hc : s.chosen i = .stall r) : s.computeWith i endTag f = s.setStall r := by
  simp [State.computeWith, State.atNode_opened h, hc]

theorem State.computeWith_mismatched (h : s.Opened) {tag : Tag} (hc : s.chosen i = .mismatch tag) :
    s.computeWith i endTag f = s.trapAt clsStreamMismatch tag 0 0 := by
  simp [State.computeWith, State.atNode_opened h, hc]

end compute

open State

/-- The tag with which tagset forwards an END (R124): its field is set where R is an immediate. -/
def tagsetEndTag (n : GNode) (f : TagSet) (tag : Tag) : Tag := if n.x.isel = .r then setTag f (n.x.imm.signExtend 32) tag else tag

theorem exec_tagset (n : GNode) (f : TagSet) (s : State) : exec (.tagset n f) s = .next (s.computeWith (.tagset n f) (tagsetEndTag n f)
    fun fr => { tag := (setTag f (fr.word .R) fr.tag).asData, r0 := .pay (payOf n.w (fr.lanes (laneCount n.w) .L)) }) := rfl

/-- R121: lea scales its index by a shift, which is the product with a power of two. -/
theorem shiftLeft_eq_mul_ofNat_two_pow (b : Word) (k : Nat) : b <<< k = b * BitVec.ofNat 32 (2 ^ k) := by
  have hone : (1#32) <<< k = BitVec.ofNat 32 (2 ^ k) := BitVec.eq_of_toNat_eq (by simp [Nat.shiftLeft_eq])
  rw [BitVec.shiftLeft_eq_mul_twoPow, BitVec.twoPow_eq, hone]

theorem exec_lea (n : GNode) (k : LeaScale) (s : State) : exec (.lea n k) s =
    .next (s.computeWith (.lea n k) id (wordResult n fun a b _ => a + b * BitVec.ofNat 32 (2 ^ leaShift k))) := by
  simp only [← shiftLeft_eq_mul_ofNat_two_pow]
  rfl

theorem ite_lt_eq_min (a b : Int) : (if b < a then b else a) = Min.min a b := by omega

theorem ite_lt_eq_max (a b : Int) : (if a < b then b else a) = Max.max a b := by omega

theorem exec_min (n : GNode) (ty : IntTy) (s : State) : exec (.min n ty) s =
    .next (s.computeWith (.min n ty) id (intResult n ty false fun a b _ => Min.min a b)) := by
  simp only [← ite_lt_eq_min]
  rfl

theorem exec_max (n : GNode) (ty : IntTy) (s : State) : exec (.max n ty) s =
    .next (s.computeWith (.max n ty) id (intResult n ty false fun a b _ => Max.max a b)) := by
  simp only [← ite_lt_eq_max]
  rfl

/-- Settles O7: every node of rows 0x0 and 0x1 has the compute nodes' shared meaning, with its table's function. -/
theorem integerNodesFire : Obligations.IntegerNodesFire := by
  constructor
  · intro s n ty sat neg ar right sx c k cm dst tg ts
    exact ⟨computes_of_exec rfl, computes_of_exec rfl, computes_of_exec rfl, computes_of_exec rfl, computes_of_exec rfl, 
      computes_of_exec (exec_min n ty s), computes_of_exec (exec_max n ty s), computes_of_exec rfl, computes_of_exec rfl, computes_of_exec rfl, computes_of_exec rfl, computes_of_exec rfl,
      computes_of_exec rfl, computes_of_exec rfl, computes_of_exec rfl, computes_of_exec rfl, computes_of_exec rfl, computes_of_exec rfl,
      computes_of_exec rfl, computes_of_exec rfl, computes_of_exec rfl, computes_of_exec (exec_lea n k s), computes_of_exec rfl, computes_of_exec rfl,
      computes_of_exec rfl, computes_of_exec rfl, computes_of_exec rfl, computes_of_exec rfl, computes_of_exec rfl, computes_of_exec rfl⟩
  · intro s n f
    exact ⟨computes_of_exec (exec_tagset n f s), fun _ _ _ hend => ended_of_exec (exec_tagset n f s) hend⟩

/-- Settles O8: every node of row 0x2 has the compute nodes' shared meaning, with its table's function. -/
theorem floatNodesFire : Obligations.FloatNodesFire := by
  intro s n ty ity rm c op
  exact ⟨computes_of_exec rfl, computes_of_exec rfl, computes_of_exec rfl, computes_of_exec rfl, computes_of_exec rfl, computes_of_exec rfl,
    computes_of_exec rfl, computes_of_exec rfl, computes_of_exec rfl, computes_of_exec rfl, computes_of_exec rfl, computes_of_exec rfl,
    computes_of_exec rfl, computes_of_exec rfl, computes_of_exec rfl, computes_of_exec rfl⟩

/-- Settles O9: every node of rows 0x3 and 0x4, and rng, has the compute nodes' shared meaning, with its table's function. -/
theorem narrowAndLaneNodesFire : Obligations.NarrowAndLaneNodesFire := by
  constructor
  · intro s n ty rm q sat tolns
    exact ⟨computes_of_exec rfl, computes_of_exec rfl, computes_of_exec rfl, computes_of_exec rfl, computes_of_exec rfl, computes_of_exec rfl,
      computes_of_exec rfl, computes_of_exec rfl, computes_of_exec rfl, computes_of_exec rfl, computes_of_exec rfl, computes_of_exec rfl⟩
  · intro s n m ty rot
    exact ⟨computes_of_exec rfl, computes_of_exec rfl, computes_of_exec rfl, computes_of_exec rfl, computes_of_exec rfl, computes_of_exec rfl,
      computes_of_exec rfl, computes_of_exec rfl, computes_of_exec rfl, computes_of_exec rfl, computes_of_exec rfl, computes_of_exec rfl⟩

/-- Settles O35: the three other outcomes of the firing rule in the compute nodes' shared meaning. -/
theorem computeOtherwise : Obligations.ComputeOtherwise := by
  intro s i op m n tag level r took hparts hrow hopen
  obtain ⟨endTag, f, hx, hid⟩ := exec_compute s hparts hrow
  refine ⟨fun hc => ?_, fun hc hfree => ?_, fun hop hend => ?_⟩
  · rw [hx, computeWith_stalled hopen hc]
  · rw [hx, computeWith_mismatched hopen hc, trapAt_free hfree]
  · have hfires := ended_of_exec hx hend
    rwa [hid hop] at hfires

end Sys2Proof.Machine

/-! The elements of an integer result (R113, R121): what a lane holds at each element, and the value read there. -/

namespace Sys2Proof.Machine

/-- Element e of a lane built from elements is the e-th, and no other reaches it (R51). -/
theorem laneOf_digit (w : Nat) (xs : List Nat) (e : Nat) : laneOf w xs / 2 ^ (w * e) % 2 ^ w = nthD 0 xs e % 2 ^ w := by
  induction xs generalizing e with
  | nil => simp [laneOf, nthD]
  | cons x xs ih =>
    have hpos : 0 < 2 ^ w := Nat.two_pow_pos w
    cases e with
    | zero => simp [laneOf, nthD, Nat.add_mul_mod_self_left]
    | succ e =>
      have hrest : laneOf w (x :: xs) / 2 ^ w = laneOf w xs := by
        rw [laneOf, Nat.add_mul_div_left _ _ hpos, Nat.div_eq_of_lt (Nat.mod_lt x hpos), Nat.zero_add]
      have hnext : nthD 0 (x :: xs) (e + 1) = nthD 0 xs e := by simp [nthD]
      rw [Nat.mul_succ, Nat.add_comm, Nat.pow_add, ← Nat.div_div_eq_div_mul, hrest, ih, hnext]

theorem laneOf_lt (w : Nat) (xs : List Nat) : laneOf w xs < 2 ^ (w * xs.length) := by
  induction xs with
  | nil => simp [laneOf]
  | cons x xs ih =>
    have hx : x % 2 ^ w < 2 ^ w := Nat.mod_lt x (Nat.two_pow_pos w)
    calc x % 2 ^ w + 2 ^ w * laneOf w xs < 2 ^ w * (laneOf w xs + 1) := by rw [Nat.mul_add]; omega
      _ ≤ 2 ^ w * 2 ^ (w * xs.length) := Nat.mul_le_mul_left _ ih
      _ = 2 ^ (w * (x :: xs).length) := by rw [← Nat.pow_add, List.length_cons, Nat.mul_succ, Nat.add_comm]

theorem intWidth_mul_intCount (ty : IntTy) : intWidth ty * intCount ty = 32 := by cases ty <;> rfl

theorem intWidth_pos (ty : IntTy) : 0 < intWidth ty := by cases ty <;> decide

/-- An element of a lane that was built from a function of the element's number. -/
theorem intAt_laneOf (ty : IntTy) (g : Nat → Nat) {e : Nat} (h : e < intCount ty) :
    intAt ty (BitVec.ofNat 32 (laneOf (intWidth ty) ((List.range (intCount ty)).map g))) e = intOf (intSigned ty) (intWidth ty) (g e) := by
  have hlt := laneOf_lt (intWidth ty) ((List.range (intCount ty)).map g)
  rw [List.length_map, List.length_range, intWidth_mul_intCount] at hlt
  have hnth : nthD 0 ((List.range (intCount ty)).map g) e = g e := by simp [nthD, h]
  have hdig := laneOf_digit (intWidth ty) ((List.range (intCount ty)).map g) e
  rw [hnth] at hdig
  simp only [intAt, laneElem, if_pos h, BitVec.toNat_ofNat, Nat.mod_eq_of_lt hlt, hdig, intOf, Nat.mod_mod]

/-- What an element reads as when the w low bits of an integer stand there (R48). -/
theorem intOf_intBits (signed : Bool) {w : Nat} (hw : 0 < w) (x : Int) :
    intOf signed w (intBits w x) = if signed then Int.bmod x (2 ^ w) else x % 2 ^ w := by
  obtain ⟨v, rfl⟩ : ∃ v, w = v + 1 := ⟨w - 1, by omega⟩
  have hpos : (0 : Int) < (2 ^ (v + 1) : Nat) := by exact_mod_cast Nat.two_pow_pos _
  have h0 := Int.emod_nonneg x hpos.ne'
  have h1 := Int.emod_lt_of_pos x hpos
  have hmod : ((x % (2 ^ (v + 1) : Nat)).toNat) % 2 ^ (v + 1) = (x % (2 ^ (v + 1) : Nat)).toNat := Nat.mod_eq_of_lt (by omega)
  have hhalf : 2 ^ (v + 1) = 2 * 2 ^ v := by rw [Nat.pow_succ, Nat.mul_comm]
  cases signed with
  | false =>
    simp only [intOf, intBits, hmod, Bool.false_and, Bool.false_eq_true, if_false]
    simpa using h0
  | true =>
    simp only [intOf, intBits, hmod, Bool.true_and, Nat.add_sub_cancel, decide_eq_true_eq, if_true, Int.bmod_def]
    generalize 2 ^ (v + 1) = m at *
    split <;> split <;> omega

/-- An integer within the type's range reads back. -/
theorem intOf_intBits_of_mem (ty : IntTy) {x : Int} (hlo : (intElem ty).lo ≤ x) (hhi : x ≤ (intElem ty).hi) :
    intOf (intSigned ty) (intWidth ty) (intBits (intWidth ty) x) = x := by
  rw [intOf_intBits _ (intWidth_pos ty)]
  cases ty <;> simp [intElem, Elem.lo, Elem.hi, intSigned, intWidth, Int.bmod_def] at * <;> omega

theorem satInt_fst {lo hi : Int} (h : lo ≤ hi) (x : Int) : (satInt lo hi x).1 = Max.max lo (Min.min hi x) := by
  unfold satInt
  split
  · dsimp only; omega
  split <;> dsimp only <;> omega

theorem Elem.lo_le_hi (ty : IntTy) : (intElem ty).lo ≤ (intElem ty).hi := by cases ty <;> decide

/-- Settles O10: the lane of a result is built from its elements' bits, and each reads back as its own exact integer, wrapped or in range. -/
theorem integerElements : Obligations.IntegerElements := by
  intro ty f a b c e he x
  have hread (sat : Bool) : intAt ty (intLane ty sat f a b c).1 e =
      intOf (intSigned ty) (intWidth ty) (intFinish ty sat x).1 := by
    simp only [intLane, List.map_map]
    exact intAt_laneOf ty (Prod.fst ∘ fun e => intFinish ty sat (f (intAt ty a e) (intAt ty b e) (intAt ty c e))) he
  constructor
  · rw [hread]
    exact intOf_intBits _ (intWidth_pos ty) x
  · have hle := Elem.lo_le_hi ty
    have hsat : (intFinish ty true x).1 = intBits (intWidth ty) (Max.max (intElem ty).lo (Min.min (intElem ty).hi x)) :=
      congrArg (intBits (intWidth ty)) (satInt_fst hle x)
    rw [hread, hsat]
    exact intOf_intBits_of_mem ty (by omega) (by omega)

end Sys2Proof.Machine

/-! Steering and filters (05 R153 to R167): PATH bits, and the nodes of row 0x5 that stand on the shared firing rule. -/

namespace Sys2Proof.Machine

/-! ### PATH bits (R44) -/

@[simp] theorem getLsbD_maskPath (p : BitVec 7) (d : BitVec 3) (i : Nat) :
    (maskPath p d).getLsbD i = (p.getLsbD i && decide (i < d.toNat)) := by
  by_cases h : i < 7
  · rw [maskPath, BitVec.getLsbD_and, BitVec.getLsbD_ofNat, Nat.testBit_two_pow_sub_one, decide_eq_true h, Bool.true_and]
  · rw [BitVec.getLsbD_of_ge _ _ (by omega), BitVec.getLsbD_of_ge p _ (by omega), Bool.false_and]

theorem Tag.legal_iff (t : Tag) : t.legal = true ↔ ∀ i, t.path.getLsbD i = true → i < t.pdep.toNat := by
  rw [Tag.legal, beq_iff_eq]
  constructor
  · intro h i hi
    have hbit := congrArg (·.getLsbD i) h
    simp only [getLsbD_maskPath, hi, Bool.true_and, decide_eq_true_eq] at hbit
    exact hbit
  · intro h
    refine BitVec.eq_of_getLsbD_eq fun i _ => ?_
    cases hb : t.path.getLsbD i <;> simp [hb, h i]

theorem toNat_succ_of_ne {d : BitVec 3} (h : d ≠ 7) : (d + 1).toNat = d.toNat + 1 ∧ d.toNat < 7 := by bv_omega

theorem Tag.append_pdep (t : Tag) (d : Bool) : (t.append d).pdep = t.pdep + 1 := rfl

/-- The bits of a PATH with one appended: the new one at PDEP, the others as they were. -/
theorem Tag.getLsbD_append {t : Tag} (h : t.pdep ≠ 7) (d : Bool) (i : Nat) :
    (t.append d).path.getLsbD i = (t.path.getLsbD i || (d && decide (i = t.pdep.toNat))) := by
  have hlt := (toNat_succ_of_ne h).2
  cases d
  · simp [Tag.append]
  · by_cases hi : i < 7
    · simp only [Tag.append, if_true, BitVec.getLsbD_or, BitVec.getLsbD_ofNat, Nat.testBit_two_pow, hi, decide_true, Bool.true_and, eq_comm]
    · rw [BitVec.getLsbD_of_ge _ _ (by omega), BitVec.getLsbD_of_ge t.path _ (by omega)]
      simp [show i ≠ t.pdep.toNat by omega]

section
variable {t : Tag} (hp : t.pdep ≠ 7) (hl : t.legal = true) (d : Bool)
include hp hl

theorem Tag.getLsbD_append_pdep : (t.append d).path.getLsbD t.pdep.toNat = d := by
  have hnone : t.path.getLsbD t.pdep.toNat = false := by
    by_contra hb
    exact absurd ((Tag.legal_iff t).mp hl _ (by simpa using hb)) (lt_irrefl _)
  simp [Tag.getLsbD_append hp, hnone]

theorem Tag.append_legal : (t.append d).legal = true := by
  rw [Tag.legal_iff, Tag.append_pdep, (toNat_succ_of_ne hp).1]
  intro i hi
  rw [Tag.getLsbD_append hp, Bool.or_eq_true, Bool.and_eq_true, decide_eq_true_eq] at hi
  rcases hi with hold | ⟨-, rfl⟩
  · exact Nat.lt_succ_of_lt ((Tag.legal_iff t).mp hl i hold)
  · exact Nat.lt_succ_self _

theorem Tag.append_lastBit : (t.append d).lastBit = d := by
  rw [Tag.lastBit, Tag.append_pdep, (toNat_succ_of_ne hp).1]
  exact Tag.getLsbD_append_pdep hp hl d

theorem Tag.append_strip : (t.append d).strip = t := by
  have hpath : maskPath (t.append d).path ((t.append d).pdep - 1) = t.path := by
    refine BitVec.eq_of_getLsbD_eq fun i _ => ?_
    rw [Tag.append_pdep, BitVec.add_sub_cancel, getLsbD_maskPath, Tag.getLsbD_append hp]
    have hbelow := (Tag.legal_iff t).mp hl i
    by_cases hi : i < t.pdep.toNat
    · simp [hi, hi.ne]
    · cases hb : t.path.getLsbD i <;> simp_all
  have hpdep : (t.append d).pdep - 1 = t.pdep := by rw [Tag.append_pdep, BitVec.add_sub_cancel]
  rw [Tag.strip, hpath, hpdep]
  rfl

end

/-! ### Firing on a condition -/

section
variable {s : State} {i : Instr}

/-- A reason that stands before the others changes nothing about a firing that has room. -/
theorem State.tryFire_free_first {f : Firing} (h : s.Free i f) (o : Option Nat) : s.tryFire i { f with first := o } = s.commit i f :=
  State.tryFire_free (f := { f with first := o }) ⟨h.room, h.idle, h.stream, h.stages⟩

/-- The reason that a choice which goes is given where the condition rules another out (R37). -/
def State.ruledOut (s : State) (i : Instr) (ps : List Port) (ok : Choice → Bool) (r : Nat) : Option Nat :=
  if !(s.tile s.selTile).isStatic s.sel.blk && ((s.tile s.selTile).taggedReady s.sel.blk s.sel.slot i ps).any fun p => !ok p.2 then some r
  else none

theorem State.ruledOut_none {ps : List Port} {ok : Choice → Bool} (h : ∀ c, ok c = true) (r : Nat) : s.ruledOut i ps ok r = none := by
  simp [State.ruledOut, h]

/-- Of the choices on a list of ports, the one that may go and fires. -/
theorem State.dispatchIf_fires {ps : List Port} {ok : Choice → Bool} {tag : Tag} {took : List Entry} (hc : s.chooseOn i ps = .fire tag took)
    (hok : ok (.fire tag took) = true) (r : Nat) (onFire : Option Nat → Tag → List Entry → State)
    (onEnd : Option Nat → Tag → Nat → List Entry → State) :
    s.dispatchIf i ps ok r onFire onEnd = onFire (s.ruledOut i ps ok r) tag took := by
  simp only [State.dispatchIf, hc, hok, if_true, State.dispatch]
  rfl

theorem State.dispatchIf_ends {ps : List Port} {ok : Choice → Bool} {tag : Tag} {level : Nat} {took : List Entry}
    (hc : s.chooseOn i ps = .fin tag level took) (hok : ok (.fin tag level took) = true) (r : Nat)
    (onFire : Option Nat → Tag → List Entry → State) (onEnd : Option Nat → Tag → Nat → List Entry → State) :
    s.dispatchIf i ps ok r onFire onEnd = onEnd (s.ruledOut i ps ok r) tag level took := by
  simp only [State.dispatchIf, hc, hok, if_true, State.dispatch]
  rfl

/-- A choice that may not go, with no other left, holds the condition's reason. -/
theorem State.dispatchIf_holds {ps : List Port} {ok : Choice → Bool} (hok : ok (s.chooseOn i ps) = false)
    (h : (s.tile s.selTile).isStatic s.sel.blk = true ∨
      pickBest (((s.tile s.selTile).taggedReady s.sel.blk s.sel.slot i ps).filter fun p => ok p.2) = none) (r : Nat)
    (onFire : Option Nat → Tag → List Entry → State) (onEnd : Option Nat → Tag → Nat → List Entry → State) :
    s.dispatchIf i ps ok r onFire onEnd = s.setStall r := by
  simp only [State.dispatchIf, hok, Bool.false_eq_true, if_false]
  split
  · rfl
  · next hs => rw [h.resolve_left hs]

end

open State

/-! ### steer, gate and isend (R153, R154, R162, R167) -/

theorem exec_steer (n : GNode) (inv : Bool) (s : State) : exec (.steer n inv) s = .next (s.onNode (.steer n inv)
    (fun tag took => if tag.pdep = 7 then s.trapAt clsPathOverflow tag 0 0
      else s.tryFire (.steer n inv) (.of took (steerOuts n (((s.fireOf (.steer n inv) tag took).word .R != 0) != inv)
        (s.passed (.steer n inv) n tag took).1 (s.passed (.steer n inv) n tag took).2)))
    (fun tag level took => if tag.pdep = 7 then s.trapAt clsPathOverflow tag 0 0
      else s.tryFire (.steer n inv) (s.endFiring tag took (steerEnds n tag level)))) := rfl

/-- Settles O11: the two handlers of a steer by PDEP, and the PATH bits of a tag one by one. -/
theorem steerFires : Obligations.SteerFires := by
  constructor
  · intro s n inv tag took level
    refine ⟨fun hp hdata hfree => ?_, fun hp hend hfree => ?_, fun hp h hopen => ?_⟩
    · rw [exec_steer, onNode_matched hdata, if_neg hp, tryFire_free hfree]
    · rw [exec_steer, onNode_ended hend, if_neg hp, tryFire_free hfree]
    · rcases h with hdata | hend
      · rw [exec_steer, onNode_matched hdata, if_pos hp, trapAt_free hopen]
      · rw [exec_steer, onNode_ended hend, if_pos hp, trapAt_free hopen]
  · intro t d hp hl
    exact ⟨rfl, Tag.getLsbD_append_pdep hp hl d, Tag.append_legal hp hl d, Tag.append_lastBit hp hl d, Tag.append_strip hp hl d⟩

theorem exec_gate_pass (n : GNode) (s : State) : exec (.gate n false) s = .next (s.onNode (.gate n false)
    (fun tag took => s.tryFire (.gate n false)
      (.of took (if (s.fireOf (.gate n false) tag took).word .R ≠ 0 then s.passAll (.gate n false) n tag took else [])))
    (fun tag level took => s.tryFire (.gate n false) (s.endFiring tag took ((tgts (.gate n false)).map (endOut tag level))))) := rfl

theorem exec_gate_count (n : GNode) (s : State) : exec (.gate n true) s = .next (s.atNode (.gate n true) fun _ =>
    s.dispatchIf (.gate n true) [.L] (mayChoose (gateFree n (s.node s.sel) != 0) true) 2
      (fun out tag took => s.tryFire (.gate n true) { (Firing.of took (s.passAll (.gate n true) n tag took)) with
        node := fun x => { x with gateTaken := x.gateTaken + 1 }, first := out })
      (fun out tag level took => s.tryFire (.gate n true)
        { s.endFiring tag took ((tgts (.gate n true)).map (endOut tag level)) with first := out })) := rfl

theorem exec_isend (n : GNode) (s : State) : exec (.isend n) s = .next (s.onNode (.isend n)
    (fun tag took => s.tryFire (.isend n)
      (.of took (outsOf (.isend n) (some (tag.asData, .word 0)) (some (s.passed (.isend n) n tag took)))))
    (fun tag level took => s.tryFire (.isend n)
      (s.endFiring tag took (outsOf (.isend n) (some (tag.asData, .word (BitVec.ofNat 32 level))) none)))) := rfl

/-- Settles O15: gate and isend on the shared firing rule; the metering gate's DATA by its free slots. -/
theorem filterNodesFire : Obligations.FilterNodesFire := by
  intro s n tag took level pass meter isend others
  refine ⟨fun hdata => fires_of_matched hdata (exec_gate_pass n s), fun hend => fires_of_ended hend (exec_gate_pass n s),
    fun hopen hc => ⟨fun hfree hroom => ?_, fun hfull h => ?_⟩, fun hopen hc hroom => ?_,
    fun hdata => fires_of_matched hdata (exec_isend n s), fun hend => fires_of_ended hend (exec_isend n s)⟩
  · rw [exec_gate_count, atNode_opened hopen, dispatchIf_fires hc (by simpa [mayChoose] using hfree)]
    exact congrArg _ (tryFire_free_first hroom _)
  · rw [exec_gate_count, atNode_opened hopen, dispatchIf_holds]
    · rw [hc]
      simp [mayChoose, hfull]
    · rw [hfull]
      exact h
  · rw [exec_gate_count, atNode_opened hopen, dispatchIf_ends hc rfl]
    exact congrArg _ (tryFire_free_first hroom _)

end Sys2Proof.Machine

/-! Merge and carry (05 R155 to R159): the token that goes, in the order in which each node looks for it. -/

namespace Sys2Proof.Machine

open State (atNode_opened tryFire_free trapAt_free mergeFin tryFire_free_first)

/-! ### merge (R155, R156) -/

section merge
variable {s : State} {n : GNode} (hopen : s.Opened)
include hopen

/-- R155: the first token at a wrong port traps. -/
theorem merge_traps {e : Entry} (h : ((s.candidates .L).filter (mergeBad .L) ++ (s.candidates .R).filter (mergeBad .R)).head? = some e) :
    s.Traps (.merge n) clsPathOverflow e.tok.tag 0 0 := by
  intro hfree
  show execMerge n s = _
  simp only [execMerge, atNode_opened hopen, h, trapAt_free hfree]

variable (hgood : (s.candidates .L).filter (mergeBad .L) ++ (s.candidates .R).filter (mergeBad .R) = [])
include hgood

/-- R155: the DATA token goes where no pair of ENDs goes before it. -/
theorem merge_sends {e : Entry} (hpick : s.mergePick = some e) (hends : ∀ p, s.mergeEnds = some p → mergeEndFirst e p.1 p.2 = false) :
    s.Fires (.merge n) { use := useOne e, outs := sendAll (.merge n) e.tok.tag.strip (.pay (shaped n.w e.tok.pay)) } := by
  intro hfree
  show execMerge n s = _
  cases he : s.mergeEnds with
  | none => simp only [execMerge, atNode_opened hopen, hgood, List.head?_nil, hpick, he, tryFire_free hfree]
  | some p =>
    simp only [execMerge, atNode_opened hopen, hgood, List.head?_nil, hpick, he, hends p he, Bool.false_eq_true, if_false, tryFire_free hfree]

/-- R156: a pair of ENDs goes where no DATA goes before it. -/
theorem exec_merge_ends {l r : Entry} (hpick : ∀ d, s.mergePick = some d → mergeEndFirst d l r = true) (hends : s.mergeEnds = some (l, r)) :
    exec (.merge n) s = .next (s.mergeFin (.merge n) l r) := by
  show execMerge n s = _
  cases hp : s.mergePick with
  | none => simp only [execMerge, atNode_opened hopen, hgood, List.head?_nil, hp, hends]
  | some d => simp only [execMerge, atNode_opened hopen, hgood, List.head?_nil, hp, hends, hpick d hp, if_true]

end merge

/-- Settles O12: merge looks for a bad token, then for the DATA token and the pair of ENDs, one of which goes before the other. -/
theorem mergeFires : Obligations.MergeFires := by
  intro s n e l r hopen i bad
  refine ⟨fun hgood hpick => merge_sends hopen hgood hpick, fun hgood hpick hends => ⟨fun heq hfree => ?_, fun hne hfree => ?_⟩, merge_traps hopen⟩
  · rw [exec_merge_ends hopen hgood hpick hends, mergeFin, if_pos heq, tryFire_free hfree]
  · rw [exec_merge_ends hopen hgood hpick hends, mergeFin, if_neg hne, trapAt_free hfree]

/-! ### carry (R157 to R159) -/

/-- A fold that keeps one of two answers one of the list. -/
theorem foldl_choice_mem {α : Type} {f : α → α → α} (hf : ∀ a x, f a x = a ∨ f a x = x) (xs : List α) (a : α) : xs.foldl f a ∈ a :: xs := by
  induction xs generalizing a with
  | nil => simp
  | cons x xs ih =>
    have hmem := ih (f a x)
    rw [List.foldl_cons]
    rcases hf a x with h | h <;> rw [h] at hmem ⊢ <;> simp only [List.mem_cons] at hmem ⊢ <;> tauto

theorem mem_of_earliest {es : List Entry} {e : Entry} (h : earliest es = some e) : e ∈ es := by
  cases es with
  | nil => simp [earliest] at h
  | cons x xs =>
    obtain rfl := Option.some.inj h
    exact foldl_choice_mem (fun a x => by split <;> simp) xs x

/-- What may go in at L (R158, R159): DATA below LIMIT, or an END into an empty cycle. -/
theorem State.carryPick_spec {s : State} {n : GNode} {es : List Entry} {e : Entry} (h : s.carryPick n es = some e) :
    e ∈ es ∧ (e.tok.isEnd = false → (s.node s.sel).carryCount < n.imm % 256) ∧
      (e.tok.isEnd = true → (s.node s.sel).carryCount = 0 ∧ s.endReady .L e = true) := by
  have hdata {d : Entry} (hd : (if (s.node s.sel).carryCount < n.imm % 256 then Machine.earliest (es.filter fun e => !e.tok.isEnd) else none) = some d) :
      d ∈ es ∧ d.tok.isEnd = false ∧ (s.node s.sel).carryCount < n.imm % 256 := by
    rw [Option.ite_none_right_eq_some] at hd
    have hmem := List.mem_filter.mp (mem_of_earliest hd.2)
    exact ⟨hmem.1, by simpa using hmem.2, hd.1⟩
  have hfin {d : Entry} (hd : (if (s.node s.sel).carryCount = 0 then Machine.earliest (es.filter fun e => e.tok.isEnd && s.endReady .L e) else none) =
      some d) : d ∈ es ∧ (d.tok.isEnd = true ∧ s.endReady .L d = true) ∧ (s.node s.sel).carryCount = 0 := by
    rw [Option.ite_none_right_eq_some] at hd
    have hmem := List.mem_filter.mp (mem_of_earliest hd.2)
    exact ⟨hmem.1, by simpa using hmem.2, hd.1⟩
  unfold State.carryPick at h
  dsimp only at h
  split at h
  · next d f hd hf =>
    obtain rfl := Option.some.inj h
    split
    · have := hfin hf
      simp_all
    · have := hdata hd
      simp_all
  · next d hd hf =>
    obtain rfl := Option.some.inj h
    have := hdata hd
    simp_all
  · have := hfin h
    simp_all

/-- The DATA token that comes back at a carry first (R158), and the END that does. -/
def State.carryBack (s : State) : Option Entry := Machine.earliest ((s.candidates .R).filter fun x => !x.tok.isEnd)
def State.carryHome (s : State) : Option Entry := ((s.candidates .R).filter fun x => x.tok.isEnd && s.endReady .R x).head?

section carry
open State (carryBack carryHome carryFire)
variable {s : State} {n : GNode} {inc : Bool} {e : Entry} (hopen : s.Opened)
include hopen

/-- R158: a token at Q goes before the others. -/
theorem exec_carry_exit (h : (s.candidates .Q).head? = some e) : exec (.carry n inc) s = .next (s.carryExit e) := by
  show execCarry n inc s = _
  simp only [execCarry, atNode_opened hopen, h]

variable (hq : (s.candidates .Q).head? = none)
include hq

theorem exec_carry : exec (.carry n inc) s = .next (s.carryFire n inc) := by
  show execCarry n inc s = _
  simp only [execCarry, atNode_opened hopen, hq]

theorem carry_feedback (hb : s.carryBack = some e) (hp : e.tok.tag.pdep ≠ 0) : s.Fires (.carry n inc)
    { use := useOne e, outs := sendAll (.carry n inc) (feedbackTag inc e.tok.tag) (.pay (shaped n.w e.tok.pay)) } := by
  intro hfree
  rw [exec_carry hopen hq]
  simp only [carryBack] at hb
  simp only [carryFire, hb, if_neg hp]
  exact congrArg _ (tryFire_free_first hfree _)

theorem carry_feedback_traps (hb : s.carryBack = some e) (hp : e.tok.tag.pdep = 0) :
    s.Traps (.carry n inc) clsPathOverflow e.tok.tag 0 0 := by
  intro hfree
  rw [exec_carry hopen hq]
  simp only [carryBack] at hb
  simp only [carryFire, hb, if_pos hp, trapAt_free hfree]

variable (hb : s.carryBack = none)
include hb

theorem carry_reopens (hh : s.carryHome = some e) (hc : (s.node s.sel).closing = true) :
    s.Fires (.carry n inc) { use := fun t => t.spendAll [e], node := fun x => { x with closing := false } } := by
  intro hfree
  rw [exec_carry hopen hq]
  simp only [carryBack] at hb
  simp only [carryHome] at hh
  simp only [carryFire, hb, hh, if_pos hc, tryFire_free hfree]

theorem carry_home_traps (hh : s.carryHome = some e) (hc : (s.node s.sel).closing = false) :
    s.Traps (.carry n inc) clsStreamMismatch e.tok.tag 0 0 := by
  intro hfree
  rw [exec_carry hopen hq]
  simp only [carryBack] at hb
  simp only [carryHome] at hh
  simp only [carryFire, hb, hh, hc, Bool.false_eq_true, if_false, trapAt_free hfree]

variable (hh : s.carryHome = none) (hc : (s.node s.sel).closing = false) (hl : s.carryPick n (s.candidates .L) = some e)
include hh hc hl

theorem carry_enters (he : e.tok.isEnd = false) : s.Fires (.carry n inc)
    { use := useOne e, outs := sendAll (.carry n inc) e.tok.tag (.pay (shaped n.w e.tok.pay)),
      node := fun x => { x with carryCount := x.carryCount + 1 } } := by
  intro hfree
  rw [exec_carry hopen hq]
  simp only [carryBack] at hb
  simp only [carryHome] at hh
  simp only [carryFire, hb, hh, hc, hl, he, Bool.false_eq_true, if_false]
  exact congrArg _ (tryFire_free_first hfree _)

theorem carry_closes (he : e.tok.isEnd = true) : s.Fires (.carry n inc)
    { s.endFiring e.tok.tag [e] ((tgts (.carry n inc)).map (endOut e.tok.tag e.tok.level)) with
      node := fun x => { x with closing := true } } := by
  intro hfree
  rw [exec_carry hopen hq]
  simp only [carryBack] at hb
  simp only [carryHome] at hh
  simp only [carryFire, hb, hh, hc, hl, he, Bool.false_eq_true, if_false, if_true]
  exact congrArg _ (tryFire_free_first hfree _)

end carry

/-- Settles O13: carry looks at Q, then for DATA at R, for an END at R, and for what may go in at L. -/
theorem carryFires : Obligations.CarryFires := by
  intro s n inc e hopen i nd back home entry atQ
  refine ⟨fun hq => ⟨fun hle hfree => ?_, fun hlt => ?_⟩, carry_feedback hopen, carry_feedback_traps hopen,
    fun hq hb hh => ⟨carry_reopens hopen hq hb hh, carry_home_traps hopen hq hb hh⟩,
    fun hq hb hh hc hl => ⟨carry_enters hopen hq hb hh hc hl, carry_closes hopen hq hb hh hc hl⟩, State.carryPick_spec⟩
  · rw [exec_carry_exit hopen hq, State.carryExit, if_pos hle, trapAt_free hfree]
  · rw [exec_carry_exit hopen hq, State.carryExit, if_neg (Nat.not_le_of_lt hlt)]

end Sys2Proof.Machine

/-! Nodes that count and nodes that call (05 R164 to R172). -/

namespace Sys2Proof.Machine

open State (onNode_matched onNode_ended atNode_opened tryFire_free trapAt_free tryFire_free_first fires_of_matched fires_of_ended
  dispatchIf_fires dispatchIf_ends dispatchIf_holds)

/-! ### cnt, join and eos (R164 to R166) -/

theorem exec_cnt (n : GNode) (s : State) : exec (.cnt n) s = .next (s.onNode (.cnt n)
    (fun tag took => s.tryFire (.cnt n) { (Firing.of took (outsOf (.cnt n) none (some (s.passed (.cnt n) n tag took)))) with
      node := fun x => { x with cntCount := x.cntCount + 1 } })
    (fun tag level took => s.tryFire (.cnt n) { s.endFiring tag took (outsOf (.cnt n) (some (tag.asData, .word (s.node s.sel).cntCount))
        (some (tag, .word (BitVec.ofNat 32 level)))) with node := fun x => { x with cntCount := 0 } })) := rfl

section
variable {s : State} {n : GNode} {flush count : Bool} {tag : Tag} {took : List Entry} {level : Nat}

/-- The firing with which a join forwards an END and starts its count anew (R165). -/
def State.joinEnd (s : State) (n : GNode) (flush : Bool) (tag : Tag) (level : Nat) (took : List Entry) : Firing :=
  { s.endFiring tag took ((tgts (.join n flush)).map (endOut tag level)) with node := fun x => { x with joinCount := 0, joinFlushed := false } }

theorem join_counts (h : s.Matched (.join n flush) tag took) (hf : (s.node s.sel).joinFlushed = false) :
    ((s.node s.sel).joinCount + 1 = n.imm % 4096 →
      s.Fires (.join n flush) { Firing.of took (sendAll (.join n flush) tag.asData (.pay (.word (s.node s.sel).joinGroup))) with
                                node := fun x => { x with joinCount := 0, joinGroup := x.joinGroup + 1 } }) ∧
    ((s.node s.sel).joinCount + 1 ≠ n.imm % 4096 →
      s.Fires (.join n flush) { Firing.of took [] with node := fun x => { x with joinCount := x.joinCount + 1 } }) := by
  constructor <;> intro hn hfree <;> show execJoin n flush s = _ <;>
    simp only [execJoin, atNode_opened h.toOpened, hf, h.fires, Bool.false_eq_true, if_false, State.dispatch]
  · rw [if_pos hn]
    exact congrArg _ (tryFire_free hfree)
  · rw [if_neg hn]
    exact congrArg _ (tryFire_free hfree)

theorem join_ends (h : s.Ended (.join n flush) tag level took) (hf : (s.node s.sel).joinFlushed = false) :
    (flush = true → (s.node s.sel).joinCount ≠ 0 →
      s.Fires (.join n flush) { outs := sendAll (.join n flush) tag.asData (.pay (.word (s.node s.sel).joinGroup)),
                                node := fun x => { x with joinFlushed := true, joinGroup := x.joinGroup + 1 } }) ∧
    (flush = false ∨ (s.node s.sel).joinCount = 0 → s.Fires (.join n flush) (s.joinEnd n flush tag level took)) := by
  refine ⟨fun hflush hc hfree => ?_, fun hnone hfree => ?_⟩ <;> show execJoin n flush s = _ <;>
    simp only [execJoin, atNode_opened h.toOpened, hf, h.fires, Bool.false_eq_true, if_false, State.dispatch]
  · rw [if_pos (by simp [hflush, hc])]
    exact congrArg _ (tryFire_free hfree)
  · rw [if_neg (by rcases hnone with h | h <;> simp [h])]
    exact congrArg _ (tryFire_free hfree)

/-- R165: once the unfinished group has been sent, the END goes. -/
theorem join_ends_flushed (hopen : s.Opened) (hf : (s.node s.sel).joinFlushed = true)
    (hc : s.onlyEnds.chooseOn (.join n flush) [.L] = .fin tag level took) : s.Fires (.join n flush) (s.joinEnd n flush tag level took) := by
  intro hfree
  show execJoin n flush s = _
  simp only [execJoin, atNode_opened hopen, hf, if_true, hc, State.dispatch, Bool.not_true, Bool.and_false, Bool.false_eq_true, if_false]
  exact congrArg _ (tryFire_free hfree)

theorem eos_replaces (h : s.Matched (.eos n false) tag took) (hp : (s.node s.sel).eosPending = none) :
    s.Fires (.eos n false) (.of took ((tgts (.eos n false)).map (endOut tag (eosLevel n)))) := by
  intro hfree
  show execEos n false s = _
  simp only [execEos, atNode_opened h.toOpened, hp, h.fires, State.dispatch, Bool.false_eq_true, if_false]
  exact congrArg _ (tryFire_free hfree)

theorem eos_counts (h : s.Matched (.eos n true) tag took) (hp : (s.node s.sel).eosPending = none) :
    s.Fires (.eos n true) { Firing.of took (s.passAll (.eos n true) n tag took) with
      node := fun x => { x with
        eosCount := (s.node s.sel).eosCount + 1
        eosPending := if (s.node s.sel).eosCount + 1 = eosEvery n then some { tag with kind := .fin, iter := tag.iter + 1 } else none } } := by
  intro hfree
  show execEos n true s = _
  simp only [execEos, atNode_opened h.toOpened, hp, h.fires, State.dispatch, if_true]
  exact congrArg _ (tryFire_free hfree)

theorem eos_sends_pending (hopen : s.Opened) (hp : (s.node s.sel).eosPending = some tag) :
    s.Fires (.eos n count) { outs := (tgts (.eos n count)).map (endOut tag (eosLevel n)),
                             node := fun x => { x with eosPending := none, eosCount := 0 } } := by
  intro hfree
  show execEos n count s = _
  simp only [execEos, atNode_opened hopen, hp, tryFire_free hfree]

theorem eos_ends (h : s.Ended (.eos n count) tag level took) (hp : (s.node s.sel).eosPending = none) :
    s.Fires (.eos n count) { s.endFiring tag took ((tgts (.eos n count)).map (endOut tag level)) with
                             node := fun x => { x with eosCount := 0 } } := by
  intro hfree
  show execEos n count s = _
  simp only [execEos, atNode_opened h.toOpened, hp, h.fires, State.dispatch]
  exact congrArg _ (tryFire_free hfree)

end

/-- Settles O16: cnt on the shared firing rule; join and eos by what they still have to send. -/
theorem countingNodesFire : Obligations.CountingNodesFire := by
  intro s n flush count tag took level
  exact ⟨fun hdata => fires_of_matched hdata (exec_cnt n s), fun hend => fires_of_ended hend (exec_cnt n s), join_counts, join_ends,
    join_ends_flushed, eos_replaces, eos_counts, eos_sends_pending, eos_ends⟩

/-! ### spawn and ret (R168 to R172) -/

section
variable {s : State} {n : GNode} {two : Bool} {tag : Tag} {took : List Entry} {level : Nat} {c : Colour}

/-- No choice of a node is left by a condition that rules out all that are ready. -/
theorem pickBest_filter_none {ps : List ((Nat × Nat) × Choice)} {ok : Choice → Bool} (h : ∀ p ∈ ps, ok p.2 = false) :
    pickBest (ps.filter fun p => ok p.2) = none := by
  rw [List.filter_eq_nil_iff.mpr fun p hp => by simp [h p hp]]
  rfl

theorem spawn_draws (h : s.Matched (.spawn n two) tag took)
    (hfree : (s.billet s.sel.b).freeColours > (s.billet s.sel.b).reservedBelow (spawnClass n)) :
    s.Fires (.spawn n two) { Firing.of took (outsOf (.spawn n two)
        (some (spawnTag (s.billet s.sel.b).lowestFree, (s.fireOf (.spawn n two) tag took).pay n.w .L))
        (if two then some (spawnTag (s.billet s.sel.b).lowestFree, (s.fireOf (.spawn n two) tag took).pay n.w .R) else none)) with
      node := fun y => { y with spawnOut := y.spawnOut + 1 }
      bill := fun y => { y with
        colours := ⟨(s.billet s.sel.b).lowestFree, tag, s.sel.t, spawnTarget n, s.sel.pos, spawnClass n, false⟩ :: y.colours } } := by
  intro hroom
  have hdraw : (s.billet s.sel.b).mayDraw (spawnClass n) = true := decide_eq_true hfree
  show execSpawn n two s = _
  simp only [execSpawn, atNode_opened h.toOpened]
  rw [dispatchIf_fires h.fires (by simpa [mayChoose] using hdraw)]
  exact congrArg _ (tryFire_free_first hroom _)

theorem spawn_holds_colour (hopen : s.Opened)
    (hok : mayChoose ((s.billet s.sel.b).mayDraw (spawnClass n)) ((s.node s.sel).spawnOut == 0) (s.chosen (.spawn n two)) = false)
    (h : (s.tile s.selTile).isStatic s.sel.blk = true ∨ ∀ p ∈ (s.tile s.selTile).taggedReady s.sel.blk s.sel.slot (.spawn n two)
      ((s.tile s.selTile).reads s.sel.blk s.sel.slot (.spawn n two)),
      mayChoose ((s.billet s.sel.b).mayDraw (spawnClass n)) ((s.node s.sel).spawnOut == 0) p.2 = false) :
    exec (.spawn n two) s = .next (s.setStall 7) := by
  show execSpawn n two s = _
  simp only [execSpawn, atNode_opened hopen]
  rw [dispatchIf_holds hok (h.imp_right pickBest_filter_none)]

/-- What an END of a spawn whose returns are all in leads to (R172). -/
theorem exec_spawn_ended (h : s.Ended (.spawn n two) tag level took) (hout : (s.node s.sel).spawnOut = 0) :
    ∃ o, exec (.spawn n two) s = .next (if (s.billet s.sel.b).retUse s.sel.t ≥ Config.returnQueue then s.setStall (Option.getD o 5)
      else s.tryFire (.spawn n two) { s.endFiring tag took [] with
        fx := .ret s.sel.t s.sel.pos (spawnTarget n) ⟨{ tag with kind := .fin }, .word (BitVec.ofNat 32 level)⟩ none, first := o }) ∧
      ((s.billet s.sel.b).mayDraw (spawnClass n) = true → o = none) := by
  have hlast : ((s.node s.sel).spawnOut == 0) = true := by simpa using hout
  refine ⟨_, congrArg _ ((atNode_opened h.toOpened _ _).trans (dispatchIf_ends h.fires hlast _ _ _)), fun hdraw => State.ruledOut_none ?_ _⟩
  intro c
  cases c <;> simp [mayChoose, hdraw, hlast]

theorem spawn_ends (h : s.Ended (.spawn n two) tag level took) (hout : (s.node s.sel).spawnOut = 0)
    (hq : (s.billet s.sel.b).retUse s.sel.t < Config.returnQueue) :
    s.Fires (.spawn n two) { s.endFiring tag took [] with
      fx := .ret s.sel.t s.sel.pos (spawnTarget n) ⟨{ tag with kind := .fin }, .word (BitVec.ofNat 32 level)⟩ none } := by
  intro hfree
  obtain ⟨o, ho, -⟩ := exec_spawn_ended h hout
  rw [ho, if_neg (by omega)]
  exact congrArg _ (tryFire_free_first hfree o)

theorem spawn_end_holds_full (h : s.Ended (.spawn n two) tag level took) (hout : (s.node s.sel).spawnOut = 0)
    (hq : Config.returnQueue ≤ (s.billet s.sel.b).retUse s.sel.t) (hdraw : (s.billet s.sel.b).mayDraw (spawnClass n) = true) :
    exec (.spawn n two) s = .next (s.setStall 5) := by
  obtain ⟨o, ho, hnone⟩ := exec_spawn_ended h hout
  rw [ho, if_pos hq, hnone hdraw]
  rfl

theorem ret_holds_full (h : s.Matched (.ret n) tag took) (hz : tag.colour ≠ 0) (hheld : (s.billet s.sel.b).held tag.colour.toNat = some c)
    (hq : Config.returnQueue ≤ (s.billet s.sel.b).retUse c.tile) : exec (.ret n) s = .next (s.setStall 5) := by
  show execRet n s = _
  simp only [execRet, onNode_matched h, hheld, if_neg hz, if_pos hq]

theorem ret_returns (h : s.Matched (.ret n) tag took) (hz : tag.colour ≠ 0) (hheld : (s.billet s.sel.b).held tag.colour.toNat = some c)
    (hq : (s.billet s.sel.b).retUse c.tile < Config.returnQueue) : s.Fires (.ret n) { Firing.of took [] with
      fx := .ret c.tile c.pos c.tgt { tag := c.caller.asData, pay := (s.fireOf (.ret n) tag took).pay n.w .L } (some c.n) } := by
  intro hfree
  show execRet n s = _
  simp only [execRet, onNode_matched h, hheld, if_neg hz, if_neg (Nat.not_le_of_lt hq)]
  exact congrArg _ (tryFire_free hfree)

theorem ret_traps (h : s.Matched (.ret n) tag took) (hf : (s.billet s.sel.b).held tag.colour.toNat = none ∨ tag.colour = 0) :
    s.Traps (.ret n) clsColourFree tag 0 0 := by
  intro hopen
  show execRet n s = _
  cases hheld : (s.billet s.sel.b).held tag.colour.toNat with
  | none => simp only [execRet, onNode_matched h, hheld, trapAt_free hopen]
  | some d => simp only [execRet, onNode_matched h, hheld, if_pos (hf.resolve_left (by simp [hheld])), trapAt_free hopen]

theorem ret_ends (h : s.Ended (.ret n) tag level took) : s.Fires (.ret n) (s.endFiring tag took []) := by
  intro hfree
  show execRet n s = _
  simp only [execRet, onNode_ended h, tryFire_free hfree]

end

/-- Settles O17: spawn by what its two conditions leave of its choices, ret by the colour of its tag. -/
theorem callNodesFire : Obligations.CallNodesFire := by
  intro s n two tag took level c x spawn ret f t alone
  refine ⟨spawn_draws, fun h hfull hal => ?_, spawn_ends, fun h hout hal => ?_, spawn_end_holds_full, ret_holds_full, ret_returns, ret_traps,
    ret_ends⟩
  · have hno : x.mayDraw (spawnClass n) = false := decide_eq_false (Nat.not_lt_of_le hfull)
    exact spawn_holds_colour h.toOpened (by rw [h.fires]; exact hno) (by rw [show (s.billet s.sel.b).mayDraw (spawnClass n) = false from hno]; exact hal)
  · have hno : ((s.node s.sel).spawnOut == 0) = false := by simpa using hout
    exact spawn_holds_colour h.toOpened (by rw [h.fires]; exact hno) (by rw [hno]; exact hal)

end Sys2Proof.Machine

/-! Sorted streams, the porter and reorder (05 R173 to R181). -/

namespace Sys2Proof.Machine

open State (atNode_opened tryFire_free trapAt_free tryFire_free_first)

/-! ### isect and unio (R173, R174) -/

/-- The segment in which a pair of heads stands, and the tag of its result (R173). -/
def State.segKey (s : State) (l : Entry) : BitVec 10 × BitVec 7 × BitVec 3 :=
  if (s.tile s.selTile).isStatic s.sel.blk then ((0 : BitVec 10), (0 : BitVec 7), (0 : BitVec 3)) else l.tok.tag.ctx

def State.segOf (s : State) (l : Entry) : Seg := (s.node s.sel).seg (s.segKey l)

section
variable {s : State} {i : Instr} {u : Bool} {l r : Entry}

/-- A coordinate that does not rise traps. -/
theorem State.streamPair_notRising (h : notRising (s.segOf l).prevL l = true ∨ notRising (s.segOf l).prevR r = true) (hopen : s.issueOpen = true) :
    s.streamPair i u l r = s.trapSelected clsStreamMismatch l.tok.tag 0 0 := by
  unfold State.streamPair
  dsimp only
  rw [if_pos (by rwa [Bool.or_eq_true]), trapAt_free hopen]

/-- Coordinates that rise at both ports (R173). -/
def State.rising (s : State) (l r : Entry) : Prop := notRising (s.segOf l).prevL l = false ∧ notRising (s.segOf l).prevR r = false

/-- The tag of the result of a pair of heads (R174): its ITER counts the segment's results. -/
def State.pairTag (s : State) (l : Entry) : Tag := { l.tok.tag with kind := .data, iter := BitVec.ofNat 16 (s.segOf l).pairs }

/-- Two ENDs close the segment (R174). -/
theorem State.streamPair_ends (h : s.rising l r) (hl : l.tok.isEnd = true) (hr : r.tok.isEnd = true) :
    s.streamPair i u l r = if l.tok.level = r.tok.level then
      s.tryFire i { use := fun t => t.spendAll [l, r], outs := (tgts i).map (endOut (s.pairTag l) l.tok.level),
                    node := fun x => x.setSeg { ctx := s.segKey l } }
      else s.trapAt clsStreamMismatch l.tok.tag 0 0 := by
  obtain ⟨hrl, hrr⟩ := h
  simp only [State.segOf, State.segKey] at hrl hrr
  simp only [State.streamPair, hrl, hrr, hl, hr, Bool.or_self, Bool.and_self, Bool.false_eq_true, if_false, if_true]
  rfl

/-- What a firing on a pair of heads that are not both ENDs takes and sends: the lower head, or both (R174). -/
def State.pairFiring (s : State) (i : Instr) (union useL useR : Bool) (l r : Entry) : Firing :=
  let emit := union || (useL && useR)
  let zero (c : Nat) : Payload := .word (BitVec.ofNat 32 (c * 65536))
  { use := fun t => t.spendAll ((if useL then [l] else []) ++ (if useR then [r] else []))
    outs := if emit then outsOf i (some (s.pairTag l, if useL then .word l.tok.pay.lane0 else zero (coordOf r)))
                          (some (s.pairTag l, if useR then .word r.tok.pay.lane0 else zero (coordOf l))) else []
    node := fun x => x.setSeg { ctx := s.segKey l, pairs := if emit then (s.segOf l).pairs + 1 else (s.segOf l).pairs,
                                prevL := advance useL (s.segOf l).prevL l, prevR := advance useR (s.segOf l).prevR r } }

theorem State.streamPair_consumes (h : s.rising l r) (hd : (l.tok.isEnd && r.tok.isEnd) = false) : s.streamPair i u l r =
    s.tryFire i (s.pairFiring i u (decide (coordOf l ≤ coordOf r)) (decide (coordOf r ≤ coordOf l)) l r) := by
  obtain ⟨hrl, hrr⟩ := h
  simp only [State.segOf, State.segKey] at hrl hrr
  simp only [State.streamPair, hrl, hrr, hd, Bool.or_self, Bool.false_eq_true, if_false]
  rfl

@[simp] theorem advance_data {prev : Option Nat} {e : Entry} (h : e.tok.isEnd = false) : advance true prev e = some (coordOf e) := by
  simp [advance, h]

@[simp] theorem advance_false (prev : Option Nat) (e : Entry) : advance false prev e = prev := rfl

theorem State.pairFiring_both (hl : l.tok.isEnd = false) (hr : r.tok.isEnd = false) : s.pairFiring i u true true l r =
    { use := fun t => t.spendAll [l, r]
      outs := outsOf i (some (s.pairTag l, .word l.tok.pay.lane0)) (some (s.pairTag l, .word r.tok.pay.lane0))
      node := fun x => x.setSeg { ctx := s.segKey l, pairs := (s.segOf l).pairs + 1, prevL := some (coordOf l), prevR := some (coordOf r) } } := by
  simp [State.pairFiring, hl, hr]

theorem State.pairFiring_left (hl : l.tok.isEnd = false) : s.pairFiring i u true false l r =
    { use := fun t => t.spendAll [l]
      outs := if u then outsOf i (some (s.pairTag l, .word l.tok.pay.lane0))
        (some (s.pairTag l, .word (BitVec.ofNat 32 (coordOf l * 65536)))) else []
      node := fun x => x.setSeg { ctx := s.segKey l, pairs := if u then (s.segOf l).pairs + 1 else (s.segOf l).pairs,
                                  prevL := some (coordOf l), prevR := (s.segOf l).prevR } } := by
  simp [State.pairFiring, hl]

theorem State.pairFiring_right (hr : r.tok.isEnd = false) : s.pairFiring i u false true l r =
    { use := fun t => t.spendAll [r]
      outs := if u then outsOf i (some (s.pairTag l, .word (BitVec.ofNat 32 (coordOf r * 65536))))
        (some (s.pairTag l, .word r.tok.pay.lane0)) else []
      node := fun x => x.setSeg { ctx := s.segKey l, pairs := if u then (s.segOf l).pairs + 1 else (s.segOf l).pairs,
                                  prevL := (s.segOf l).prevL, prevR := some (coordOf r) } } := by
  simp [State.pairFiring, hr]

/-- isect and unio are one node but for what they send where one side has no element (R174). -/
theorem exec_stream (n : GNode) (hi : i ∈ [Instr.isect n, Instr.unio n]) : ∃ u, exec i s = .next (s.stream i u) := by
  simp only [List.mem_cons, List.not_mem_nil, or_false] at hi
  rcases hi with rfl | rfl
  · exact ⟨false, rfl⟩
  · exact ⟨true, rfl⟩

theorem State.stream_heads (hopen : s.Opened) (h : bestHeads s.heads = some (l, r)) : s.stream i u = s.streamPair i u l r := by
  simp only [State.stream, atNode_opened hopen, h]

end

/-- Settles O18: the heads of one context by the order of their coordinates. -/
theorem streamNodesFire : Obligations.StreamNodesFire := by
  intro s n l r hopen hheads key g tag cl cr zero own rising
  refine ⟨fun h i hi hfree => ?_, fun h hl hr i hi => ?_, fun h hl hr heq i hi hfree => ?_, fun h hl hlt => ?_, fun h hr hlt => ?_⟩
  · obtain ⟨u, hx⟩ := exec_stream (s := s) n hi
    rw [hx, State.stream_heads hopen hheads, State.streamPair_notRising h hfree]
  · obtain ⟨u, hx⟩ := exec_stream (s := s) n hi
    constructor <;> intro hlevel hfree <;> rw [hx, State.stream_heads hopen hheads, State.streamPair_ends h hl hr]
    · rw [if_pos hlevel]
      exact congrArg _ (tryFire_free hfree)
    · rw [if_neg hlevel, trapAt_free hfree]
  · obtain ⟨u, hx⟩ := exec_stream (s := s) n hi
    rw [hx, State.stream_heads hopen hheads, State.streamPair_consumes h (by simp [hl]), decide_eq_true (Nat.le_of_eq heq),
      decide_eq_true (Nat.le_of_eq heq.symm), State.pairFiring_both hl hr]
    exact congrArg _ (tryFire_free hfree)
  · have hpair (i : Instr) (u : Bool) : s.streamPair i u l r = s.tryFire i (s.pairFiring i u true false l r) := by
      rw [State.streamPair_consumes h (by simp [hl]), decide_eq_true (Nat.le_of_lt hlt), decide_eq_false (Nat.not_le_of_lt hlt)]
    constructor <;> intro hfree
    · exact congrArg Host.Outcome.next ((State.stream_heads hopen hheads).trans ((hpair ..).trans (by
        rw [State.pairFiring_left hl]; exact tryFire_free hfree)))
    · exact congrArg Host.Outcome.next ((State.stream_heads hopen hheads).trans ((hpair ..).trans (by
        rw [State.pairFiring_left hl]; exact tryFire_free hfree)))
  · have hpair (i : Instr) (u : Bool) : s.streamPair i u l r = s.tryFire i (s.pairFiring i u false true l r) := by
      rw [State.streamPair_consumes h (by simp [hr]), decide_eq_true (Nat.le_of_lt hlt), decide_eq_false (Nat.not_le_of_lt hlt)]
    constructor <;> intro hfree
    · exact congrArg Host.Outcome.next ((State.stream_heads hopen hheads).trans ((hpair ..).trans (by
        rw [State.pairFiring_right hr]; exact tryFire_free hfree)))
    · exact congrArg Host.Outcome.next ((State.stream_heads hopen hheads).trans ((hpair ..).trans (by
        rw [State.pairFiring_right hr]; exact tryFire_free hfree)))

/-! ### The porter (R175 to R177) -/

section
variable {s : State} {n : GNode}

/-- The heads of a porter's arcs, the reply that is to go first, and the END of the replies (R176, R177). -/
def State.porterHeads (s : State) (n : GNode) : List (Option Token) := (List.range (porterArcs n)).map (s.arcHead n)
def State.porterReply (s : State) : Option Entry := Machine.earliest ((s.candidates .L).filter fun x => !x.tok.isEnd)
def State.porterFin (s : State) : Option Entry := ((s.candidates .L).filter fun x => x.tok.isEnd && s.endReady .L x).head?

/-- No reply goes: none stands at L, or its channel is OFF (R176). -/
def State.noReply (s : State) (n : GNode) (e : Entry) : Prop :=
  s.porterReply = none ∧ (s.porterFin = none ∨ (s.node s.sel).grants ≠ []) ∨
    ∃ j js d, s.porterReply = some e ∧ (s.node s.sel).grants = j :: js ∧ replyChan n j = .chan d ∧
      (s.billet s.sel.b).chanOff (s.mtCap s.sel.b) (s.now s.sel.b) s.sel.t d.toNat none = true

/-- The arc that is granted next: the first in round-robin order whose head is DATA (R176). -/
def State.nextArc (s : State) (n : GNode) : Option (Nat × Token) :=
  (arcOrder (porterArcs n) (s.node s.sel).lastArc).findSome? fun j =>
    (nthD none (s.porterHeads n) j).bind fun x => if x.isEnd then none else some (j, x)

variable (hopen : s.Opened)
include hopen

theorem exec_porter_noReply {e : Entry} (h : s.noReply n e) : exec (.porter n) s = .next (s.porterGrant (.porter n) n) := by
  show execPorter n s = _
  rcases h with ⟨hr, hf⟩ | ⟨j, js, d, hr, hg, hc, hoff⟩
  · simp only [State.porterReply] at hr
    simp only [State.porterFin] at hf
    simp only [execPorter, atNode_opened hopen, hr]
    cases hfin : ((s.candidates .L).filter fun x => x.tok.isEnd && s.endReady .L x).head? with
    | none => rfl
    | some e =>
      have hgrants := hf.resolve_left (by simp [hfin])
      simp [hgrants]
  · simp only [State.porterReply] at hr
    simp only [execPorter, atNode_opened hopen, hr, hg, hc, hoff, if_true]

theorem porter_replies {e : Entry} {a : Nat} {rest : List Nat} {c : BitVec 5} (hr : s.porterReply = some e)
    (hg : (s.node s.sel).grants = a :: rest) (hc : replyChan n a = .chan c)
    (hon : (s.billet s.sel.b).chanOff (s.mtCap s.sel.b) (s.now s.sel.b) s.sel.t c.toNat none = false) :
    s.Fires (.porter n) { use := useOne e, outs := [{ tgt := .chan c, tag := e.tok.tag, res := .pay (shaped n.w e.tok.pay) }],
                          node := fun x => { x with grants := rest } } := by
  intro hfree
  show execPorter n s = _
  simp only [State.porterReply] at hr
  simp only [execPorter, atNode_opened hopen, hr, hg, hc, hon, Bool.false_eq_true, if_false, tryFire_free hfree]

theorem porter_reply_traps {e : Entry} (hr : s.porterReply = some e) (hg : (s.node s.sel).grants = []) :
    s.Traps (.porter n) clsStreamMismatch e.tok.tag 0 0 := by
  intro hfree
  show execPorter n s = _
  simp only [State.porterReply] at hr
  simp only [execPorter, atNode_opened hopen, hr, hg, trapAt_free hfree]

theorem porter_reply_ends {e : Entry} (hr : s.porterReply = none) (hf : s.porterFin = some e) (hg : (s.node s.sel).grants = []) :
    s.Fires (.porter n)
      (s.endFiring e.tok.tag [e] ((List.range (porterArcs n)).map fun j => endOut e.tok.tag e.tok.level (replyChan n j))) := by
  intro hfree
  show execPorter n s = _
  simp only [State.porterReply] at hr
  simp only [State.porterFin] at hf
  simp only [execPorter, atNode_opened hopen, hr, hf, hg, List.isEmpty_nil, if_true, tryFire_free hfree]

omit hopen

/-- The ENDs among the heads of a porter's arcs. -/
def arcEnds (heads : List (Option Token)) : List Token := heads.filterMap fun h => h.bind fun k => if k.isEnd then some k else none

/-- An arc whose head is DATA keeps the ENDs of the others back (R177). -/
theorem arcEnds_length_ne {a : Nat} {k : Token} (h : s.nextArc n = some (a, k)) : (arcEnds (s.porterHeads n)).length ≠ porterArcs n := by
  obtain ⟨j, -, hj⟩ := List.exists_of_findSome?_eq_some h
  obtain ⟨x, hx, hxk⟩ := Option.bind_eq_some_iff.mp hj
  have hmem : some x ∈ s.porterHeads n := by
    have hget : (s.porterHeads n)[j]? = some (some x) := by
      cases hg : (s.porterHeads n)[j]? <;> simp_all [nthD]
    exact List.mem_of_getElem? hget
  have hlen : (s.porterHeads n).length = porterArcs n := by simp [State.porterHeads]
  rw [← hlen]
  intro hall
  have hsome := (List.filterMap_length_eq_length.mp hall) (some x) hmem
  cases hxe : x.isEnd <;> simp_all

/-- What becomes of a grant to an arc: FULL with 32 open, or the head of the arc goes (R176). -/
def State.grantArc (s : State) (n : GNode) (a : Nat) (k : Token) : State :=
  if (s.node s.sel).grants.length ≥ 32 then s.setStall 5
  else s.tryFire (.porter n) { use := fun t => t.popArcs n [a], outs := [{ tgt := n.t0, tag := k.tag, res := .pay (shaped n.w k.pay) }],
                               node := fun x => { x with grants := x.grants ++ [a], lastArc := a } }

theorem State.porterArcGrant_next {a : Nat} {k : Token} (h : s.nextArc n = some (a, k)) :
    s.porterArcGrant (.porter n) n (s.porterHeads n) = s.grantArc n a k := by
  simp only [State.nextArc] at h
  simp only [State.porterArcGrant, h]
  rfl

/-- A grant goes to the next arc (R176). -/
theorem State.porterGrant_arc {a : Nat} {k : Token} (h : s.nextArc n = some (a, k)) :
    s.porterGrant (.porter n) n = s.grantArc n a k := by
  have hgrant := State.porterArcGrant_next h
  have hne := arcEnds_length_ne h
  simp only [State.porterHeads] at hgrant
  simp only [arcEnds, State.porterHeads] at hne
  unfold State.porterGrant
  dsimp only
  split
  · rw [if_neg hne, hgrant]
  · exact hgrant

/-- ENDs at the head of every arc go as one, or trap (R177). -/
theorem State.porterGrant_ends {k : Token} {ks : List Token} (hheads : s.porterHeads n = (k :: ks).map some) (h : ∀ x ∈ k :: ks, x.isEnd = true) :
    s.porterGrant (.porter n) n = if ks.all fun d => d.tag.ctx == k.tag.ctx && d.level == k.level then
      s.tryFire (.porter n) { use := fun t => t.popArcs n (List.range (porterArcs n)), outs := [endOut k.tag k.level n.t0] }
    else s.trapAt clsStreamMismatch k.tag 0 0 := by
  have hends : arcEnds (s.porterHeads n) = k :: ks := by
    rw [hheads, arcEnds, List.filterMap_map]
    exact (List.filterMap_congr fun x hx => by simp [h x hx]).trans (List.filterMap_some)
  have hlen : (k :: ks).length = porterArcs n := by simpa [State.porterHeads] using (congrArg List.length hheads).symm
  simp only [arcEnds, State.porterHeads] at hends
  simp only [State.porterGrant, hends, if_pos hlen]

end

/-! ### reorder (R180, R181) -/

section
variable {s : State} {n : GNode} (hopen : s.Opened)
include hopen

theorem reorder_sends {tok : Token} (h : Tbl.get 0 (s.node s.sel).window = some tok) : s.Fires (.reorder n)
    { outs := sendAll (.reorder n) tok.tag (.pay (shaped n.w tok.pay)),
      node := fun x => { x with next := x.next + 1, window := (Tbl.del 0 x.window).map fun p => (p.1 - 1, p.2) } } := by
  intro hfree
  show execReorder n s = _
  simp only [execReorder, atNode_opened hopen, h, tryFire_free hfree]

theorem exec_reorder_end {e : Entry} (h : Tbl.get 0 (s.node s.sel).window = none)
    (hf : ((s.candidates .L).find? fun x => x.tok.isEnd) = some e) : exec (.reorder n) s = .next (s.reorderEnd (.reorder n) e) := by
  show execReorder n s = _
  simp only [execReorder, atNode_opened hopen, h, hf]

end

/-- Settles O19: a porter by its reply, its grants and the heads of its arcs; a reorder node by its window and how far an END is ahead. -/
theorem porterAndReorderFire : Obligations.PorterAndReorderFire := by
  constructor
  · intro s n a k ks e rest c hopen i heads reply fin next noReply
    refine ⟨fun hno hnext => ⟨fun hlt hfree => ?_, fun hge => ?_⟩, fun hno hheads hall => ⟨fun hsame hfree => ?_, fun hdiff hfree => ?_⟩,
      porter_replies hopen, porter_reply_traps hopen, porter_reply_ends hopen⟩
    · rw [exec_porter_noReply hopen hno, State.porterGrant_arc hnext, State.grantArc, if_neg (Nat.not_le_of_lt hlt), tryFire_free hfree]
    · rw [exec_porter_noReply hopen hno, State.porterGrant_arc hnext, State.grantArc, if_pos hge]
    · rw [exec_porter_noReply hopen hno, State.porterGrant_ends hheads hall, if_pos (by simpa using hsame)]
      exact congrArg _ (tryFire_free hfree)
    · rw [exec_porter_noReply hopen hno, State.porterGrant_ends hheads hall, if_neg (by simpa [or_iff_not_imp_left] using hdiff), trapAt_free hfree]
  · intro s n tok e hopen i nd fin
    refine ⟨reorder_sends hopen, fun hw hf => ⟨fun heq hfree => ?_, fun hne hlt hfree => ?_, fun hge => ?_⟩⟩
    · rw [exec_reorder_end hopen hw hf, State.reorderEnd, if_pos (by simp [show (s.node s.sel).next = _ from heq])]
      exact congrArg _ (tryFire_free_first hfree _)
    · have hnz : ((s.node s.sel).next - e.tok.tag.iter).toNat ≠ 0 := by
        intro h0
        exact hne (by have := BitVec.eq_of_toNat_eq (y := 0) h0; exact BitVec.sub_eq_iff_eq_add.mp this |>.trans (by simp))
      rw [exec_reorder_end hopen hw hf, State.reorderEnd, if_neg hnz, if_pos hlt, trapAt_free hfree]
    · have hnz : ((s.node s.sel).next - e.tok.tag.iter).toNat ≠ 0 := by
        have : ((s.node s.sel).next - e.tok.tag.iter).toNat ≥ 2 ^ 15 := hge
        omega
      rw [exec_reorder_end hopen hw hf, State.reorderEnd, if_neg hnz, if_neg (Nat.not_lt_of_le hge)]

end Sys2Proof.Machine

/-! Memory nodes at issue (06 R183 to R216): accesses, lanes, hints, releases, waits, copies and caravans. -/

namespace Sys2Proof.Machine

open State (atNode_opened onNode_matched onNode_ended tryFire_free trapAt_free whenFree_free issueAcc_free issueRelease_free)

/-! ### What nodes of row 0x6 share -/

section
variable {s : State} {i : Instr} {onFire : Fire → State} {tag : Tag} {took : List Entry} {level : Nat}

theorem State.onLoose_matched (h : s.Matched i tag took) : s.onLoose i onFire = onFire (s.fireOf i tag took) := onNode_matched h _ _

/-- An END of a node whose results have no fixed fc is forwarded in a free fc (R36, R186). -/
theorem State.onLoose_ends (hx : exec i s = .next (s.onLoose i onFire)) (h : s.Ended i tag level took) :
    s.Fires i (s.looseEnd i tag level took) := by
  intro hfree
  rw [hx]
  exact congrArg _ ((onNode_ended h _ _).trans (tryFire_free hfree))

theorem exec_onLoose (hx : exec i s = .next (s.onLoose i onFire)) (h : s.Matched i tag took) :
    exec i s = .next (onFire (s.fireOf i tag took)) := by
  rw [hx, State.onLoose_matched h]

theorem State.chained_open {m : MNode} {k : State} (h : (s.tile s.selTile).chainOpen s.sel.blk m tag = true) : s.chained m tag k = k := by
  rw [State.chained, if_pos h]

theorem State.chained_closed {m : MNode} {k : State} (h : (s.tile s.selTile).chainOpen s.sel.blk m tag = false) :
    s.chained m tag k = s.setStall 8 := by
  simp only [State.chained, h, Bool.false_eq_true, if_false]

/-- A firing under a false guard with room fires (R185). -/
theorem State.noOp_free {f : Fire} {m : Option MNode} {p : Option Payload} (h : s.Free i (s.noOpFiring i f m p)) :
    s.noOp i f m p = s.commit i (s.noOpFiring i f m p) := tryFire_free h

/-- An access whose address is good enters the port (R187). -/
theorem State.issueAcc_good {f : Fire} {m : Option MNode} {outs : List Out} (h : s.Free i (s.accFiring i f m outs)) (a : Acc) :
    s.issueAcc i f m outs a none = (s.commit i (s.accFiring i f m outs)).modTile s.selTile fun t => { t with port := t.port ++ [a] } :=
  issueAcc_free h a none

/-- An access whose address fails a check traps (R189). -/
theorem State.issueAcc_bad {f : Fire} {m : Option MNode} {outs : List Out} (h : s.Free i (s.accFiring i f m outs)) (a : Acc) (cls off : Nat) :
    s.issueAcc i f m outs a (some (cls, off)) = s.trapSelected cls f.tag (addrDetail 0 i.place.1) off :=
  issueAcc_free h a (some (cls, off))

end

/-! ### ld, st, amo and red (R188, R189, R191, R199, R200) -/

section
variable {s : State} {i : Instr} {n : MNode} {vec : Bool} {data : Fire → Payload} {tag : Tag} {took : List Entry}

/-- A single access that does not stand behind its chain: a no-op, or an access at its offset. -/
theorem State.single_opened (h : s.Matched i tag took) (hc : (s.tile s.selTile).chainOpen s.sel.blk n tag = true) :
    s.single i n vec data = if !s.guardTrue i (s.fireOf i tag took) then s.noOp i (s.fireOf i tag took) (some n) (some (zeroPay vec))
      else s.issueAcc i (s.fireOf i tag took) (some n) (sendAll i tag.asData (.pay (zeroPay vec)))
        (s.newAcc i (s.fireOf i tag took) [(0, effOffset n n.w.bytes ((s.fireOf i tag took).word .L))] (data (s.fireOf i tag took)))
        (s.addrBad i (effOffset n n.w.bytes ((s.fireOf i tag took).word .L))) :=
  (State.onLoose_matched h).trans (State.chained_open hc)

theorem State.single_chained (h : s.Matched i tag took) (hc : (s.tile s.selTile).chainOpen s.sel.blk n tag = false) :
    s.single i n vec data = s.setStall 8 :=
  (State.onLoose_matched h).trans (State.chained_closed hc)

theorem State.addrBad_of_place {sp : Space} (hp : i.place = (sp, n.xm.win.toNat, n.w.bytes)) (off : Nat) : s.addrBad i off =
    ((s.billet s.sel.b).addrTrap (s.mtCap s.sel.b) sp n.xm.win.toNat off n.w.bytes).map fun c => (c, off) := by
  simp only [State.addrBad, hp]

end

/-- Settles O20: the four nodes are one single access; its chain, its guard and its address decide. -/
theorem accessesIssue : Obligations.AccessesIssue := by
  intro s n sp o op tag took level i vec data hi f off fr bad
  have hshape : exec i s = .next (s.single i n vec data) ∧ i.place = (sp, n.xm.win.toNat, n.w.bytes) := by
    rcases hi with h | h | h | h <;> obtain ⟨rfl, rfl, rfl⟩ := h <;> exact ⟨rfl, rfl⟩
  obtain ⟨hx, hp⟩ := hshape
  have hbad := State.addrBad_of_place (s := s) hp off
  refine ⟨State.onLoose_ends hx, fun h => ⟨fun hc => ?_, fun hc => ⟨fun hg hfree => ?_, fun hg hgood hfree => ?_, fun cls hg htrap hfree => ?_⟩⟩⟩
  · rw [hx, State.single_chained h hc]
  · rw [hx, State.single_opened h hc, if_pos (by simpa using hg), State.noOp_free hfree]
  · rw [hx, State.single_opened h hc, if_neg (by simpa using hg), hbad, show (s.billet s.sel.b).addrTrap _ _ _ _ _ = none from hgood]
    exact congrArg _ (State.issueAcc_good hfree _)
  · rw [hx, State.single_opened h hc, if_neg (by simpa using hg), hbad, show (s.billet s.sel.b).addrTrap _ _ _ _ _ = some cls from htrap]
    exact congrArg _ ((State.issueAcc_bad hfree _ cls off).trans (by rw [hp]; rfl))

/-! ### ldx, stx, prf and wtaddr (R191, R201, R205) -/

section
variable {s : State} {i : Instr} {n : MNode} {vec : Bool} {data : Fire → Payload} {tag : Tag} {took : List Entry}

/-- The lanes that a guard enables (R191). -/
def State.lanesOn (s : State) (i : Instr) (f : Fire) : List Nat := (List.range 16).filter fun j => ((s.guardOf i f).getD 0xFFFF).getLsbD j

theorem State.lanewiseAcc_opened (h : s.Matched i tag took) (hc : (s.tile s.selTile).chainOpen s.sel.blk n tag = true) :
    s.lanewiseAcc i n vec data = if (s.lanesOn i (s.fireOf i tag took)).isEmpty then
        s.noOp i (s.fireOf i tag took) (some n) (some (zeroPay vec))
      else s.issueAcc i (s.fireOf i tag took) (some n) (sendAll i tag.asData (.pay (zeroPay vec)))
        (s.newAcc i (s.fireOf i tag took) ((s.lanesOn i (s.fireOf i tag took)).map fun j =>
          (j, effOffset n n.w.bytes (nthD 0 ((s.fireOf i tag took).lanes 16 .L) j))) (data (s.fireOf i tag took))) none :=
  (State.onLoose_matched h).trans (State.chained_open hc)

theorem State.lanewiseAcc_chained (h : s.Matched i tag took) (hc : (s.tile s.selTile).chainOpen s.sel.blk n tag = false) :
    s.lanewiseAcc i n vec data = s.setStall 8 :=
  (State.onLoose_matched h).trans (State.chained_closed hc)

end

theorem exec_prf (m : MNode) (s : State) : exec (.prf m) s = .next (s.onLoose (.prf m) fun f =>
    if !s.guardTrue (.prf m) f then s.noOp (.prf m) f none none
    else s.issueAcc (.prf m) f none [] (s.newAcc (.prf m) f [(0, effOffset m 64 (f.word .L))] (.word 0)) none) := rfl

theorem exec_wtaddr (n : GNode) (glb : Bool) (c : WatchCond) (s : State) : exec (.wtaddr n glb c) s = .next (s.onLoose (.wtaddr n glb c) fun f =>
    if !s.guardTrue (.wtaddr n glb c) f then s.noOp (.wtaddr n glb c) f none (some (.word 0))
    else s.issueAcc (.wtaddr n glb c) f none (sendAll (.wtaddr n glb c) f.tag.asData (.pay (.word 0)))
      (s.newAcc (.wtaddr n glb c) f [(0, (f.word .L).toNat)] (.word (f.word .R))) (s.addrBad (.wtaddr n glb c) (f.word .L).toNat)) := rfl

/-- Settles O21: ldx and stx are one access lane by lane; prf and wtaddr stand outside the chains, with their guard. -/
theorem laneAccessesIssue : Obligations.LaneAccessesIssue := by
  constructor
  · intro s n sp o tag took level i vec data hi f on todo
    have hx : exec i s = .next (s.lanewiseAcc i n vec data) := by
      rcases hi with h | h <;> obtain ⟨rfl, rfl, rfl⟩ := h <;> rfl
    refine ⟨State.onLoose_ends hx, fun h => ⟨fun hc => ?_, fun hc => ⟨fun hnone hfree => ?_, fun hsome hfree => ?_⟩⟩⟩
    · rw [hx, State.lanewiseAcc_chained h hc]
    · have hempty : (s.lanesOn i (s.fireOf i tag took)).isEmpty = true := List.isEmpty_iff.mpr hnone
      rw [hx, State.lanewiseAcc_opened h hc, if_pos hempty, State.noOp_free hfree]
    · have hlanes : ¬ (s.lanesOn i (s.fireOf i tag took)).isEmpty = true := fun h => hsome (List.isEmpty_iff.mp h)
      rw [hx, State.lanewiseAcc_opened h hc, if_neg hlanes]
      exact congrArg _ (State.issueAcc_good hfree _)
  · intro s m n glb c tag took level p w fp f fr
    refine ⟨State.onLoose_ends (exec_prf m s), fun h => ⟨fun hg hfree => ?_, fun hg hfree => ?_⟩, State.onLoose_ends (exec_wtaddr n glb c s),
      fun h => ⟨fun hg hfree => ?_, fun hg hgood hfree => ?_, fun cls off hg hbad hfree => ?_⟩⟩
    · rw [exec_onLoose (exec_prf m s) h, if_pos (by simpa using hg), State.noOp_free hfree]
    · rw [exec_onLoose (exec_prf m s) h, if_neg (by simpa using hg)]
      exact congrArg _ (State.issueAcc_good hfree _)
    · rw [exec_onLoose (exec_wtaddr n glb c s) h, if_pos (by simpa using hg), State.noOp_free hfree]
    · rw [exec_onLoose (exec_wtaddr n glb c s) h, if_neg (by simpa using hg), hgood]
      exact congrArg _ (State.issueAcc_good hfree _)
    · rw [exec_onLoose (exec_wtaddr n glb c s) h, if_neg (by simpa using hg), hbad]
      exact congrArg _ (State.issueAcc_bad hfree _ cls off)

/-! ### Releases and waits (R196, R197, R204, R207, R208, R243, R244) -/

section
variable {s : State} {n : GNode} {m : MNode} {o : Order} {c : ChkFlag}

/-- The payload that a fence passes on. -/
def fencePay (m : MNode) (f : Fire) : Payload := if m.w = .vec then .vec (f.lanes 16 .L) else .word (f.word .L)

/-- The firing of a fence that only acquires (R197): it performs at once in its chain. -/
def State.acquireFiring (s : State) (m : MNode) (o : Order) (f : Fire) : Firing :=
  { Firing.of f.took (sendAll (.fence m o) f.tag.asData (.pay (fencePay m f))) with
    use := fun t => ((t.useAll f.took).usePlace s.sel.blk m f.tag).addPlace s.sel.blk s.sel.slot m f.tag, loose := true }

theorem exec_fence (m : MNode) (o : Order) (s : State) : exec (.fence m o) s = .next (s.onLoose (.fence m o) fun f => s.chained m f.tag
    (if !s.guardTrue (.fence m o) f then s.noOp (.fence m o) f (some m) (some (fencePay m f))
     else if o = .acq then s.whenFree (.fence m o) (s.acquireFiring m o f)
       ((s.commit (.fence m o) (s.acquireFiring m o f)).acquireCaches s.sel.b m.xm.scope)
     else s.issueRelease (.fence m o) f (some m) m.xm.scope (fencePay m f))) := rfl

theorem exec_tlinc (n : GNode) (s : State) : exec (.tlinc n) s = .next (s.onLoose (.tlinc n) fun f =>
    if s.guardTrue (.tlinc n) f then s.issueRelease (.tlinc n) f none n.scope (.word 0)
    else s.noOp (.tlinc n) f none (some (.word (half ((s.billet s.sel.b).timeline s.sel.t (n.imm % 8)) false)))) := rfl

theorem exec_chk (n : GNode) (c : ChkFlag) (s : State) : exec (.chk n c) s = .next (s.onLoose (.chk n c) fun f =>
    if s.guardTrue (.chk n c) f then s.issueRelease (.chk n c) f none .system (.word (f.word .L))
    else s.tryFire (.chk n c) (.of f.took (sendAll (.chk n c) f.tag.asData (.pay (.word 2))))) := rfl

theorem exec_halt (n : GNode) (s : State) : exec (.halt n) s = .next (s.onNode (.halt n)
    (fun tag took => if s.guardTrue (.halt n) (s.fireOf (.halt n) tag took) then
        s.issueRelease (.halt n) (s.fireOf (.halt n) tag took) none .system (.word 0)
      else s.tryFire (.halt n) (.of took []))
    (fun tag _ took => s.tryFire (.halt n) (s.endFiring tag took []))) := rfl

end

/-- The firing that takes a wait slot (R204, R208), with the token that the slot delivers. -/
def State.waitFiring (s : State) (i : Instr) (w : Shape) (kind : Fire → Kind) (f : Fire) : Firing :=
  { use := fun t => let t := t.useAll f.took
                    { t with slots := t.slots ++ [{ id := (s.billet s.sel.b).nextId, blk := s.sel.blk, slot := s.sel.slot, instr := i,
                                                    tok := ⟨{ f.tag with kind := kind f }, f.pay w .L⟩, issue := f.now }] }
    outs := sendAll i f.tag.asData (.pay (f.pay w .L)), loose := true, hold := some (s.billet s.sel.b).nextId
    busy := decide (((s.billet s.sel.b).tile s.sel.t).slots.length ≥ Config.waitSlots)
    bill := fun y => { y with nextId := (s.billet s.sel.b).nextId + 1 } }

theorem State.issueWait_eq (s : State) (i : Instr) (w : Shape) (kind : Fire → Kind) :
    s.issueWait i w kind = s.onLoose i fun f => s.tryFire i (s.waitFiring i w kind f) := rfl

/-- The nodes whose END goes in a free fc are those on the loose firing rule. -/
theorem releases_onLoose (s : State) (m : MNode) (n : GNode) (o : Order) (c : ChkFlag) :
    ∀ i ∈ [Instr.fence m o, .tlinc n, .chk n c, .waitq n, .tlwait n], ∃ onFire, exec i s = .next (s.onLoose i onFire) := by
  intro i hi
  simp only [List.mem_cons, List.not_mem_nil, or_false] at hi
  rcases hi with rfl | rfl | rfl | rfl | rfl
  · exact ⟨_, exec_fence m o s⟩
  · exact ⟨_, exec_tlinc n s⟩
  · exact ⟨_, exec_chk n c s⟩
  · exact ⟨_, rfl⟩
  · exact ⟨_, rfl⟩

/-- Settles O22: a fence by its chain, its guard and its order; the other releases by their guard; a wait is one firing. -/
theorem releasesAndWaitsIssue : Obligations.ReleasesAndWaitsIssue := by
  constructor
  · intro s m n o c tag took level fence inc chk halt f p acq
    refine ⟨fun i hi h => ?_, fun h hfree => ?_, fun h => ⟨fun hc => ?_, fun hc => ⟨fun hg hfree => ?_, fun hg ho hfree => ?_, fun hg ho hfree => ?_⟩⟩,
      fun h => ⟨fun hg hfree => ?_, fun hg hfree => ?_⟩, fun h => ⟨fun hg hfree => ?_, fun hg hfree => ?_⟩,
      fun h => ⟨fun hg hfree => ?_, fun hg hfree => ?_⟩⟩
    · obtain ⟨onFire, hx⟩ := releases_onLoose s m n o c i hi
      exact State.onLoose_ends hx h
    · rw [exec_halt, onNode_ended h, tryFire_free hfree]
    · exact (exec_onLoose (exec_fence m o s) h).trans (congrArg _ (State.chained_closed hc))
    · refine (exec_onLoose (exec_fence m o s) h).trans (congrArg _ ((State.chained_open hc).trans ?_))
      exact (if_pos (by simpa using hg)).trans (State.noOp_free hfree)
    · refine (exec_onLoose (exec_fence m o s) h).trans (congrArg _ ((State.chained_open hc).trans ?_))
      exact (if_neg (by simpa using hg)).trans ((if_neg ho).trans (issueRelease_free hfree))
    · refine (exec_onLoose (exec_fence m o s) h).trans (congrArg _ ((State.chained_open hc).trans ?_))
      exact (if_neg (by simpa using hg)).trans ((if_pos ho).trans (whenFree_free hfree _))
    · exact (exec_onLoose (exec_tlinc n s) h).trans (congrArg _ ((if_pos hg).trans (issueRelease_free hfree)))
    · exact (exec_onLoose (exec_tlinc n s) h).trans (congrArg _ ((if_neg (by simpa using hg)).trans (State.noOp_free hfree)))
    · exact (exec_onLoose (exec_chk n c s) h).trans (congrArg _ ((if_pos hg).trans (issueRelease_free hfree)))
    · exact (exec_onLoose (exec_chk n c s) h).trans (congrArg _ ((if_neg (by simpa using hg)).trans (tryFire_free hfree)))
    · rw [exec_halt, onNode_matched h, if_pos hg, issueRelease_free hfree]
    · rw [exec_halt, onNode_matched h, if_neg (by simpa using hg), tryFire_free hfree]
  · intro s n tag took i w kind hi f x slot h hfree
    have hx : exec i s = .next (s.issueWait i w kind) := by
      rcases hi with h | h <;> obtain ⟨rfl, rfl, rfl⟩ := h <;> rfl
    rw [hx, State.issueWait_eq, State.onLoose_matched h]
    exact congrArg _ (tryFire_free hfree)

/-! ### cpy and cpyr (R210, R211, R213) -/

section
variable {s : State} {i : Instr} {ring : Bool}

/-- The ring that a copy names (R213). -/
def State.copyRing (s : State) (ring : Bool) (f : Fire) : Option Nat := if ring then (s.billet s.sel.b).ringOfDesc (f.lanes 16 .L) else none

/-- The copy context that a descriptor names. -/
def State.copyCtx (s : State) (f : Fire) : CopyCtx := nthD {} (s.billet s.sel.b).ctxs (descCtx (f.lanes 16 .L))

/-- The firing that queues a copy under the next number of its context (R211). -/
def State.copyFiring (s : State) (i : Instr) (ring : Bool) (f : Fire) : Firing :=
  { Firing.of f.took (sendAll i f.tag.asData (.pay (.word (half ((s.copyCtx f).last + 1) false)))) with
    loose := true, busy := decide ((s.billet s.sel.b).copies s.sel.t ≥ 32)
    bill := fun y => { y with ctxs := modNth (fun c =>
      { c with last := (s.copyCtx f).last + 1
               queue := c.queue ++ [{ num := (s.copyCtx f).last + 1, tile := s.sel.t, blk := s.sel.blk, slot := s.sel.slot, tag := f.tag,
                                      desc := f.lanes 16 .L, ring := s.copyRing ring f }] }) (descCtx (f.lanes 16 .L)) y.ctxs } }

theorem State.issueCopy_eq (s : State) (i : Instr) (ring : Bool) : s.issueCopy i ring = s.onLoose i fun f =>
    if !s.guardTrue i f then s.noOp i f none (some (.word (half (s.copyCtx f).last false)))
    else s.whenFree i (s.copyFiring i ring f) (if descBad (f.lanes 16 .L) ring || (ring && (s.copyRing ring f).isNone) then
      s.trapSelected clsBounds f.tag 0 0 else s.commit i (s.copyFiring i ring f)) := rfl

end

/-- Settles O23: a copy by its guard and its descriptor. -/
theorem copiesIssue : Obligations.CopiesIssue := by
  intro s n tag took level i ring hi f x d c k rg cp fr bad
  have hx : exec i s = .next (s.issueCopy i ring) := by
    rcases hi with h | h <;> obtain ⟨rfl, rfl⟩ := h <;> rfl
  rw [State.issueCopy_eq] at hx
  have hbad : (descBad d ring || (ring && rg.isNone)) = true ↔ bad := by
    simp only [bad, Bool.or_eq_true, Bool.and_eq_true, Option.isNone_iff_eq_none]
  refine ⟨State.onLoose_ends hx, fun h => ⟨fun hg hfree => ?_, fun hg hgood hfree => ?_, fun hg hb hfree => ?_⟩⟩
  · exact (exec_onLoose hx h).trans (congrArg _ ((if_pos (by simpa using hg)).trans (State.noOp_free hfree)))
  · refine (exec_onLoose hx h).trans (congrArg _ ((if_neg (by simpa using hg)).trans ((whenFree_free hfree _).trans (if_neg ?_))))
    exact fun hb => hgood (hbad.mp hb)
  · refine (exec_onLoose hx h).trans (congrArg _ ((if_neg (by simpa using hg)).trans ((whenFree_free hfree _).trans (if_pos ?_))))
    exact hbad.mpr hb

/-! ### Caravans (R215, R216) -/

section
variable {s : State} {i : Instr} {n : GNode} {l : Launch} {page : Nat} {c : Caravan}

/-- A token enters the port while its node has a credit (R216). -/
theorem State.putToken_credit (ho : s.owner s.sel.b = some (l, page)) (hc : s.caravan? s.sel.b (n.imm % 256) = some c)
    (h : (s.billet s.sel.b).creditsTaken page s.sel.t s.sel.pos c < c.slots) (f : Fire) (p : Payload) :
    s.putToken i n f p = s.issueAcc i f none [] (s.newAcc i f [] p) none := by
  simp only [State.putToken, ho, hc, if_neg (Nat.not_le_of_lt h)]

theorem State.putToken_full (ho : s.owner s.sel.b = some (l, page)) (hc : s.caravan? s.sel.b (n.imm % 256) = some c)
    (h : (s.billet s.sel.b).creditsTaken page s.sel.t s.sel.pos c ≥ c.slots) (f : Fire) (p : Payload) :
    s.putToken i n f p = s.setStall 5 := by
  simp only [State.putToken, ho, hc, if_pos h]

end

theorem exec_qput (n : GNode) (s : State) : exec (.qput n) s = .next (s.onNode (.qput n)
    (fun tag took => if s.guardTrue (.qput n) (s.fireOf (.qput n) tag took) then
        s.putToken (.qput n) n { s.fireOf (.qput n) tag took with tag := { tag with kind := (s.fireOf (.qput n) tag took).kindOf .L } }
          ((s.fireOf (.qput n) tag took).pay n.w .L)
      else s.noOp (.qput n) (s.fireOf (.qput n) tag took) none none)
    (fun tag level took =>
      s.putToken (.qput n) n (s.fireOf (.qput n) { tag with kind := .fin } took) (.word (BitVec.ofNat 32 level)))) := rfl

/-- Settles O24: qput by its guard and its credits, qget by its caravan's head slot. -/
theorem caravanNodesFire : Obligations.CaravanNodesFire := by
  intro s n tag took level l page c k tok put get f fe fr
  refine ⟨fun h hg hfree => ?_, fun ho hc => ⟨fun hcred => ⟨fun h hg hfree => ?_, fun h hfree => ?_⟩, fun hfull h hg => ?_⟩,
    fun hopen hc hhead htok => ⟨fun hshape hfree => ?_, fun hw hvec hfree => ?_⟩, fun hopen hc hnil => ?_⟩
  · rw [exec_qput, onNode_matched h, if_neg (by simpa using hg), State.noOp_free hfree]
  · rw [exec_qput, onNode_matched h, if_pos hg, State.putToken_credit ho hc hcred]
    exact congrArg _ (State.issueAcc_good hfree _)
  · rw [exec_qput, onNode_ended h, State.putToken_credit ho hc hcred]
    exact congrArg _ (State.issueAcc_good hfree _)
  · rw [exec_qput, onNode_matched h, if_pos hg, State.putToken_full ho hc hfull]
  · show execQget n s = _
    have hok : ¬ (n.w = .word ∧ tok.pay.isVec = true) := fun ⟨hw, hv⟩ => by simp [hshape hw] at hv
    simp only [execQget, atNode_opened hopen, hc, Option.bind_some, hhead, htok, if_neg hok]
    exact congrArg _ (whenFree_free hfree _)
  · show execQget n s = _
    simp only [execQget, atNode_opened hopen, hc, Option.bind_some, hhead, htok, hw, hvec, and_self, if_true, trapAt_free hfree]
  · show execQget n s = _
    simp only [execQget, atNode_opened hopen, hc, Option.bind_some, hnil, List.head?_nil]

end Sys2Proof.Machine

/-! Matrix and system nodes at issue (07 R224 to R245). -/

namespace Sys2Proof.Machine

open State (atNode_opened onNode_matched onNode_ended tryFire_free trapAt_free whenFree_free fires_of_matched fires_of_ended)

/-! ### mma (R231 to R233) -/

section
variable {s : State} {x : XX} {first last : Bool} {acc : AccTy} {ga gb : Ring} (hopen : s.Opened)
  (ha : (s.billet s.sel.b).ring? x.ra.toNat = some ga) (hb : (s.billet s.sel.b).ring? x.rb.toNat = some gb)
include hopen ha hb

theorem mma_holds_ring (h : ga.headFull = false ∨ gb.headFull = false) : exec (.mma x first last acc) s = .next (s.setStall 12) := by
  show execMma x first last acc s = _
  simp only [execMma, atNode_opened hopen, ha, hb]
  rcases h with h | h <;> simp [h]

variable (hfa : ga.headFull = true) (hfb : gb.headFull = true)
include hfa hfb

/-- An mma with full heads and no open accumulation, on the current tile of its pointer. -/
theorem exec_mma_opens (hn : (s.node s.sel).accTile = none) {free : Bool}
    (hacc : (s.tile s.selTile).accFree ((s.node s.sel).ptr.getD ((x.accPointer.head?).getD 0)) first acc = free) :
    exec (.mma x first last acc) s = .next
    (if !free then s.setStall 13
     else if (s.tile s.selTile).tileOps ≥ 16 then s.setStall 5
     else if (s.tile s.selTile).mtxFree ≤ s.now s.sel.b then s.startPair x ((s.node s.sel).ptr.getD ((x.accPointer.head?).getD 0)) ga gb
     else s.setStall 0) := by
  subst hacc
  show execMma x first last acc s = _
  simp only [State.node] at hn
  simp only [execMma, atNode_opened hopen, ha, hb, hfa, hfb, Bool.not_true, Bool.or_self, Bool.false_eq_true, if_false]
  split
  · next j hj => exact absurd (hn.symm.trans hj) (by simp)
  · rfl

/-- An mma with full heads and an open accumulation, on its tile. -/
theorem exec_mma_continues {j : Nat} (hn : (s.node s.sel).accTile = some j) : exec (.mma x first last acc) s = .next
    (if (s.node s.sel).pairs ≥ x.pairs then s.setStall 13
     else if (s.tile s.selTile).mtxFree ≤ s.now s.sel.b then s.startPair x j ga gb else s.setStall 0) := by
  show execMma x first last acc s = _
  simp only [execMma, atNode_opened hopen, ha, hb, hfa, hfb, Bool.not_true, Bool.or_self, Bool.false_eq_true, if_false]
  split
  · next k hk =>
    obtain rfl : j = k := Option.some.inj (hn.symm.trans hk)
    rfl
  · next hk => exact absurd (hn.symm.trans hk) (by simp)

end

/-- Settles O25: an mma by its rings' heads, its accumulation, its pairs and the engine. -/
theorem mmaStarts : Obligations.MmaStarts := by
  intro s x first last acc ga gb i t nd cur hopen ha hb
  refine ⟨mma_holds_ring hopen ha hb, fun hfa hfb hn => ⟨fun hno => ?_, fun hok hfull => ?_, fun hok hroom hidle => ?_, fun hok hroom hbusy => ?_⟩,
    fun j hfa hfb hn => ⟨fun hall => ?_, fun hleft hidle => ?_, fun hleft hbusy => ?_⟩⟩
  · exact (exec_mma_opens hopen ha hb hfa hfb hn hno).trans rfl
  · exact (exec_mma_opens hopen ha hb hfa hfb hn hok).trans (congrArg _ ((if_neg (by decide)).trans (if_pos hfull)))
  · exact (exec_mma_opens hopen ha hb hfa hfb hn hok).trans (congrArg _ ((if_neg (by decide)).trans
      ((if_neg (Nat.not_le_of_lt hroom)).trans (if_pos hidle))))
  · exact (exec_mma_opens hopen ha hb hfa hfb hn hok).trans (congrArg _ ((if_neg (by decide)).trans
      ((if_neg (Nat.not_le_of_lt hroom)).trans (if_neg (Nat.not_le_of_lt hbusy)))))
  · exact (exec_mma_continues hopen ha hb hfa hfb hn).trans (congrArg _ (if_pos hall))
  · exact (exec_mma_continues hopen ha hb hfa hfb hn).trans (congrArg _ ((if_neg (Nat.not_le_of_lt hleft)).trans (if_pos hidle)))
  · exact (exec_mma_continues hopen ha hb hfa hfb hn).trans (congrArg _ ((if_neg (Nat.not_le_of_lt hleft)).trans
      (if_neg (Nat.not_le_of_lt hbusy))))

/-! ### mzero and mdrain (R229, R234) -/

/-- The mzero that a firing puts among its tile's operations (R229), and its firing. -/
def State.mzeroOf (s : State) (n : GNode) (f : Fire) : MZero :=
  { id := (s.billet s.sel.b).nextId, blk := s.sel.blk, slot := s.sel.slot, tag := f.tag.asData, pay := .word (f.word .L), wait := maskBits n }

def State.mzeroFiring (s : State) (n : GNode) (f : Fire) : Firing :=
  { use := fun t => let t := t.useAll f.took; { t with mzeros := t.mzeros ++ [s.mzeroOf n f] }
    outs := sendAll (.mzero n) f.tag.asData (.pay (.word (f.word .L))), loose := true
    busy := decide (((s.billet s.sel.b).tile s.sel.t).tileOps ≥ 16)
    hold := some (s.billet s.sel.b).nextId, bill := fun y => { y with nextId := (s.billet s.sel.b).nextId + 1 } }

theorem exec_mzero (n : GNode) (s : State) : exec (.mzero n) s = .next (s.onLoose (.mzero n) fun f =>
    if !s.guardTrue (.mzero n) f then s.tryFire (.mzero n) (.of f.took (sendAll (.mzero n) f.tag.asData (.pay (.word (f.word .L)))))
    else s.tryFire (.mzero n) (s.mzeroFiring n f)) := rfl

section
variable {s : State} {n : GNode} {tag : Tag} {took : List Entry} {level : Nat}

/-- The tile that an mdrain drains next, and the firing that starts it (R234). -/
def State.drainTile (s : State) (n : GNode) : Nat := (s.node s.sel).ptr.getD (((maskBits n).head?).getD 0)

def State.drainFiring (s : State) (n : GNode) (tag : Tag) (took : List Entry) (v : Nat) : Firing :=
  { use := fun t => t.useAll took, loose := true, busy := decide ((s.tile s.selTile).tileOps ≥ 16)
    outs := if v = 255 then [] else [{ tgt := n.t0, tag := tag, res := .pay (.word 0), row := some v }]
    node := fun x => { x with drain := some { tag := tag, acc := s.drainTile n, row := 0, dest := if v = 255 then none else some v,
                                              next := (s.fireOf (.mdrain n) tag took).now + 6 }
                              ptr := some (s.drainTile n) } }

theorem exec_mdrain_matched (h : s.Matched (.mdrain n) tag took) {v : Nat} (hv : ((s.fireOf (.mdrain n) tag took).word .L).toNat % 256 = v) :
    exec (.mdrain n) s = .next
    (if (s.node s.sel).drain.isSome || (nthD {} (s.tile s.selTile).acc (s.drainTile n)).st != .full || (s.tile s.selTile).mzeroed (s.drainTile n)
     then s.setStall 13
     else if v ≠ 255 ∧ v ≥ (s.billet s.sel.b).steerCount s.sel.t n.t0 then s.trapAt clsBounds tag 0 v
     else s.whenFree (.mdrain n) (s.drainFiring n tag took v) (s.commit (.mdrain n) { s.drainFiring n tag took v with outs := [] })) := by
  subst hv
  exact congrArg _ (onNode_matched h _ _)

theorem exec_mdrain_ended (h : s.Ended (.mdrain n) tag level took) : exec (.mdrain n) s = .next
    (if (s.node s.sel).drain.isSome then s.setStall 5
     else s.tryFire (.mdrain n) (s.endFiring tag took
       ((List.range ((s.billet s.sel.b).steerCount s.sel.t n.t0)).map fun d => { endOut tag level n.t0 with row := some d }))) :=
  congrArg _ (onNode_ended h _ _)

end

/-- Settles O26: mzero by its guard; mdrain by its drain, its tile and its destination. -/
theorem tileNodesFire : Obligations.TileNodesFire := by
  intro s n tag took level z d t nd f cur v dests drain fr zp id mz
  refine ⟨State.onLoose_ends (exec_mzero n s), fun h => ⟨fun hg hfree => ?_, fun hg hfree => ?_⟩, fun h hnone hfree => ?_,
    fun h => ⟨fun hwait => ?_, fun hnone hfull hz => ⟨fun hdest hfree => ?_, fun hne hge hfree => ?_⟩⟩⟩
  · exact (exec_onLoose (exec_mzero n s) h).trans (congrArg _ ((if_pos (by simpa using hg)).trans (tryFire_free hfree)))
  · exact (exec_onLoose (exec_mzero n s) h).trans (congrArg _ ((if_neg (by simpa using hg)).trans (tryFire_free hfree)))
  · have hopen : ¬ (s.node s.sel).drain.isSome = true := by
      rw [show (s.node s.sel).drain = none from hnone]
      simp
    exact (exec_mdrain_ended h).trans (congrArg _ ((if_neg hopen).trans (tryFire_free hfree)))
  · refine (exec_mdrain_matched h rfl).trans (congrArg _ (if_pos ?_))
    simp only [Bool.or_eq_true, bne_iff_ne]
    exact or_assoc.mpr hwait
  all_goals
    have hgo : ¬ ((s.node s.sel).drain.isSome || (nthD {} (s.tile s.selTile).acc (s.drainTile n)).st != .full ||
        (s.tile s.selTile).mzeroed (s.drainTile n)) = true := by
      simp only [Bool.or_eq_true, bne_iff_ne]
      rintro ((h1 | h2) | h3)
      · rw [show (s.node s.sel).drain = none from hnone] at h1
        simp at h1
      · exact h2 hfull
      · exact absurd (hz.symm.trans h3) (by simp)
  · have hok : ¬ (v ≠ 255 ∧ v ≥ dests) := fun ⟨hne, hge⟩ => (hdest.resolve_left hne).not_ge hge
    exact (exec_mdrain_matched h rfl).trans (congrArg _ ((if_neg hgo).trans ((if_neg hok).trans (whenFree_free hfree _))))
  · exact (exec_mdrain_matched h rfl).trans (congrArg _ ((if_neg hgo).trans ((if_pos ⟨hne, hge⟩).trans (trapAt_free hfree ..))))

/-! ### rpush and ringst (R226, R227) -/

section
variable {s : State} {n : GNode} {op : RingOp} {tag : Tag} {took : List Entry} {level : Nat} {g : Ring}

/-- The firing that sends a row into flight (R226). -/
def State.rowFiring (s : State) (n : GNode) (tag : Tag) (took : List Entry) (g : Ring) : Firing :=
  { use := fun t => let t := t.useAll took
                    { t with flying := t.flying ++ [s.rowWrite (.rpush n) (s.fireOf (.rpush n) tag took) g (s.node s.sel).rpushRow] }
    outs := if (s.node s.sel).rpushRow = 15 then sendAll (.rpush n) tag.asData (.pay (.word 0)) else []
    loose := true, hold := some (s.billet s.sel.b).nextId
    node := fun y => { y with rpushRow := (s.node s.sel).rpushRow + 1 }
    bill := fun y => { y with nextId := (s.billet s.sel.b).nextId + 1
                              rings := Tbl.put (n.imm % 16) { g with claim := some (s.sel.t, s.sel.pos) } y.rings } }

theorem exec_rpush_matched (h : s.Matched (.rpush n) tag took) (hg : (s.billet s.sel.b).ring? (n.imm % 16) = some g) : exec (.rpush n) s = .next
    (if (s.node s.sel).rpushRow ≥ 16 || !g.mayFill (s.sel.t, s.sel.pos) then s.setStall 12
     else s.tryFire (.rpush n) (s.rowFiring n tag took g)) := by
  show execRpush n s = _
  simp only [execRpush, onNode_matched h, hg]
  rfl

theorem exec_rpush_ended (h : s.Ended (.rpush n) tag level took) : exec (.rpush n) s = .next
    (if (s.node s.sel).rpushRow = 0 then s.tryFire (.rpush n) (s.endFiring tag took ((tgts (.rpush n)).map (endOut tag level)))
     else if (s.node s.sel).rpushRow ≥ 16 then s.setStall 12 else s.trapAt clsStreamMismatch tag 0 0) :=
  congrArg _ (onNode_ended h _ _)

/-- The ring after a pop or a reset behind the reads of its fc (R227), and the firing that sends a state of it. -/
def State.ringAfter (s : State) (n : GNode) (op : RingOp) (g : Ring) : Ring :=
  if op = .pop then ((((s.readsOn s.sel.b (n.imm % 16) (List.range 8)).billet s.sel.b).ring? (n.imm % 16)).getD g).popAfterReads
  else ((((s.readsOn s.sel.b (n.imm % 16) (List.range 8)).billet s.sel.b).ring? (n.imm % 16)).getD g).cleared

def ringFiring (n : GNode) (op : RingOp) (tag : Tag) (took : List Entry) (w : Word) : Firing :=
  { use := fun t => t.useAll took, outs := sendAll (.ringst n op) tag.asData (.pay (.word w)) }

theorem exec_ringst_matched (h : s.Matched (.ringst n op) tag took) (hg : (s.billet s.sel.b).ring? (n.imm % 16) = some g) :
    exec (.ringst n op) s = .next
    (if op = .query || !s.guardTrue (.ringst n op) (s.fireOf (.ringst n op) tag took) then
       s.tryFire (.ringst n op) (ringFiring n op tag took g.stateWord)
     else if (if op = .pop then !g.headFull else g.claim.isSome) then s.setStall 12
     else s.whenFree (.ringst n op) (ringFiring n op tag took (s.ringAfter n op g).stateWord)
       ((s.readsOn s.sel.b (n.imm % 16) (List.range 8)).commit (.ringst n op) { ringFiring n op tag took (s.ringAfter n op g).stateWord with
         bill := fun y => { y with rings := Tbl.put (n.imm % 16) (s.ringAfter n op g) y.rings } })) := by
  show execRingst n op s = _
  simp only [execRingst, onNode_matched h, hg]
  rfl

theorem ringst_ends (h : s.Ended (.ringst n op) tag level took) :
    s.Fires (.ringst n op) (s.endFiring tag took ((tgts (.ringst n op)).map (endOut tag level))) := by
  intro hfree
  exact congrArg _ ((onNode_ended h _ _).trans (tryFire_free hfree))

end

/-- Settles O27: rpush by its row and whether it may fill the ring; ringst by its operation, its guard and the ring. -/
theorem ringNodesFire : Obligations.RingNodesFire := by
  intro s n op tag level took g p q r x row fr s1 g1 g2 fq hg
  refine ⟨fun h => ⟨fun hrow hfill hfree => ?_, fun hwait => ?_⟩, fun h => ⟨fun hzero hfree => ?_, fun hpos hlt hfree => ?_⟩,
    fun h hquery hfree => ?_, fun h hop hguard => ⟨fun hpop hreset hfree => ?_, fun hwait => ?_⟩, ringst_ends⟩
  · have hgo : ¬ ((s.node s.sel).rpushRow ≥ 16 || !g.mayFill (s.sel.t, s.sel.pos)) = true := by
      simpa [hfill] using hrow
    exact (exec_rpush_matched h hg).trans (congrArg _ ((if_neg hgo).trans (tryFire_free hfree)))
  · have hstop : ((s.node s.sel).rpushRow ≥ 16 || !g.mayFill (s.sel.t, s.sel.pos)) = true := by
      simpa using hwait
    exact (exec_rpush_matched h hg).trans (congrArg _ (if_pos hstop))
  · exact (exec_rpush_ended h).trans (congrArg _ ((if_pos hzero).trans (tryFire_free hfree)))
  · exact (exec_rpush_ended h).trans (congrArg _ ((if_neg hpos.ne').trans ((if_neg (Nat.not_le_of_lt hlt)).trans (trapAt_free hfree ..))))
  · have hsend : (decide (op = .query) || !s.guardTrue (.ringst n op) (s.fireOf (.ringst n op) tag took)) = true := by
      simpa using hquery
    exact (exec_ringst_matched h hg).trans (congrArg _ ((if_pos hsend).trans (tryFire_free hfree)))
  all_goals
    have hact : ¬ (decide (op = .query) || !s.guardTrue (.ringst n op) (s.fireOf (.ringst n op) tag took)) = true := by
      simpa [hop] using hguard
  · have hgo : ¬ (if op = .pop then !g.headFull else g.claim.isSome) = true := by
      split
      · next he => simpa using hpop he
      · next he => simp [hreset he]
    exact (exec_ringst_matched h hg).trans (congrArg _ ((if_neg hact).trans ((if_neg hgo).trans (whenFree_free hfree _))))
  · have hstop : (if op = .pop then !g.headFull else g.claim.isSome) = true := by
      rcases hwait with ⟨he, hh⟩ | ⟨he, hh⟩
      · simp [he, hh]
      · simpa [he, Option.isSome_iff_ne_none] using hh
    exact (exec_ringst_matched h hg).trans (congrArg _ ((if_neg hact).trans (if_pos hstop)))

end Sys2Proof.Machine

/-! Sparse and system nodes at issue (07 R222, R236 to R245), the effect of a firing, and the trap at the end of an fc. -/

namespace Sys2Proof.Machine

open State (onNode_matched onNode_ended tryFire_free trapAt_free whenFree_free fires_of_matched fires_of_ended)

/-! ### spacc and spflush (R236, R237) -/

section
variable {s : State} {n : GNode} {rm : Round} {tag : Tag} {took : List Entry} {level : Nat}

/-- The update that a spacc sends to its M-tile's unit (R236), and its firing. -/
def State.sparseOpOf (s : State) (n : GNode) (f : Fire) : SparseOp :=
  { tile := s.selTile, acc := (s.billet s.sel.b).nextId, instr := .spacc n, loc := .scr (scrKey s.sel.b (n.xmod % 8) 0),
    data := .vec [f.word .L, f.word .R], pos := s.sel.pos, coord := some (n.xmod % 8, (f.word .L).toNat / 65536) }

def State.spaccFiring (s : State) (n : GNode) (f : Fire) : Firing :=
  { use := fun t => let t := t.useAll f.took; { t with flying := t.flying ++ [{ s.newAcc (.spacc n) f [] (.word 0) with atUnit := true }] }
    outs := sendAll (.spacc n) f.tag.asData (.pay (.word 0)), loose := true, hold := some (s.billet s.sel.b).nextId
    busy := (s.billet s.sel.b).counterFull s.sel.t (.spacc n) ||
      decide ((s.sparse.filter fun o => o.unit = (s.sparseOpOf n f).unit).length ≥ Config.sparseOps)
    bill := fun y => { y with nextId := (s.billet s.sel.b).nextId + 1 } }

theorem exec_spacc (n : GNode) (s : State) : exec (.spacc n) s = .next (s.onLoose (.spacc n) fun f =>
    if !s.guardTrue (.spacc n) f then s.tryFire (.spacc n) (.of f.took (sendAll (.spacc n) f.tag.asData (.pay (.word 0))))
    else s.whenFree (.spacc n) (s.spaccFiring n f)
      ({ s.commit (.spacc n) (s.spaccFiring n f) with sparse := (s.commit (.spacc n) (s.spaccFiring n f)).sparse ++ [s.sparseOpOf n f] })) := rfl

theorem exec_spflush (n : GNode) (rm : Round) (s : State) : exec (.spflush n rm) s = .next (s.onNode (.spflush n rm)
    (fun tag took => if (s.node s.sel).flush.isSome then s.setStall 5
      else s.tryFire (.spflush n rm)
        { use := fun t => t.useAll took, loose := true, busy := decide ((s.tile s.selTile).tileOps ≥ 16)
          node := fun x => { x with flush := some { tag := tag, issue := s.now s.sel.b, next := s.now s.sel.b + 6 } } })
    (fun tag level took => if (s.node s.sel).flush.isSome then s.setStall 5
      else s.tryFire (.spflush n rm) (s.endFiring tag took ((tgts (.spflush n rm)).map (endOut tag level))))) := rfl

end

/-- Settles O28: spacc by its guard, spflush by whether one is open. -/
theorem sparseNodesFire : Obligations.SparseNodesFire := by
  intro s n rm tag took level i k f x m op a fr
  refine ⟨State.onLoose_ends (exec_spacc n s), fun h => ⟨fun hg hfree => ?_, fun hg hfree => ?_⟩,
    fun h => ⟨fun hnone hfree => ?_, fun hsome => ?_⟩, fun h hnone hfree => ?_⟩
  · exact (exec_onLoose (exec_spacc n s) h).trans (congrArg _ ((if_pos (by simpa using hg)).trans (tryFire_free hfree)))
  · exact (exec_onLoose (exec_spacc n s) h).trans (congrArg _ ((if_neg (by simpa using hg)).trans (whenFree_free hfree _)))
  · rw [exec_spflush, onNode_matched h, if_neg (by simp [hnone]), tryFire_free hfree]
  · rw [exec_spflush, onNode_matched h, if_pos (Option.isSome_iff_ne_none.mpr hsome)]
  · rw [exec_spflush, onNode_ended h, if_neg (by simp [hnone]), tryFire_free hfree]

/-! ### raise, hset, hclr and csr (R238, R239, R245) -/

theorem exec_raise (n : GNode) (s : State) : exec (.raise n) s = .next (s.onNode (.raise n)
    (fun tag took => if !s.guardTrue (.raise n) (s.fireOf (.raise n) tag took) then s.tryFire (.raise n) (.of took [])
      else if n.t0 = .none then s.tryFire (.raise n) { Firing.of took [] with
        fx := .raise (n.imm % 32) ⟨{ tag with kind := .ctrl }, .word ((s.fireOf (.raise n) tag took).word .L)⟩
        busy := decide ((s.billet s.sel.b).ctrlUse ≥ Config.controlFifo) }
      else s.tryFire (.raise n)
        (.of took (sendAll (.raise n) { tag with kind := .ctrl } (.pay (.word ((s.fireOf (.raise n) tag took).word .L))))))
    (fun tag _ took => s.tryFire (.raise n) (s.endFiring tag took []))) := rfl

theorem State.handlerNode_eq (s : State) (i : Instr) (n : GNode) (set en pend : Bool) : s.handlerNode i n set en pend = s.onNode i
    (fun tag took => s.tryFire i { Firing.of took (sendAll i tag.asData (.pay (.word ((s.fireOf i tag took).word .L)))) with
      fx := if s.guardTrue i (s.fireOf i tag took) then .handler (n.imm % 32) set en pend tag else .nothing })
    (fun tag level took => s.tryFire i (s.endFiring tag took ((tgts i).map (endOut tag level)))) := rfl

theorem exec_csr (n : GNode) (op : CsrOp) (s : State) : exec (.csr n op) s = .next (s.onNode (.csr n op)
    (fun tag took => s.tryFire (.csr n op) { Firing.of took (sendAll (.csr n op) tag.asData (.pay (.word 0))) with
      fx := .csr (n.imm % 4096) op ((s.fireOf (.csr n op) tag took).word .L) (s.guardTrue (.csr n op) (s.fireOf (.csr n op) tag took)) })
    (fun tag level took => s.tryFire (.csr n op) (s.endFiring tag took ((tgts (.csr n op)).map (endOut tag level))))) := rfl

/-- Settles O29: raise by its guard and its target; hset, hclr and csr on the shared firing rule. -/
theorem systemNodesFire : Obligations.SystemNodesFire := by
  intro s n en pend op tag took level i set r c ctag w
  refine ⟨fun h => ⟨fun hg hfree => ?_, fun hg ht hfree => ?_, fun hg ht hfree => ?_⟩, fun h => fires_of_ended h (exec_raise n s), fun hi => ?_,
    fun h => fires_of_matched h (exec_csr n op s), fun h => fires_of_ended h (exec_csr n op s)⟩
  · rw [exec_raise, onNode_matched h, if_pos (by simpa using hg), tryFire_free hfree]
  · rw [exec_raise, onNode_matched h, if_neg (by simpa using hg), if_pos ht, tryFire_free hfree]
  · rw [exec_raise, onNode_matched h, if_neg (by simpa using hg), if_neg ht, tryFire_free hfree]
  · have hx : exec i s = .next (s.handlerNode i n set en pend) := by
      rcases hi with h | h <;> obtain ⟨rfl, rfl⟩ := h <;> rfl
    rw [State.handlerNode_eq] at hx
    exact ⟨fun h => fires_of_matched h hx, fun h => fires_of_ended h hx⟩

/-! ### The effect of a firing (R35, R36, R120) -/

/-- A firing changes the billet of its node alone. -/
theorem State.commit_eq (s : State) (i : Instr) (f : Firing) : s.commit i f = { s with billets := (s.commit i f).billets } := rfl

/-- The tile of a firing's node after it. -/
def State.firedTile (s : State) (i : Instr) (f : Firing) (t : Tile) : Tile :=
  let fl : Flight := { blk := s.sel.blk, slot := s.sel.slot, due := s.now s.sel.b + i.timing.1, outs := f.outs, flags := f.flags, fx := f.fx,
                       hold := f.hold, loose := f.loose, issue := s.now s.sel.b }
  let u := (f.use t).tookIssue s.sel.blk s.sel.slot (s.now s.sel.b) i.timing.2
  (if f.loose && f.outs.isEmpty then u else { u with flights := u.flights ++ [fl] }).modNode s.sel.pos fun n =>
    { f.node n with stall := 0, fired := true }

theorem State.billet_commit (s : State) (i : Instr) (f : Firing) : (s.commit i f).billet s.sel.b =
    { f.bill ((s.billet s.sel.b).modTile s.sel.t (s.firedTile i f)) with lastUse := s.now s.sel.b, idle := 0 } := by
  have h : s.commit i f = (s.modTile s.selTile (s.firedTile i f)).modBillet s.sel.b fun x =>
      { f.bill x with lastUse := s.now s.sel.b, idle := 0 } := rfl
  rw [h, State.billet_modBillet, State.modTile, State.selTile, State.billet_modBillet]

theorem Tile.tookIssue_fields (t : Tile) (blk slot now k : Nat) : (t.tookIssue blk slot now k).issueFree = now + k ∧
    (t.tookIssue blk slot now k).issued = true ∧ (t.tookIssue blk slot now k).flights = t.flights := by
  unfold Tile.tookIssue
  dsimp only
  split <;> exact ⟨rfl, rfl, rfl⟩

/-- Settles O33: the firing's tile, as its billet holds it. -/
theorem commitEffect : Obligations.CommitEffect := by
  intro s i f now t
  refine ⟨(State.local_commit s i f).2, State.commit_eq s i f, fun hlt hbill hsend huse => ?_⟩
  have hloose : (f.loose && f.outs.isEmpty) = false := by
    rcases hsend with h | h <;> simp [h]
  have htile : (s.commit i f).tile s.selTile = s.firedTile i f (s.tile s.selTile) := by
    have hb := State.billet_commit s i f
    simp only [State.tile, State.selTile] at hb ⊢
    rw [hb]
    simp only [Billet.tile, hbill, Billet.modTile]
    exact nthD_modNth _ _ hlt
  obtain ⟨hfree, hissued, hflights⟩ := Tile.tookIssue_fields (f.use (s.tile s.selTile)) s.sel.blk s.sel.slot now i.timing.2
  rw [htile]
  simp only [State.firedTile, hloose, Bool.false_eq_true, if_false]
  refine ⟨?_, ?_, ?_, ?_⟩
  · exact hfree
  · exact hissued
  · exact congrArg (· ++ _) (hflights.trans (huse _))
  · exact congrArg Billet.lastUse (State.billet_commit s i f)

/-! ### The trap of a launch (R380, R392, R413, R415) -/

/-- A trap of a running launch (R380). -/
theorem State.launchTrapped_running {s : State} {l : Launch} (h : l.st = .running) (b : Nat) (arg : Word) : s.launchTrapped l b arg =
    if (s.modLaunch l.id fun l => { l with faulted := true, cause := arg }).attached l.cid then
      (s.modLaunch l.id fun l => { l with faulted := true, cause := arg }).modLaunch l.id fun l => { l with st := .stopped, stopLoading := false }
    else (s.modLaunch l.id fun l => { l with faulted := true, cause := arg }).checkoutSequence l.id arg := by
  simp only [State.launchTrapped, h]

theorem State.takeTrap_known {s : State} {l : Launch} {r : RecId} (h : s.launch? r = some l) (side b : Nat) :
    s.takeTrap side r b = (s.freezeEnd side (s.freezeDomain l (some b)) .trap).launchTrapped l b 1 := by
  simp only [State.takeTrap, h]

/-- The end of an fc in which one trap is due. -/
theorem State.settle_trap {s : State} {r : RecId} {b : Nat} (h : s.due = [.trap r b]) (side : Nat) :
    s.settle side = ({ s.putRecords with due := [] } : State).takeTrap side r b := by
  simp only [State.settle, h]
  rfl

/-- Settles O32: the one event of the fc is the trap, and its launch runs. -/
theorem trapTaken : Obligations.TrapTaken := by
  intro s side b r l acts s1 s2 ha hdue hl hid hst
  subst hid
  have hstep : step s = .next (if s2.attached l.cid then s2.modLaunch l.id fun l => { l with st := .stopped, stopLoading := false }
      else s2.checkoutSequence l.id 1) := by
    rw [step_of_agenda ha]
    refine congrArg Host.Outcome.next ((State.settle_trap (s := { s with agenda := acts }) hdue side).trans ?_)
    rw [State.takeTrap_known hl, State.launchTrapped_running hst]
  constructor
  · intro hno
    rw [hstep, if_neg (by simp [hno])]
  · intro hyes
    rw [hstep, if_pos hyes]

end Sys2Proof.Machine

/-! Results that leave S6, channel heads, returns, off signals, and the late effects of firings (R34, R59, R118, R171, R238, R239, R245, R267). -/

namespace Sys2Proof.Machine

section
variable {s : State} {a : TileAddr} {f : Flight} {fs : List Flight}

/-! ### Results (R118, R171, R238, R239) -/

/-- The tile of a result that leaves S6: the flight has gone, its flags are set (R118). -/
def State.landed (s : State) (a : TileAddr) (f : Flight) (fs : List Flight) : State :=
  s.modTile a fun t => { t with flights := fs, fflags := t.fflags ||| f.flags, flagsNow := t.flagsNow ||| f.flags }

/-- A result that is due leaves with its late effect. -/
theorem exec_pipelineResultOffer (ha : s.active a.b = true) (h : s.nextFlight a [] (s.tile a).flights = some (f, fs)) :
    exec (.pipelineResultOffer a) s =
      .next (((s.landed a f fs).flightFx a f).1.offerOuts a f.blk f.due ((s.landed a f fs).flightFx a f).2) := by
  show execPipelineResultOffer a s = _
  simp only [execPipelineResultOffer, ha, if_true, h]
  rfl

theorem State.flightFx_nothing (h : f.fx = .nothing) : s.flightFx a f = (s, f.outs) := by simp only [State.flightFx, h]

theorem State.flightFx_handler {e : Nat} {set en pend : Bool} {tag : Tag} (h : f.fx = .handler e set en pend tag) : s.flightFx a f =
    (s.modBillet a.b fun x => { x with handlers := modNth (Handler.change set en pend tag) e x.handlers }, f.outs) := by
  simp only [State.flightFx, h]

theorem State.flightFx_raise {e : Nat} {tok : Token} (h : f.fx = .raise e tok) : s.flightFx a f = (s.ctrlArrive a.b e tok, f.outs) := by
  simp only [State.flightFx, h]

/-- A return in its target's return queue (R171). -/
def State.queuedRet (s : State) (a : TileAddr) (tl pos : Nat) (tgt : Target) (tok : Token) : State :=
  s.modTile ⟨a.b, tl⟩ fun t => { t with rets := insertBy RetTok.due ⟨pos, tgt, tok, if tl = a.t then s.now a.b else s.now a.b + 2⟩ t.rets }

theorem State.flightFx_ret_end {tl pos : Nat} {tgt : Target} {tok : Token} (h : f.fx = .ret tl pos tgt tok none) :
    s.flightFx a f = (s.queuedRet a tl pos tgt tok, f.outs) := by
  simp only [State.flightFx, h]
  rfl

theorem State.flightFx_ret {tl pos : Nat} {tgt : Target} {tok : Token} {col : Option Nat} {k : Colour} (h : f.fx = .ret tl pos tgt tok col)
    (hk : (col.bind fun c => ((s.queuedRet a tl pos tgt tok).billet a.b).held c) = some k) : s.flightFx a f =
      ((((s.queuedRet a tl pos tgt tok).modBillet a.b fun x =>
        { x with colours := x.colours.map fun y => if y.n = k.n then { y with freed := true } else y }).modTile ⟨a.b, k.tile⟩ fun t =>
          t.modNode k.pos fun n => { n with spawnOut := n.spawnOut - 1 }), f.outs) := by
  simp only [State.queuedRet] at hk
  simp only [State.flightFx, h, hk]
  rfl

/-! ### Channel heads, returns and off signals (R34, R171, R267, R423) -/

/-- The port that a channel feeds is one that a porter takes itself (R176). -/
def Tile.porterPort (t : Tile) (c : InChan) : Bool :=
  match t.instrAt c.dblk c.dslot with
  | some (.porter _) => c.dport == .R
  | _ => false

theorem State.deliverHead_takes {ch : Nat} {c : InChan} {tok : Token} {rest : List Token} (hp : (s.tile a).porterPort c = false)
    (hd : c.delivered = false) (ht : (s.tile a).takes (s.now a.b) c.dblk c.dslot c.dport tok.tag = true) :
    s.deliverHead a ch c tok rest = (s.modTile a fun t =>
      { t with inCh := Tbl.put ch { c with queue := rest, delivered := true, passed := [] } t.inCh }).acceptPort
        ⟨a.b, a.t, c.dblk, c.dslot⟩ c.dport tok c.enc := by
  have hgo : ¬ ((s.tile a).porterPort c || c.delivered) = true := by simp [hp, hd]
  exact (if_neg hgo).trans (if_pos ht)

variable {ch : Nat} {c : InChan} {tok : Token} {rest : List Token} {p : Resident}
  (ha : s.active a.b = true) (hc : Tbl.get ch (s.tile a).inCh = some c) (hq : c.queue = tok :: rest) (hp : (s.billet a.b).page = some p)

include hq hp in
theorem State.withholds_eq : s.withholds a ch c = if s.attached p.cid then (s.billet a.b).matchBreaks a.t ch tok c.passed else [] := by
  simp only [State.withholds, hq, hp, Option.any_some]

include ha hc hq in
theorem exec_channelDelivery : exec (.channelDelivery a ch) s = .next (match s.withholds a ch c with
    | k :: _ => s.breakHit a.b k
    | [] => s.deliverHead a ch c tok rest) := by
  show execChannelDelivery a ch s = _
  simp only [execChannelDelivery, ha, if_true, hc, hq] <;> rfl

include ha hc hq hp in
theorem exec_channelDelivery_passes (h : s.attached p.cid = false ∨ (s.billet a.b).matchBreaks a.t ch tok c.passed = []) :
    exec (.channelDelivery a ch) s = .next (s.deliverHead a ch c tok rest) := by
  have hnone : s.withholds a ch c = [] := by
    rw [State.withholds_eq hq hp]
    rcases h with h | h <;> simp [h]
  rw [exec_channelDelivery ha hc hq, hnone]

include ha hc hq hp in
/-- R423: a comparator withholds the head. -/
theorem exec_channelDelivery_withheld {z : Break} {zs : List Break} (hatt : s.attached p.cid = true)
    (hz : (s.billet a.b).matchBreaks a.t ch tok c.passed = z :: zs) : exec (.channelDelivery a ch) s = .next (s.breakHit a.b z) := by
  rw [exec_channelDelivery ha hc hq, State.withholds_eq hq hp, if_pos hatt, hz]

theorem exec_returnQueueDeliver {q : RetTok} {qs : List RetTok} (ha : s.active a.b = true) (hr : (s.tile a).rets = q :: qs)
    (hd : q.due ≤ s.now a.b) (ht : s.retTakes a q = true) : exec (.returnQueueDeliver a) s =
      .next ((s.modTile a fun t => { t with rets := qs }).offerOut a (q.pos / 64) (s.now a.b)
        { tgt := q.tgt, tag := q.tok.tag, res := .pay ((s.tile a).retPay q.tgt q.tok.pay) }) := by
  show execReturnQueueDeliver a s = _
  simp only [execReturnQueueDeliver, ha, if_true, hr, hd, ht, decide_true, Bool.and_self]

theorem exec_offSignalViewUpdate {k : Nat} {g : Signal} {gs : List Signal} (h : takeNth k s.signals = some (g, gs))
    (hd : g.due ≤ (s.side (s.signalSide g.hearer)).fc) :
    exec (.offSignalViewUpdate k) s = .next ({ s with signals := gs }.setView g.hearer g.val) := by
  show execOffSignalViewUpdate k s = _
  simp only [execOffSignalViewUpdate, h, if_pos hd]

end

/-- Settles O36: a result without a late effect, a channel's head by its comparators, a return, an off signal. -/
theorem resultsDeliver : Obligations.ResultsDeliver := by
  intro s a f fs ch k c tok rest p q qs g gs z zs porter
  refine ⟨fun ha hn hfx => ?_, fun ha hc hq hp => ⟨fun hpass hd hporter ht => ?_, exec_channelDelivery_withheld ha hc hq hp⟩,
    exec_returnQueueDeliver, exec_offSignalViewUpdate⟩
  · rw [exec_pipelineResultOffer ha hn, State.flightFx_nothing hfx]
    rfl
  · rw [exec_channelDelivery_passes ha hc hq hp hpass, State.deliverHead_takes hporter hd ht]

/-! ### Registers (R59, R245) -/

section
variable {s : State} {a : TileAddr} {idx eff : Nat} {op : CsrOp} {v : Word} {guard : Bool}

theorem State.csrFlight_due {f : Flight} (hf : f.fx = .csr idx op v guard) (hd : f.due ≤ s.now a.b + 1) :
    s.csrFlight a f = (s.csrApply a idx op v guard (s.now a.b)).modTile a fun t => { t with flights := t.flights.map fun g =>
      if g = f then { f with fx := .nothing, outs := f.outs.map fun o => { o with res := .pay (.word (s.csrRead a idx)) } } else g } := by
  simp only [State.csrFlight, hf, if_pos hd]

theorem State.csrApply_writes (hg : guard = true) (ho : op ≠ .rd) : s.csrApply a idx op v guard eff = (s.csrShadow a idx).modTile a fun t =>
    { t.csrWrite idx op (s.csrRead a idx) v with hist := t.hist ++ [(idx, s.csrRead a idx, eff)] } := by
  have h : (guard && op != .rd) = true := by simp [hg, ho]
  exact if_pos h

theorem State.csrApply_reads (h : guard = false ∨ op = .rd) : s.csrApply a idx op v guard eff = s.csrShadow a idx := by
  have h : ¬ (guard && op != .rd) = true := by rcases h with h | h <;> simp [h]
  exact if_neg h

end

section
variable {t : Tile} {idx : Nat} {op : CsrOp} {old v : Word}

theorem Tile.csrWrite_stallCounters (h1 : 0x040 ≤ idx) (h2 : idx < 0x047) : t.csrWrite idx op old v = { t with
    stallCnt := setNth (2 * (idx - 0x040) + 1) ((csrNew op old v).extractLsb' 16 16)
      (setNth (2 * (idx - 0x040)) ((csrNew op old v).extractLsb' 0 16) t.stallCnt) } := by
  have hpair : 2 * (idx - ctStallcnt) + 1 < 15 := by unfold ctStallcnt; omega
  simp only [Tile.csrWrite, if_pos (show idx < 0x048 by omega), if_pos hpair]
  rfl

theorem Tile.csrWrite_lastStallCounter :
    t.csrWrite 0x047 op old v = { t with stallCnt := setNth 14 ((csrNew op old v).extractLsb' 0 16) t.stallCnt } := rfl

theorem Tile.csrWrite_nodeStall (h1 : 0x050 ≤ idx) (h2 : idx < 0x070) : t.csrWrite idx op old v = t := by
  simp only [Tile.csrWrite, if_neg (show ¬ idx < 0x048 by omega), if_pos h2]

theorem Tile.csrWrite_scale (h1 : 0x070 ≤ idx) (h2 : idx < 0x080) :
    t.csrWrite idx op old v = { t with sc := setNth (idx - 0x070) (Scale.ofWord (csrNew op old v)) t.sc } := by
  simp only [Tile.csrWrite, if_neg (show ¬ idx < 0x048 by omega), if_neg (show ¬ idx < 0x070 by omega), if_pos h2]
  rfl

/-- A seed register is half of its seed (R179). -/
theorem Tile.csrWrite_seed (j : Nat) (hj : j < 4) :
    t.csrWrite (0x0C0 + 2 * j) op old v = { t with seed := setNth j ((nthD 0 t.seed j : BitVec 64).extractLsb' 32 32 ++ csrNew op old v) t.seed } ∧
    t.csrWrite (0x0C1 + 2 * j) op old v = { t with seed := setNth j (csrNew op old v ++ (nthD 0 t.seed j : BitVec 64).extractLsb' 0 32) t.seed } := by
  interval_cases j <;> exact ⟨rfl, rfl⟩

theorem Tile.csrWrite_readOnly (h1 : 0x0D0 ≤ idx) (h2 : idx ≠ 0x0D9) : t.csrWrite idx op old v = t := by
  simp only [Tile.csrWrite, if_neg (show ¬ idx < 0x048 by omega), if_neg (show ¬ idx < 0x070 by omega), if_neg (show ¬ idx < 0x080 by omega),
    if_neg (show ¬ idx = ctFflags by unfold ctFflags; omega), if_neg (show ¬ idx < 0x0C8 by omega),
    if_neg (show ¬ idx = ctBrkcnt from h2)]

theorem Tile.csrWrite_flags (h : op = .wr ∨ op = .clr) :
    t.csrWrite 0x080 op old v = { t with fflags := t.fflags &&& ~~~(v.extractLsb' 0 7 &&& ~~~t.flagsNow) } := by
  rcases h with rfl | rfl <;> rfl

end

/-- Settles O37: each late effect by its kind, and the registers by their index. -/
theorem effectsApply : Obligations.EffectsApply := by
  intro s a f fs idx eff e tl pos op v guard set en pend tag tok tgt col k u old w u1
  refine ⟨fun ha hn => ⟨fun hfx => ?_, fun hfx => ?_, fun hfx => ⟨fun hcol => ?_, fun hk => ?_⟩⟩, State.csrFlight_due, State.csrApply_writes,
    State.csrApply_reads, Tile.csrWrite_stallCounters, Tile.csrWrite_lastStallCounter, Tile.csrWrite_seed, Tile.csrWrite_nodeStall,
    Tile.csrWrite_readOnly, Tile.csrWrite_scale, rfl, Tile.csrWrite_flags, rfl⟩
  · rw [exec_pipelineResultOffer ha hn, State.flightFx_handler hfx]
    rfl
  · rw [exec_pipelineResultOffer ha hn, State.flightFx_raise hfx]
    rfl
  · subst hcol
    rw [exec_pipelineResultOffer ha hn, State.flightFx_ret_end hfx]
    rfl
  · rw [exec_pipelineResultOffer ha hn, State.flightFx_ret (s := s.landed a f fs) hfx hk]
    rfl

end Sys2Proof.Machine

/-! Flits (R268, R350 to R358): injection, ingress, the boundary guard, redelivery and the stores of edges. -/

namespace Sys2Proof.Machine

/-! ### Injection (R268) -/

section
variable {s : State} {a : TileAddr} {ch d : Nat} {c : OutChan} {p : Resident} {k : PoolTok} {rest : List PoolTok} {r : Route}

/-- The state in which a token that its channel sends leaves: its tile has injected it, and its channel goes on (R268). -/
def State.injecting (s : State) (a : TileAddr) (ch d : Nat) (c : OutChan) (r : Route) : State :=
  s.modTile a fun t => { t with
    injected := t.injected + 1
    rrInject := ch
    outCh := Tbl.put ch (c.sent (s.now a.b) d ((s.billet a.b).floatFor (nthD {} (s.billet a.b).routes c.route)).isSome
      (r.kind == .handler && r.detour.isNone)) t.outCh }

theorem State.injectTok_picked (h : (s.billet a.b).pick c k.row = some (d, r)) :
    s.injectTok a ch c p k = some ((s.injecting a ch d c r).sendRoute a ch p r k.tok) := by
  simp only [State.injectTok, h]
  rfl

theorem exec_outputInject_pool (ha : s.active a.b = true) (hc : Tbl.get ch (s.tile a).outCh = some c) (hp : (s.billet a.b).page = some p)
    (hf : (s.billet a.b).fifoOf a.t ch = none) (hi : (s.tile a).injected < 2) (hn : c.nextFc ≤ s.now a.b) :
    exec (.outputInject a ch) s = .next (s.injectPool a ch c p) := by
  show execOutputInject a ch s = _
  simp only [execOutputInject, ha, if_true, hc, hp, hf, hi, hn, decide_true, Bool.and_self]

theorem State.injectPool_picked (hk : (s.tile a).poolHead ch = some (k, rest)) (h : (s.billet a.b).pick c k.row = some (d, r)) :
    s.injectPool a ch c p = ((s.injecting a ch d c r).sendRoute a ch p r k.tok).modTile a fun t => { t with pool := rest } := by
  simp only [State.injectPool, hk, State.injectTok_picked h]

/-- Over a LOCAL route a flit carries the GEN of its billet (R268, R352). -/
theorem State.sendRoute_local {tok : Token} (hk : r.kind = .loc) (hd : r.detour = none) : s.sendRoute a ch p r tok =
    { s with flits := s.flits ++ [{ src := a, ch := ch, dest := .chan a.b r.tile r.ch, gen := (s.billet a.b).gen, cid := p.cid,
                                    launch := p.launch, tok := tok, due := s.now a.b + s.routeTime a.b r (some a.t) }] } := by
  simp only [State.sendRoute, hk, hd]
  rfl

end

/-! ### Ingress (R350, R352) -/

section
variable {s : State} {k : Nat} {f : Flit} (hf : s.flits[k]? = some f) (hheld : s.flitHeld f = false) (hdue : f.due ≤ s.flitNow f)
include hf hheld hdue

/-- A flit that has arrived: one whose GEN is old goes to the Front Desk or is dropped, any other enters (R352). -/
theorem exec_flitIngress : exec (.flitIngress k) s = .next (if s.flitLate f then
    (if f.edge.isSome then { s.dropFlit k with late := s.late ++ [f] } else s.dropFlit k) else s.ingress k f) := by
  have hgo : ¬ (s.flitHeld f || decide (s.flitNow f < f.due)) = true := by simp [hheld, hdue]
  show execFlitIngress k s = _
  simp only [execFlitIngress, hf, if_neg hgo]

omit hf hheld hdue

variable {b tile ch e : Nat}

theorem State.ingress_handler (hd : f.dest = .handler b e) : s.ingress k f = (s.dropFlit k).arriveCtrl b e f.tok (some (f.src, f.ch)) := by
  simp only [State.ingress, hd]

variable (hd : f.dest = .chan b tile ch) (hok : f.src.b = b ∨ f.checked = true)
include hd hok

/-- A flit that its guards have let pass, or that stays in its billet, enters by its SEQ (R350). -/
theorem State.ingress_chan : s.ingress k f = match s.seqWanted f b tile ch with
    | some q => if q = f.seq then (s.dropFlit k).takeFlit f b tile ch true else s
    | none => (s.dropFlit k).takeFlit f b tile ch false := by
  have hgo : ¬ (f.src.b ≠ b ∧ f.checked = false) := by
    rintro ⟨hne, hc⟩
    rcases hok with h | h
    · exact hne h
    · simp [h] at hc
  simp only [State.ingress, hd, if_neg hgo] <;> rfl

theorem State.ingress_uncounted (hw : s.seqWanted f b tile ch = none) (he : f.entry = none) :
    s.ingress k f = (s.dropFlit k).enqueue b tile ch f.tok := by
  rw [State.ingress_chan hd hok, hw]
  simp only [State.takeFlit, he, Bool.false_eq_true, if_false]

theorem State.ingress_counted (hw : s.seqWanted f b tile ch = some f.seq) :
    s.ingress k f = (s.dropFlit k).takeFlit f b tile ch true := by
  rw [State.ingress_chan hd hok, hw]
  exact if_pos rfl

end

/-! ### Guards and redelivery (R352, R357, R358) -/

section
variable {s : State} {k nb d : Nat} {f : Flit}

theorem exec_boundaryGuard (hf : s.flits[k]? = some f) (hd : f.dest.billet = some d) (hc : f.checked = false) (hheld : s.flitHeld f = false)
    (hne : d ≠ f.src.b) (hl : s.flitLate f = false) : exec (.boundaryGuard k nb) s = .next (if s.guardPass f nb d then
      (if nb = d then { s with flits := modNth (fun (g : Flit) => { g with checked := true }) k s.flits } else s)
      else s.guardDropped k f nb) := by
  have hgo : ¬ (f.checked || s.flitHeld f || d == f.src.b) = true := by simp [hc, hheld, hne]
  show execBoundaryGuard k nb s = _
  simp only [execBoundaryGuard, hf, hd, if_neg hgo, hl, Bool.false_eq_true, if_false]

theorem exec_frontDeskRedeliver_direct {side : Nat} {fs : List Flit} {l : Launch} {g : Edge}
    (hf : takeFirst (fun (f : Flit) => s.lateSide f == side) s.late = some (f, fs)) (hl : s.launch? f.launch = some l)
    (he : f.edge = some g.id) (hg : l.edge? g.id = some g) (hst : g.st = .direct) (hv : g.view = false)
    (hfr : (s.billet g.dest).isFrozen = false) (hn : g.nextFc ≤ (s.side side).fc) : exec (.frontDeskRedeliver side) s =
      .next ({ s with late := fs }.sendIn (deskOf side) (s.oneWay (deskOf side) g.dest none (g.endTile f.entry)) l g f.seq
        { tok := f.tok, entry := f.entry }) := by
  have hgo : ¬ (g.view || (s.billet g.dest).isFrozen || decide (g.nextFc > (s.side side).fc)) = true := by simp [hv, hfr, hn]
  show execFrontDeskRedeliver side s = _
  simp only [execFrontDeskRedeliver, hf, State.redeliver, he, hl, hg, Option.bind_some, Option.map_some, hst, if_true, if_neg hgo]

end

/-! ### Stores of edges (R351, R354) -/

section
variable {s : State} {r : RecId} {l : Launch} {id c p : Nat} {e : Edge} {k : EdgeTok} {rest : List EdgeTok}
  (hl : s.launch? r = some l) (he : l.edge? id = some e) (hst : e.st ≠ .direct) (hc : l.placeOf e.cons = some c) (ho : s.drainOpen c = true)
include hl he hst hc ho

theorem exec_waystationDrain_token (ht : e.toks = k :: rest) (hf : e.first = e.out) (hv : e.view = false)
    (hn : e.nextFc ≤ (s.side (l.storeSide e)).fc) :
    exec (.waystationDrain r id) s = .next (s.drainTok l { e with dest := c } k rest) := by
  have hgo : ¬ (e.first != e.out || e.view || decide (e.nextFc > (s.side (l.storeSide e)).fc)) = true := by simp [hf, hv, hn]
  show execWaystationDrain r id s = _
  simp only [execWaystationDrain, hl, he, if_neg hst, hc, ho, Bool.not_true, Bool.false_eq_true, if_false, ht, if_neg hgo]

theorem exec_waystationDrain_empty (ht : e.toks = []) (hearly : e.early = []) (ho' : e.out = e.nextIn) (hs : e.nextIn = e.seq)
    (hflits : s.storeFlits r id = false) : exec (.waystationDrain r id) s = .next (s.edgeSettled l e) := by
  have hgo : (e.early.isEmpty && e.out == e.nextIn && e.nextIn == e.seq && !s.storeFlits r id) = true := by simp [hearly, ho', hs, hflits]
  show execWaystationDrain r id s = _
  simp only [execWaystationDrain, hl, he, if_neg hst, hc, ho, Bool.not_true, Bool.false_eq_true, if_false, ht, if_pos hgo]

omit hl he hst ho

theorem State.edgeSettled_direct (hp : l.placeOf e.prod = some p) (hside : sideOf p = sideOf c) (hr : e.reserved = false) :
    s.edgeSettled l e = ((((s.modEdge l.id e.id fun x =>
      { x with st := .direct, dest := c, gen := (s.billet c).gen, off := true, reserved := false }).assertProducer l e).modBillet p fun x =>
        { x with steward := true }).modBillet c fun x => { x with steward := true }) := by
  simp only [State.edgeSettled, hp, hc, if_pos hside, hr, Bool.false_eq_true, if_false]

end

/-- Settles O38: a flit from its channel to its destination, and a token from its edge's store. -/
theorem flitsTravel : Obligations.FlitsTravel := by
  refine ⟨?_, fun s k f b tile ch e nb d side fs l g => ⟨fun hf hheld hdue => ?_, fun hf hd hc hheld hne hl => ?_,
      exec_frontDeskRedeliver_direct⟩,
    fun s r l id c p e k rest hl he hst hc ho => ⟨exec_waystationDrain_token hl he hst hc ho, fun ht hearly ho' hs hfl hp hside hr => ?_⟩⟩
  · intro s a ch d c p k rest r x s1 ha hc hp hf hi hn hk hpick
    refine ⟨?_, State.sendRoute_local⟩
    rw [exec_outputInject_pool ha hc hp hf hi hn, State.injectPool_picked hk hpick]
    rfl
  · have hx := exec_flitIngress hf hheld hdue
    refine ⟨fun hl he => ?_, fun hl he => ?_, fun hl hd => ?_, fun hl hd hok hw he => ?_, fun hl hd hok hw => ?_⟩
    · rw [hx, if_pos hl, if_pos he]
    · rw [hx, if_pos hl, if_neg (by simp [he])]
    · rw [hx, if_neg (by simp [hl]), State.ingress_handler hd]
    · rw [hx, if_neg (by simp [hl]), State.ingress_uncounted hd hok hw he]
    · rw [hx, if_neg (by simp [hl]), State.ingress_counted hd hok hw]
  · have hx := exec_boundaryGuard (nb := nb) hf hd hc hheld hne hl
    refine ⟨fun hpass hnb => ?_, fun hpass hnb => ?_, fun hno => ?_⟩
    · rw [hx, if_pos hpass, if_pos hnb]
    · rw [hx, if_pos hpass, if_neg hnb]
    · rw [hx, if_neg (by simp [hno])]
  · rw [exec_waystationDrain_empty hl he hst hc ho ht hearly ho' hs hfl, State.edgeSettled_direct hc hp hside hr]

end Sys2Proof.Machine

/-! The memory port and the performing of accesses (R187 to R191, R199, R201, R205). -/

namespace Sys2Proof.Machine

/-! ### The head of a memory port (R188 to R190) -/

section
variable {s : State} {a : TileAddr} {acc : Acc} {rest : List Acc} {p : Resident}

/-- An access whose remaining lanes are those that it has. -/
theorem Acc.eta_todo {todo : List (Nat × Nat)} (h : acc.todo = todo) : ({ acc with todo := todo } : Acc) = acc := by
  subst h
  rfl

/-- A lane whose offset is good and which has its place (R189). -/
theorem State.portLanes_ok {s t : State} {b cid : Nat} {acc : Acc} {j off : Nat} {l : Loc} {more : List (Nat × Nat)}
    (hp : acc.instr.perLane = false) (hl : s.locate b cid acc.instr.place.1 acc.instr.place.2.1 off acc.instr.writes = .ok l t) :
    s.portLanes b cid acc ((j, off) :: more) = t.portLanes b cid { acc with locs := acc.locs ++ [(j, l)] } more := by
  simp only [State.portLanes, hp, Bool.false_eq_true, if_false, hl]

/-- A lane that a write finds read-only. -/
theorem State.portLanes_perm {s t : State} {b cid : Nat} {acc : Acc} {j off addr : Nat} {more : List (Nat × Nat)}
    (hp : acc.instr.perLane = false) (hl : s.locate b cid acc.instr.place.1 acc.instr.place.2.1 off acc.instr.writes = .perm addr t) :
    s.portLanes b cid acc ((j, off) :: more) = (t, { acc with todo := (j, off) :: more }, .trap clsPermission j addr) := by
  simp only [State.portLanes, hp, Bool.false_eq_true, if_false, hl]

/-- A lane whose page is missing. -/
theorem State.portLanes_held {b cid j off va : Nat} {more : List (Nat × Nat)} (hp : acc.instr.perLane = false)
    (hl : s.locate b cid acc.instr.place.1 acc.instr.place.2.1 off acc.instr.writes = .held va) :
    s.portLanes b cid acc ((j, off) :: more) = (s, { acc with todo := (j, off) :: more }, .held va j) := by
  simp only [State.portLanes, hp, Bool.false_eq_true, if_false, hl]

/-- A lane of an ldx or stx whose offset is bad. -/
theorem State.portLanes_bad {b cid j off cls : Nat} {more : List (Nat × Nat)} (hp : acc.instr.perLane = true)
    (hb : (s.billet b).addrTrap (s.mtCap b) acc.instr.place.1 acc.instr.place.2.1 off acc.instr.place.2.2 = some cls) :
    s.portLanes b cid acc ((j, off) :: more) = (s, { acc with todo := (j, off) :: more }, .trap cls j off) := by
  simp only [State.portLanes, hp, if_true, hb]

theorem State.locate_scr {b cid win off : Nat} {write : Bool} (h : (nthD {} (s.billet b).mtiles (off / 2 ^ 20) : MTile).role = .addr) :
    s.locate b cid .scr win off write = .ok (.scr (scrKey b (off / 2 ^ 20) (off % 2 ^ 20))) s := by
  simp only [State.locate, if_pos h]

/-- The virtual address of an offset in a window (R188). -/
def Billet.windowVa (x : Billet) (win off : Nat) : Nat := ((Tbl.get win x.windows).getD (0, 0)).1 + off

theorem State.locate_glb {b cid win off : Nat} {write : Bool} {e : Leaf} {t : State}
    (h : s.translateAt b cid ((s.billet b).windowVa win off) write = some (e, t)) : s.locate b cid .glb win off write =
      if write && !e.w then .perm ((s.billet b).windowVa win off) t else if t.outOfReach b e.pa then .lost t else .ok (.glb e.pa e.uncached) t := by
  simp only [Billet.windowVa] at h
  simp only [State.locate, h]
  rfl

theorem State.locate_glb_missing {b cid win off : Nat} {write : Bool} (h : s.translateAt b cid ((s.billet b).windowVa win off) write = none)
    (hc : sideOf b = 0 → s.walkCut cid ((s.billet b).windowVa win off) = false) :
    s.locate b cid .glb win off write = .held ((s.billet b).windowVa win off) := by
  have hno : ¬ (decide (sideOf b = 0) && s.walkCut cid ((s.billet b).windowVa win off)) = true := by
    by_cases hs : sideOf b = 0
    · simp [hs, hc hs]
    · simp [hs]
  simp only [Billet.windowVa] at h hno
  simp only [State.locate, h, if_neg hno]
  rfl

variable (ha : s.active a.b = true) (hport : (s.tile a).port = acc :: rest)
include ha hport

/-- A hint at the head of the port (R201). -/
theorem exec_memoryPortAccess_prf {n : MNode} (hpage : (s.billet a.b).page = some p) (hheld : acc.held = false) (hi : acc.instr = .prf n) :
    exec (.memoryPortAccess a) s = .next ((s.popPort a).prefetch a.b p.cid n (acc.todo.map Prod.snd).sum) := by
  show execMemoryPortAccess a s = _
  simp only [execMemoryPortAccess, ha, if_true, State.portAccess, hport, hpage, hheld, Bool.false_eq_true, if_false, hi]

omit ha hport in
/-- How the port leaves an access (R188 to R190). -/
def State.leavePort (a : TileAddr) (p : Resident) : State × Acc × PortEnd → State
  | (s, acc, .done) => s.portDone a acc
  | (s, acc, .held va lane) => s.holdAccess a acc p va lane
  | (s, acc, .trap cls lane addr) => if acc.locs.isEmpty then (s.popPort a).trapAccess a acc cls lane addr else s.setHead a acc
  | (s, _, .lost) => s.remoteLost a.b

/-- Any other access at the head of the port, by how the port leaves its lanes. -/
theorem exec_memoryPortAccess (hpage : (s.billet a.b).page = some p) (hheld : acc.held = false) (hi : ∀ n, acc.instr ≠ .prf n) :
    exec (.memoryPortAccess a) s = .next (State.leavePort a p (s.portLanes a.b p.cid acc acc.todo)) := by
  show execMemoryPortAccess a s = _
  simp only [execMemoryPortAccess, ha, if_true, State.portAccess, hport, hpage, hheld, Bool.false_eq_true, if_false]
  rfl

omit ha hport

/-- An access that does not release and is no atomic leaves the port in flight. -/
theorem State.portDone_flies (hr : acc.instr.order.releases = false) (hi : acc.instr.atom = none) :
    s.portDone a acc = (s.popPort a).modTile a fun t => { t with flying := t.flying ++ [acc] } := by
  simp only [State.portDone, hr, Bool.false_eq_true, if_false]
  split <;> simp_all [Instr.atom]

section atom
variable {n : MNode} {sp : Space} {o : Order} {op : AtomOp} (hi : acc.instr = .amo n sp o op ∨ acc.instr = .red n sp o op)
  (hr : o.releases = false)
include hi hr

/-- An atomic leaves the port for its unit (R200). -/
theorem State.portDone_atom {u : State} (hu : (s.popPort a).toUnit a acc = some u) : s.portDone a acc = u := by
  rcases hi with h | h <;> simp only [State.portDone, h, Instr.order, hr, Bool.false_eq_true, if_false, hu]

/-- An atomic whose unit is full stays at the port. -/
theorem State.portDone_atom_full (hu : (s.popPort a).toUnit a acc = none) : s.portDone a acc = s.setHead a acc := by
  rcases hi with h | h <;> simp only [State.portDone, h, Instr.order, hr, Bool.false_eq_true, if_false, hu]

end atom

section retry
variable (ha : s.active a.b = true) (hport : (s.tile a).port = acc :: rest)
include ha hport

theorem exec_accessRetry_wakes (hh : acc.held = true) (hw : acc.wake = true) (hab : acc.aborted = false) :
    exec (.accessRetry a) s = .next ((s.setHead a { acc with held := false, wake := false }).portAccess a) := by
  show execAccessRetry a s = _
  simp only [execAccessRetry, ha, if_true, hport, hh, hw, hab, Bool.and_self, Bool.not_true, Bool.false_eq_true, if_false]

theorem exec_accessRetry_aborts (hh : acc.held = true) (hw : acc.wake = true) (hab : acc.aborted = true) :
    exec (.accessRetry a) s = .next (s.abortAccess a acc) := by
  show execAccessRetry a s = _
  simp only [execAccessRetry, ha, if_true, hport, hh, hw, hab, Bool.and_self, Bool.not_true, Bool.false_eq_true, if_false]

theorem exec_accessRetry_asleep (hh : acc.held = true) (hw : acc.wake = false) : exec (.accessRetry a) s = .next s := by
  show execAccessRetry a s = _
  simp only [execAccessRetry, ha, if_true, hport, hh, hw, Bool.and_false, Bool.not_false]

end retry

theorem State.abortAccess_traps {va j off : Nat} {more : List (Nat × Nat)} (hv : (s.billet a.b).heldVa acc = some va)
    (ht : acc.todo = (j, off) :: more) (hl : acc.locs = []) : s.abortAccess a acc = (s.popPort a).trapAccess a acc clsPermission j va := by
  simp only [State.abortAccess, hv, ht, hl, List.isEmpty_nil, if_true]

end

/-! ### The performing of accesses (R187, R191, R205) -/

section
variable {s : State} {a : TileAddr} {k : Nat} {acc : Acc} {before : List Acc} (hp : (s.tile a).performing k = some (before, acc))
include hp

theorem exec_accessComplete_waits (h : acc.ripe (s.now a.b) = false ∨ s.nextWaits before acc = true) :
    exec (.accessComplete a k) s = .next s := by
  show execAccessComplete a k s = _
  simp only [execAccessComplete, hp]
  rw [if_pos (by rcases h with h | h <;> simp [h])]

theorem exec_accessComplete (hu : acc.atUnit = false) (hm : s.mayPerform a k acc = true) (hr : acc.ripe (s.now a.b) = true)
    (hw : s.nextWaits before acc = false) (hs : s.slotFree a.b acc.instr = true) :
    exec (.accessComplete a k) s = .next (s.accessStep a k before acc) := by
  show execAccessComplete a k s = _
  simp only [execAccessComplete, hp]
  rw [if_neg (by simp [hu, hm, hr, hw, hs])]

omit hp

/-- The accesses in flight without the kth. -/
def State.landAcc (s : State) (a : TileAddr) (k : Nat) : State := s.modTile a fun t => { t with flying := t.flying.eraseIdx k }

theorem State.active_not_frozen {b : Nat} (h : s.active b = true) : (s.billet b).isFrozen = false := by
  simp only [State.active, Bool.and_eq_true, Bool.not_eq_true'] at h
  exact h.1.2

/-- In a billet that is not frozen a read binds its value at the place itself. -/
theorem State.bindLoc_active {b : Nat} (h : s.active b = true) (sc : Scope) (l : Loc) (n : Nat) : s.bindLoc b sc l n = s.readLoc b sc false l n := by
  cases l with
  | scr _ => rfl
  | glb pa u => simp [State.bindLoc, State.readLoc, State.active_not_frozen h]

/-- An access with one lane left performs it. -/
theorem State.performSome_one {b j : Nat} {l : Loc} (hl : acc.locs = [(j, l)]) (hw : s.nextWaits before acc = false) :
    s.performSome b before acc = s.draw.2.performLane b acc := by
  have hgo : ¬ (acc.locs.isEmpty || s.draw.2.nextWaits before acc) = true := by
    rw [show s.draw.2.nextWaits before acc = false from hw]
    simp [hl]
  simp only [State.performSome, hl, List.length_singleton, Nat.mod_one, Nat.add_zero]
  exact if_neg hgo

theorem Acc.result_ld {i : Acc} {n : MNode} {sp : Space} {o : Order} (h : i.instr = .ld n sp o) : i.result = i.data := by
  simp only [Acc.result, h]

theorem Acc.result_ldx {i : Acc} {n : MNode} {sp : Space} {o : Order} (h : i.instr = .ldx n sp o) : i.result = i.data := by
  simp only [Acc.result, h]

theorem Acc.result_stx {i : Acc} {n : MNode} {sp : Space} {o : Order} (h : i.instr = .stx n sp o) : i.result = .word 0 := by
  simp only [Acc.result, h]

/-- A ld, ldx or stx whose last lane performs leaves the list of accesses in flight and sends its result, where its billet still runs. -/
theorem State.accessStep_last {j : Nat} {l : Loc} (hb : acc.instr.binds = true) (hr : acc.instr.order.releases = false)
    (hl : acc.locs = [(j, l)]) (hw : s.nextWaits before acc = false) (hlast : (s.draw.2.performLane a.b acc).1.locs = [])
    (hk : k < ((s.draw.2.performLane a.b acc).2.tile a).flying.length) (ha : (s.draw.2.performLane a.b acc).2.active a.b = true) :
    s.accessStep a k before acc = ((s.draw.2.performLane a.b acc).2.landAcc a k).finish a (s.draw.2.performLane a.b acc).1
      (s.draw.2.performLane a.b acc).1.result := by
  have hsome : ((s.draw.2.performLane a.b acc).1.locs.isEmpty && decide (k < ((s.draw.2.performLane a.b acc).2.tile a).flying.length) &&
      (s.draw.2.performLane a.b acc).2.active a.b) = true := by simp [hlast, hk, ha]
  simp only [State.accessStep, hb, hr, if_true, Bool.false_eq_true, if_false, State.performSome_one hl hw, if_pos hsome]
  rfl

/-- An access that performs as one event leaves the list of accesses in flight first. -/
theorem State.accessStep_whole (hb : acc.instr.binds = false) (ha : s.active a.b = true) :
    s.accessStep a k before acc = (s.landAcc a k).performAcc a acc := by
  simp only [State.accessStep, hb, Bool.false_eq_true, if_false, State.active_not_frozen ha]
  rfl

variable {n : MNode} {sp : Space} {o : Order} {j : Nat} {l : Loc} (hl : acc.locs = [(j, l)]) (ha : s.active a.b = true)
include hl

include ha in
theorem State.performLane_ld (hi : acc.instr = .ld n sp o) : s.performLane a.b acc =
    ({ acc with locs := [], data := payOfBytes n.w (s.readLoc a.b acc.instr.scope false l n.w.bytes).1 },
      (s.readLoc a.b acc.instr.scope false l n.w.bytes).2) := by
  simp only [State.performLane, hl, hi, State.bindLoc_active ha]

include ha in
theorem State.performLane_ldx (hi : acc.instr = .ldx n sp o) : s.performLane a.b acc =
    ({ acc with locs := [], data := .vec (setNth j (wordOfBytes (s.readLoc a.b acc.instr.scope false l n.w.bytes).1) acc.data.toVec) },
      (s.readLoc a.b acc.instr.scope false l n.w.bytes).2) := by
  simp only [State.performLane, hl, hi, State.bindLoc_active ha]

theorem State.performLane_stx (hi : acc.instr = .stx n sp o) : s.performLane a.b acc =
    ({ acc with locs := [] }, s.writeLoc a.b acc.instr.scope false l (bytesOf n.w.bytes (nthD 0 acc.data.toVec j).toNat)) := by
  simp only [State.performLane, hl, hi]

variable {g : GNode} {glb : Bool} {c : WatchCond} (hi : acc.instr = .wtaddr g glb c) (hrep : acc.reply = none)
include hi hrep

/-- A wtaddr reads its word: it sends it where the condition holds, and takes a watch unit where it does not (R205). -/
theorem State.performAcc_wtaddr : s.performAcc a acc =
    if watchHolds c (wordOfBytes (s.readLoc a.b acc.instr.scope false l 4).1) acc.data.lane0 then
      (s.readLoc a.b acc.instr.scope false l 4).2.finish a acc (.word (wordOfBytes (s.readLoc a.b acc.instr.scope false l 4).1))
    else (s.readLoc a.b acc.instr.scope false l 4).2.modBillet a.b fun x =>
      { x with watches := x.watches ++ [⟨a.t, acc, l, false, (s.readLoc a.b acc.instr.scope false l 4).2.now a.b + 1024⟩] } := by
  have hacc : ({ acc with reply := none } : Acc) = acc := by
    rw [← hrep]
  have hfirst : firstLoc acc = l := by simp only [firstLoc, hl]
  simp only [State.performAcc, hi, hrep, hfirst]
  rw [← hi, hacc]

end

/-- Settles O39: the head of the port by its lanes, and an access in flight by its kind. -/
theorem accessesPerform : Obligations.AccessesPerform := by
  constructor
  · intro s a acc rest p n o sp off j cls va more i op base placed here ha hport hpage
    refine ⟨fun hi hai hheld htodo hrole => ?_, fun hi hr hai hheld htodo hrole => ?_, fun e s1 hi hr hai hheld htodo htr => ?_,
      fun hai hheld => exec_memoryPortAccess_prf ha hport hpage hheld hai, fun hi hai hheld hlocs htodo hbad => ?_,
      fun hi hai hheld htodo htr hcut => ?_, exec_accessRetry_wakes ha hport, fun hh hw hab hlocs htodo hva => ?_,
      exec_accessRetry_asleep ha hport⟩
    · have hport' := exec_memoryPortAccess ha hport hpage hheld (by rcases hi with rfl | rfl <;> simp [hai])
      rw [hport', htodo, State.portLanes_ok (by rcases hi with rfl | rfl <;> rw [hai] <;> rfl)
        (by rcases hi with rfl | rfl <;> rw [hai] <;> exact State.locate_scr hrole)]
      exact congrArg _ (State.portDone_flies (by rcases hi with rfl | rfl <;> rw [hai] <;> rfl)
        (by rcases hi with rfl | rfl <;> rw [hai] <;> rfl))
    · have hport' := exec_memoryPortAccess ha hport hpage hheld (by rcases hi with rfl | rfl <;> simp [hai])
      have hlanes : s.portLanes a.b p.cid acc acc.todo = (s, placed here, .done) := by
        rw [htodo, State.portLanes_ok (by rcases hi with rfl | rfl <;> rw [hai] <;> rfl)
          (by rcases hi with rfl | rfl <;> rw [hai] <;> exact State.locate_scr hrole)]
        rfl
      have hatom : (placed here).instr = .amo n .scr o op ∨ (placed here).instr = .red n .scr o op := by
        rcases hi with rfl | rfl
        · exact .inl hai
        · exact .inr hai
      refine ⟨fun u hu => ?_, fun hu => ?_⟩
      · rw [hport', hlanes]
        exact congrArg _ (State.portDone_atom hatom hr hu)
      · rw [hport', hlanes]
        exact congrArg _ (State.portDone_atom_full hatom hr hu)
    · have hport' := exec_memoryPortAccess ha hport hpage hheld (by rcases hi with rfl | rfl <;> simp [hai])
      have hlane : acc.instr.perLane = false := by rcases hi with rfl | rfl <;> rw [hai] <;> rfl
      have hloc : s.locate a.b p.cid acc.instr.place.1 acc.instr.place.2.1 off acc.instr.writes =
          if i.writes && !e.w then .perm base s1 else if s1.outOfReach a.b e.pa then .lost s1 else .ok (.glb e.pa e.uncached) s1 := by
        rw [hai]
        rcases hi with rfl | rfl <;> exact State.locate_glb htr
      refine ⟨fun hw hreach => ?_, fun hwr hw hlocs => ?_⟩
      · have hok : ¬ (i.writes && !e.w) = true := by
          cases hwr : i.writes <;> simp [hwr, hw]
        rw [hport', htodo, State.portLanes_ok hlane (hloc.trans ((if_neg hok).trans (if_neg (by simp [hreach]))))]
        exact congrArg _ (State.portDone_flies (by rcases hi with rfl | rfl <;> rw [hai] <;> exact hr)
          (by rcases hi with rfl | rfl <;> rw [hai] <;> rfl))
      · have hno : (i.writes && !e.w) = true := by simp [hwr, hw]
        rw [hport', htodo, State.portLanes_perm hlane (hloc.trans (if_pos hno)), Acc.eta_todo htodo]
        exact congrArg _ (if_pos (by simp [hlocs]))
    · have hport' := exec_memoryPortAccess ha hport hpage hheld (by rcases hi with rfl | rfl <;> simp [hai])
      rw [hport', htodo, State.portLanes_bad (by rcases hi with rfl | rfl <;> rw [hai] <;> rfl)
        (by rcases hi with rfl | rfl <;> rw [hai] <;> exact hbad), Acc.eta_todo htodo]
      exact congrArg _ (if_pos (by simp [hlocs]))
    · have hport' := exec_memoryPortAccess ha hport hpage hheld (by rcases hi with rfl | rfl <;> simp [hai])
      rw [hport', htodo, State.portLanes_held (by rcases hi with rfl | rfl <;> rw [hai] <;> rfl)
        (by rcases hi with rfl | rfl <;> rw [hai] <;> exact State.locate_glb_missing htr hcut), Acc.eta_todo htodo]
      rfl
    · rw [exec_accessRetry_aborts ha hport hh hw hab, State.abortAccess_traps hva htodo hlocs]
  · intro s a k j acc before n g glb c sp o l scope gone stays hp hu
    refine ⟨exec_accessComplete_waits hp, fun ha hm hr hw hl ho => ⟨⟨fun hi hst => ?_, fun hi hst => ?_⟩, fun hi => ?_,
      fun hi hrep => ?_⟩⟩
    · have hlane := State.performLane_ld (s := s.draw.2) hl ha hi
      rw [exec_accessComplete hp hu hm hr hw (by rw [hi]; rfl), State.accessStep_last (by rw [hi]; rfl) (by rw [hi]; exact ho) hl hw
        (by rw [hlane]) (by rw [hlane]; exact hst.1) (by rw [hlane]; exact hst.2), hlane,
        Acc.result_ld (i := { acc with locs := [], data := _ }) hi]
      rfl
    · have hlane := State.performLane_ldx (s := s.draw.2) hl ha hi
      intro v
      rw [exec_accessComplete hp hu hm hr hw (by rw [hi]; rfl), State.accessStep_last (by rw [hi]; rfl) (by rw [hi]; exact ho) hl hw
        (by rw [hlane]) (by rw [hlane]; exact hst.1) (by rw [hlane]; exact hst.2), hlane,
        Acc.result_ldx (i := { acc with locs := [], data := _ }) hi]
      rfl
    · have hlane := State.performLane_stx (s := s.draw.2) (a := a) hl hi
      intro t hst
      rw [exec_accessComplete hp hu hm hr hw (by rw [hi]; rfl), State.accessStep_last (by rw [hi]; rfl) (by rw [hi]; exact ho) hl hw
        (by rw [hlane]) (by rw [hlane]; exact hst.1) (by rw [hlane]; exact hst.2), hlane,
        Acc.result_stx (i := { acc with locs := [] }) hi]
      rfl
    · have hperf : exec (.accessComplete a k) s = .next ((s.landAcc a k).performAcc a acc) := by
        rw [exec_accessComplete hp hu hm hr hw (by rw [hi]; rfl), State.accessStep_whole (by rw [hi]; rfl) ha]
      rw [State.performAcc_wtaddr hl hi hrep] at hperf
      exact ⟨fun hc => hperf.trans (congrArg _ (if_pos hc)), fun hc => hperf.trans (congrArg _ (if_neg (Bool.eq_false_iff.mp hc)))⟩

end Sys2Proof.Machine

/-! # Releases, watch units and wait slots -/

namespace Sys2Proof.Machine

section Releases
variable {s : State} {b k : Nat} {r : Release} {rs : List Release} (ha : s.active b = true)
  (ht : takeNth k (s.billet b).releases = some (r, rs))
include ha ht

/-- A release whose billet has earlier accesses to perform, or that is not six fc old, waits (R196). -/
theorem exec_releaseComplete_waits (h : ((s.billet b).releaseReady r && r.acc.ripe (s.now b)) = false) :
    exec (.releaseComplete b k) s = .next s := by
  show execReleaseComplete b k s = _
  simp only [execReleaseComplete, ha, if_true, ht, h]
  rfl

/-- A release that is ready writes its caches back and performs (R196). -/
theorem exec_releaseComplete (hready : (s.billet b).releaseReady r = true) (hripe : r.acc.ripe (s.now b) = true) :
    exec (.releaseComplete b k) s =
      .next (((s.releaseCaches b r.scope).modBillet b fun x => { x with releases := rs }).performRelease b r s) := by
  show execReleaseComplete b k s = _
  simp only [execReleaseComplete, ha, if_true, ht, hready, hripe, Bool.and_self]

end Releases

section Performing
variable {s back : State} {b : Nat} {r : Release}

theorem State.performRelease_st {n : MNode} {sp : Space} {o : Order} (hi : r.acc.instr = .st n sp o) :
    s.performRelease b r back = s.performAcc ⟨b, r.tile⟩ r.acc := by
  simp only [State.performRelease, hi]

theorem State.performRelease_tlinc {n : GNode} (hi : r.acc.instr = .tlinc n) :
    s.performRelease b r back =
      (s.modBillet b fun x => { x with tlu := setNth (n.imm % 8) (nthD 0 (s.billet b).tlu (n.imm % 8) + 1 : BitVec 64) x.tlu }).finish
        ⟨b, r.tile⟩ r.acc (.word (half (nthD 0 (s.billet b).tlu (n.imm % 8) + 1) false)) := by
  simp only [State.performRelease, hi]

theorem State.performRelease_fence {n : MNode} {o : Order} (hi : r.acc.instr = .fence n o) :
    s.performRelease b r back = s.finish ⟨b, r.tile⟩ r.acc r.acc.data := by
  simp only [State.performRelease, hi]

theorem State.performRelease_chk {n : GNode} {c : ChkFlag} {l : Launch} {page : Nat} (hi : r.acc.instr = .chk n c)
    (ho : s.owner b = some (l, page)) :
    s.performRelease b r back =
      { s.finish ⟨b, r.tile⟩ r.acc (.word (if l.chk.isNone && !s.chkDue l.id then 0 else 1)) with
        due := (s.finish ⟨b, r.tile⟩ r.acc (.word (if l.chk.isNone && !s.chkDue l.id then 0 else 1))).due ++
          [.chk l.id (ChkFlag.bits c) r.acc.data.lane0] } := by
  simp only [State.performRelease, hi, State.performChk, ho]

theorem State.performRelease_halt {n : GNode} {l : Launch} {page : Nat} (hi : r.acc.instr = .halt n) (ho : s.owner b = some (l, page)) :
    s.performRelease b r back = { s with due := s.due ++ [.halt l.id] } := by
  simp only [State.performRelease, hi, State.performHalt, ho]

end Performing

section Watches
variable {s : State} {b k : Nat} {w : Watch} {ws : List Watch} (ha : s.active b = true)
  (ht : takeNth k (s.billet b).watches = some (w, ws))
include ha ht

/-- A watch unit that nothing has hit waits for its time (R205). -/
theorem exec_watchReread_waits (hh : w.hit = false) (hn : s.now b < w.next) : exec (.watchReread b k) s = .next s := by
  show execWatchReread b k s = _
  simp only [execWatchReread, ha, if_true, ht, hh, Nat.not_le.mpr hn, decide_false, Bool.or_self, Bool.false_and]
  rfl

/-- A watch unit that was hit, or whose time has come, reads its word at its home (R205). -/
theorem exec_watchReread {n : GNode} {g : Bool} {c : WatchCond} (hi : w.acc.instr = .wtaddr n g c) (hbad : s.badAmong [w.loc] = none)
    (hw : w.hit = true ∨ w.next ≤ s.now b) :
    exec (.watchReread b k) s = .next (if watchHolds c (wordOfBytes (s.atHome w.loc 4)) w.acc.data.lane0 then
      (s.modBillet b fun x => { x with watches := ws }).finish ⟨b, w.tile⟩ w.acc (.word (wordOfBytes (s.atHome w.loc 4)))
      else s.modBillet b fun x => { x with watches := setNth k { w with hit := false, next := s.now b + 1024 } x.watches }) := by
  have hgo : ((w.hit || decide (w.next ≤ s.now b)) && (s.badAmong [w.loc]).isNone) = true := by simp [hbad, hw]
  show execWatchReread b k s = _
  simp only [execWatchReread, ha, if_true, ht, if_pos hgo, hi]

end Watches

section WaitSlots
variable {s : State} {a : TileAddr} {k : Nat} {u : WaitSlot} {us : List WaitSlot} (ha : s.active a.b = true)
  (ht : takeNth k (s.tile a).slots = some (u, us))
include ha ht

/-- A wait slot whose condition fails waits (R204, R208). -/
theorem exec_waitSlotDeliver_waits (h : s.waitHolds a u = false) : exec (.waitSlotDeliver a k) s = .next s := by
  show execWaitSlotDeliver a k s = _
  simp only [execWaitSlotDeliver, ha, if_true, ht, h, Bool.and_false]
  rfl

variable (hage : u.issue + 6 ≤ s.now a.b) (h : s.waitHolds a u = true)
include hage h

theorem exec_waitSlotDeliver_waitq {n : GNode} (hi : u.instr = .waitq n) :
    exec (.waitSlotDeliver a k) s = .next ((s.modTile a fun t => { t with slots := us }).deliver a u.id u.tok.tag u.tok.pay) := by
  show execWaitSlotDeliver a k s = _
  simp only [execWaitSlotDeliver, ha, if_true, ht, hage, decide_true, h, Bool.and_self, hi]

/-- A tlwait acquires as it delivers (R208). -/
theorem exec_waitSlotDeliver_tlwait {n : GNode} (hi : u.instr = .tlwait n) :
    exec (.waitSlotDeliver a k) s =
      .next (((s.modTile a fun t => { t with slots := us }).acquireCaches a.b n.scope).deliver a u.id u.tok.tag u.tok.pay) := by
  show execWaitSlotDeliver a k s = _
  simp only [execWaitSlotDeliver, ha, if_true, ht, hage, decide_true, h, Bool.and_self, hi]

end WaitSlots

/-- Settles O41: each form of a release, of a watch unit and of a wait slot by its rule. -/
theorem releasesPerform : Obligations.ReleasesPerform := by
  intro s b k r rs n m o sp c l page w ws g wc a u us s' at_ word
  refine ⟨fun ha ht => ⟨exec_releaseComplete_waits ha ht, fun hready hripe => ?_⟩, fun ha ht hi hbad => ⟨exec_watchReread_waits ha ht, ?_, ?_⟩,
    fun ha ht hage => ⟨exec_waitSlotDeliver_waits ha ht, fun hi h => exec_waitSlotDeliver_waitq ha ht hage h hi,
      fun hi h => exec_waitSlotDeliver_tlwait ha ht hage h hi⟩⟩
  · have hgo := exec_releaseComplete ha ht hready hripe
    exact ⟨fun hi => hgo.trans (congrArg _ (State.performRelease_st hi)), fun hi => hgo.trans (congrArg _ (State.performRelease_tlinc hi)),
      fun hi => hgo.trans (congrArg _ (State.performRelease_fence hi)), fun hi ho => hgo.trans (congrArg _ (State.performRelease_chk hi ho)),
      fun hi ho => hgo.trans (congrArg _ (State.performRelease_halt hi ho))⟩
  · exact fun hw hc => (exec_watchReread ha ht hi hbad hw).trans (congrArg _ (if_pos hc))
  · exact fun hw hc => (exec_watchReread ha ht hi hbad hw).trans (congrArg _ (if_neg (Bool.eq_false_iff.mp hc)))

end Sys2Proof.Machine

/-! # Units of atomics, the copy engine and the filling of ring tiles -/

namespace Sys2Proof.Machine

section Units
variable {s : State} {group : List Nat} {o : SparseOp} {os : List SparseOp} {op : AtomOp} {vec merge : Bool} {m c : Nat}
  (hg : (groupOf s.sparse group).map Prod.fst = o :: os) (hok : s.groupOk (o :: os) = true)
  (hmay : ((groupOf s.sparse group).all fun p => s.mayApply p.2 p.1) = true)
include hg hok hmay

/-- A group of atomics that may be applied leaves its unit (R198, R200). -/
theorem exec_sparseUpdateApply_atoms (hc : o.coord = none) (hi : o.instr.atom = some (op, vec, merge)) :
    exec (.sparseUpdateApply group) s =
      .next ({ s with sparse := (s.sparse.zipIdx.filter fun (p : SparseOp × Nat) => group.contains p.2 = false).map Prod.fst }.applyAtoms
        o op vec (o :: os)) := by
  show execSparseUpdateApply group s = _
  simp only [execSparseUpdateApply, hg, hok, hmay, Bool.and_self, if_true, hc, hi]

/-- A group of spacc updates that may be applied leaves its unit (R236). -/
theorem exec_sparseUpdateApply_spacc (hc : o.coord = some (m, c)) :
    exec (.sparseUpdateApply group) s =
      .next (({ s with sparse := (s.sparse.zipIdx.filter fun (p : SparseOp × Nat) => group.contains p.2 = false).map Prod.fst }.applySpacc
        o.tile.b m c (o :: os)).sparseAll (fun _ => .word 0) (o :: os)) := by
  show execSparseUpdateApply group s = _
  simp only [execSparseUpdateApply, hg, hok, hmay, Bool.and_self, if_true, hc]

end Units

section Copies
variable {s s1 s2 : State} {b c : Nat} {k : Copy} {ks : List Copy} {p : Resident} {dst : List Loc} {vs : List Byte} {e : CopyStop}

/-- The context whose turn it is moves its copy's next granule (R211). -/
theorem exec_copyGranuleMove (ha : s.active b = true) (hn : (s.billet b).nextCopy = some c)
    (hq : (nthD {} (s.billet b).ctxs c : CopyCtx).queue = k :: ks) (hp : (s.billet b).page = some p) (hab : k.aborted = false) :
    exec (.copyGranuleMove b c) s = .next (s.moveGranule b c k p) := by
  have hgo : (s.active b && (s.billet b).nextCopy == some c) = true := by simp [ha, hn]
  show execCopyGranuleMove b c s = _
  simp only [execCopyGranuleMove, if_pos hgo, hq, hp, hab, Bool.false_eq_true, if_false]

/-- A granule whose bytes are placed and read is written in one piece (R211). -/
theorem State.moveGranule_moves (hd : s.copyDest b p.cid k k.piece = .ok (dst, s1)) (hs : s1.copySource b p.cid k k.piece = .ok (vs, s2)) :
    s.moveGranule b c k p =
      ((((s2.writeLocs b k.scope (dst.zip vs)).modCopy b c fun q => { q with done := q.after, held := none, wake := false }).modCopyCtx b c
        fun x => { x with moved := 1 }).modBillet b fun x =>
          { x with rrCopy := c, rings := x.rings.map fun q => (q.1, if k.ring = some q.1 then { q.2 with claim := some (copyFiller c) } else q.2) }) := by
  simp only [State.moveGranule, hd, hs]

theorem State.moveGranule_source_stops (hd : s.copyDest b p.cid k k.piece = .ok (dst, s1))
    (hs : s1.copySource b p.cid k k.piece = .error (s2, e)) : s.moveGranule b c k p = s2.copyStops b c k p e := by
  simp only [State.moveGranule, hd, hs]

theorem State.moveGranule_dest_stops (hd : s.copyDest b p.cid k k.piece = .error (s1, e)) :
    s.moveGranule b c k p = s1.copyStops b c k p e := by
  simp only [State.moveGranule, hd]

variable (ha : s.active b = true) (hq : (nthD {} (s.billet b).ctxs c : CopyCtx).queue = k :: ks) (hp : (s.billet b).page = some p)
  (hheld : k.held = none) (hab : k.aborted = false) (hdone : k.total ≤ k.done) (hdr : (s.billet b).copyDrained c k = true)
include ha hq hp hheld hab hdone hdr

/-- A copy that is done makes TLC its number, or writes its signal first (R211). -/
theorem exec_copyComplete : exec (.copyComplete b c) s =
    .next (if bits (dw k.desc 10) 16 2 = 3 then s.copyDone b c k else s.copySignal b c k p) := by
  have hgo : ¬ ((k.held.isSome && !k.wake) || decide (k.done < k.total) || !(s.billet b).copyDrained c k) = true := by
    simp [hheld, Nat.not_lt.mpr hdone, hdr]
  show execCopyComplete b c s = _
  simp only [execCopyComplete, ha, if_true, hq, hp, if_neg hgo, hab, Bool.false_eq_true, if_false]

end Copies

/-- A signal that can be placed is written as a release at the copy's scope (R211). -/
theorem State.copySignal_writes {s s1 : State} {b c : Nat} {k : Copy} {p : Resident} {l : Loc}
    (ht : (s.billet b).addrTrap (s.mtCap b) (copySpace k.desc 16 18).1 (copySpace k.desc 16 18).2 (dw k.desc 8).toNat 4 = none)
    (hl : s.locate b p.cid (copySpace k.desc 16 18).1 (copySpace k.desc 16 18).2 (dw k.desc 8).toNat true = .ok l s1) :
    s.copySignal b c k p = ((s1.releaseCaches b k.scope).writeLoc b k.scope false l (bytesOfWord (dw k.desc 9))).copyDone b c k := by
  simp only [State.copySignal, ht, hl]

section Rings
variable {s : State} {b r t pos : Nat} {g : Ring} (ha : s.active b = true) (hr : Tbl.get r (s.billet b).rings = some g)
  (hc : g.claim = some (t, pos)) (hf : (s.billet b).fillDone r g = true)
include ha hr hc hf

/-- The tail tile that its filler has written becomes FULL (R225), and a node that filled it begins the next one at row 0. -/
theorem exec_ringTileFilled : exec (.ringTileFilled b r) s =
    .next (if t ≥ 8 then s.modBillet b fun x => { x with rings := Tbl.put r g.filled x.rings }
      else (s.modBillet b fun x => { x with rings := Tbl.put r g.filled x.rings }).modTile ⟨b, t⟩ fun x =>
        x.modNode pos fun n => { n with rpushRow := 0 }) := by
  show execRingTileFilled b r s = _
  simp only [execRingTileFilled, ha, if_true, hr, hf, hc]

end Rings

/-- Settles O42: groups of operations at their units, then a copy's granule and its end, then a filled ring tile. -/
theorem unitsAndCopies : Obligations.UnitsAndCopies := by
  constructor
  · intro s group o os op vec merge m c g s' hg hok hmay
    exact ⟨exec_sparseUpdateApply_atoms hg hok hmay, exec_sparseUpdateApply_spacc hg hok hmay⟩
  · intro s s1 s2 b c k ks p r g t pos dst vs e l full sp off signals done ha
    refine ⟨fun hn hq hp hab => ?_, fun hq hp hheld hab hdone hdr => ?_, fun hr hc hf => ?_⟩
    · have hgo := exec_copyGranuleMove ha hn hq hp hab
      exact ⟨fun hd hs => hgo.trans (congrArg _ (State.moveGranule_moves hd hs)),
        fun hd hs => hgo.trans (congrArg _ (State.moveGranule_source_stops hd hs)),
        fun hd => hgo.trans (congrArg _ (State.moveGranule_dest_stops hd))⟩
    · have hgo := exec_copyComplete ha hq hp hheld hab hdone hdr
      exact ⟨fun hs => hgo.trans (congrArg _ (if_pos (not_not.mp hs))),
        fun hs ht hl => hgo.trans (congrArg _ ((if_neg hs).trans (State.copySignal_writes ht hl)))⟩
    · have hgo := exec_ringTileFilled ha hr hc hf
      exact ⟨fun ht => hgo.trans (congrArg _ (if_neg (Nat.not_le.mpr ht))), fun ht => hgo.trans (congrArg _ (if_pos ht))⟩

end Sys2Proof.Machine

/-! # The matrix engine's reads and steps, and what mzero, mdrain and spflush do after their issue -/

namespace Sys2Proof.Machine

section Pairs
variable {s : State} {a : TileAddr} {p : MPair} {ps : List MPair} {x : XX} {first last : Bool} {ty : AccTy} {ga gb : Ring}
  (ha : s.active a.b = true)
include ha

/-- The one pair of a tile reads its operands when its time is over (R233). -/
theorem exec_mmaReadsComplete_one (hm : (s.tile a).mmaAt p.pos = some (x, first, last, ty)) (hps : (s.tile a).mpairs = [p]) :
    exec (.mmaReadsComplete a) s = .next (if p.readsIn (s.now a.b) then s.readPair a x p else s) := by
  show execMmaReadsComplete a s = _
  simp only [execMmaReadsComplete, ha, if_true, hps, State.readsDue, hm]

/-- The first pair of a tile waits for the fc of its step (R233). -/
theorem exec_mmaStepApply_waits (hps : (s.tile a).mpairs = p :: ps) (hn : s.now a.b < p.start + p.p + 4) :
    exec (.mmaStepApply a) s = .next s := by
  show execMmaStepApply a s = _
  simp only [execMmaStepApply, ha, if_true, hps, Nat.not_le.mpr hn, decide_false, Bool.and_false]
  rfl

/-- The first pair of a tile applies its step (R232, R233). -/
theorem exec_mmaStepApply (hps : (s.tile a).mpairs = p :: ps) (hpa : p.a ≠ []) (hpb : p.b ≠ []) (hn : p.start + p.p + 4 ≤ s.now a.b) :
    exec (.mmaStepApply a) s = .next (s.applyPair a p) := by
  have hgo : (!p.a.isEmpty && !p.b.isEmpty && decide (p.start + p.p + 4 ≤ s.now a.b)) = true := by simp [hpa, hpb, hn]
  show execMmaStepApply a s = _
  simp only [execMmaStepApply, ha, if_true, hps, hgo]

end Pairs

/-- A tile after the step of its first pair. -/
def Tile.stepped (t : Tile) (p : MPair) (ty : AccTy) (rs : List (Word × Flags)) : Tile :=
  { t with
    mpairs := t.mpairs.drop 1
    fflags := t.fflags ||| flagsOr (rs.map Prod.snd)
    flagsNow := t.flagsNow ||| flagsOr (rs.map Prod.snd)
    acc := modNth (fun (c : Accum) => { c with words := rs.map Prod.fst, ty := ty }) p.acc t.acc }

/-- A pair's step writes the accumulator's words, and the last one retires its accumulation (R232). -/
theorem State.applyPair_eq {s : State} {a : TileAddr} {p : MPair} {x : XX} {first last : Bool} {ty : AccTy} {ga gb : Ring}
    (hm : (s.tile a).mmaAt p.pos = some (x, first, last, ty)) (hga : (s.billet a.b).ring? x.ra.toNat = some ga)
    (hgb : (s.billet a.b).ring? x.rb.toNat = some gb) :
    s.applyPair a p = s.modTile a fun t =>
      let u := t.stepped p ty (stepTile x ty ga.fmt gb.fmt (min (ringK ga.fmt) (ringK gb.fmt)) p.part (p.first && first)
        (nthD {} (s.tile a).acc p.acc : Accum).words p.a p.b)
      if p.last then u.retire x last p else u := by
  simp only [State.applyPair, hm, hga, hgb]
  rfl

/-- mzero empties those of its tiles that nothing uses, and delivers with the last (R229). -/
theorem exec_mzeroComplete {s : State} {a : TileAddr} {k : Nat} {z : MZero} {zs : List MZero} (ha : s.active a.b = true)
    (ht : takeNth k (s.tile a).mzeros = some (z, zs)) :
    let ready := z.wait.filter fun j => (nthD {} (s.tile a).acc j : Accum).claim.isNone && !(s.tile a).draining j
    let left := z.wait.filter fun j => !ready.contains j
    (left = [] → exec (.mzeroComplete a k) s =
      .next ((s.modTile a fun t => { (t.emptyAcc ready) with mzeros := zs }).deliver a z.id z.tag z.pay)) ∧
    (left ≠ [] → exec (.mzeroComplete a k) s =
      .next (s.modTile a fun t => { (t.emptyAcc ready) with mzeros := setNth k { z with wait := left } t.mzeros })) := by
  intro ready left
  have hgo : exec (.mzeroComplete a k) s = .next (if left.isEmpty then
      (s.modTile a fun t => { (t.emptyAcc ready) with mzeros := if left.isEmpty then zs else setNth k { z with wait := left } t.mzeros }).deliver
        a z.id z.tag z.pay
      else s.modTile a fun t => { (t.emptyAcc ready) with mzeros := if left.isEmpty then zs else setNth k { z with wait := left } t.mzeros }) := by
    show execMzeroComplete a k s = _
    simp only [execMzeroComplete, ha, if_true, ht]
    rfl
  refine ⟨fun hl => ?_, fun hl => ?_⟩
  · rw [hgo, hl]
    rfl
  · have hne : ¬ left.isEmpty = true := by simpa using hl
    rw [hgo, if_neg hne]
    simp only [if_neg hne]

section Drains
variable {s : State} {n : NodeAddr} {g : GNode} {d : Drain} {ch : BitVec 5} (ha : s.active n.b = true)
  (hi : (s.tile n.tileAddr).instrAt n.blk n.slot = some (.mdrain g)) (hd : (s.node n).drain = some d) (hn : d.next ≤ s.now n.b)
  (hc : g.t0 = .chan ch)
include ha hi hd hn hc

/-- A drain whose next row is due sends it (R234). -/
theorem exec_mdrainRow : exec (.mdrainRow n) s = .next (s.sendRow n g d ch.toNat) := by
  show execMdrainRow n s = _
  simp only [execMdrainRow, ha, if_true, hi, hd, if_pos hn, hc]

end Drains

section Rows
variable {s : State} {n : NodeAddr} {g : GNode} {d : Drain} {ch v : Nat}

theorem State.sendRow_discards (hd : d.dest = none) : s.sendRow n g d ch = s.modTile n.tileAddr fun t => t.rowLeft n g d (s.now n.b) := by
  simp only [State.sendRow, hd]

theorem State.sendRow_waits (hd : d.dest = some v) (hoff : (s.billet n.b).chanOff (s.mtCap n.b) (s.now n.b) n.t ch (some v) = true) :
    s.sendRow n g d ch = s.modNode n (Node.waits 4) := by
  simp only [State.sendRow, hd, hoff, if_true]

theorem State.sendRow_sends (hd : d.dest = some v) (hoff : (s.billet n.b).chanOff (s.mtCap n.b) (s.now n.b) n.t ch (some v) = false) :
    s.sendRow n g d ch = s.modTile n.tileAddr fun t =>
      { (t.rowLeft n g d (s.now n.b)) with
        pool := t.pool ++ [{ ch := ch, tok := ⟨rowTag d.tag d.row,
          ((s.tile n.tileAddr).drainRow ch (nthD {} (s.tile n.tileAddr).acc d.acc) d.row (s.now n.b)).1⟩, row := some v }]
        fflags := t.fflags ||| ((s.tile n.tileAddr).drainRow ch (nthD {} (s.tile n.tileAddr).acc d.acc) d.row (s.now n.b)).2
        flagsNow := t.flagsNow ||| ((s.tile n.tileAddr).drainRow ch (nthD {} (s.tile n.tileAddr).acc d.acc) d.row (s.now n.b)).2 } := by
  simp only [State.sendRow, hd, hoff, Bool.false_eq_true, if_false]

end Rows

/-- A flush whose next entry is due goes on, once nothing of its M-tile issued before it is left (R237). -/
theorem exec_spflushEntry {s : State} {n : NodeAddr} {g : GNode} {rm : Round} {f : Flush} (ha : s.active n.b = true)
    (hi : (s.tile n.tileAddr).instrAt n.blk n.slot = some (.spflush g rm)) (hf : (s.node n).flush = some f) (hn : f.next ≤ s.now n.b)
    (hb : f.started = true ∨ s.spaccBefore n.b (g.xmod % 8) f.issue = false) :
    exec (.spflushEntry n) s = .next (s.flushNext n g rm { f with started := true }) := by
  have hgo : ¬ (!f.started && s.spaccBefore n.b (g.xmod % 8) f.issue) = true := by rcases hb with hb | hb <;> simp [hb]
  show execSpflushEntry n s = _
  simp only [execSpflushEntry, ha, if_true, hi, hf, if_neg (Nat.not_lt.mpr hn), if_neg hgo]

section Flushes
variable {s : State} {n : NodeAddr} {g : GNode} {rm : Round} {f : Flush} {c : Nat} {w : Word}
  (hroom : s.takesNow n { f.tag.asData with iter := BitVec.ofNat 16 f.sent } (tgts (.spflush g rm)) = .ok)
include hroom

theorem State.flushNext_ends (he : s.flushEntry n.b (g.xmod % 8) f.floor = none) :
    s.flushNext n g rm f = (s.sendNow n { { f.tag.asData with iter := BitVec.ofNat 16 f.sent } with kind := .fin }
      (.word (BitVec.ofNat 32 (g.imm % 8))) (tgts (.spflush g rm))).modNode n fun x => { x with flush := none } := by
  simp only [State.flushNext, hroom, ne_eq, not_true_eq_false, if_false, he]

theorem State.flushNext_sends (he : s.flushEntry n.b (g.xmod % 8) f.floor = some (c, w)) :
    s.flushNext n g rm f =
      ((((s.sendNow n { f.tag.asData with iter := BitVec.ofNat 16 f.sent }
        (.word (BitVec.ofNat 32 (c * 65536 + FFmt.encode .f16 (roundDir .f16 rm (f32Of w)).1))) (tgts (.spflush g rm))).modTile n.tileAddr
          fun t => { t with fflags := t.fflags ||| (roundDir .f16 rm (f32Of w)).2, flagsNow := t.flagsNow ||| (roundDir .f16 rm (f32Of w)).2 }).modBillet
            n.b fun x => { x with mtiles := modNth (fun (t : MTile) => { t with spacc := Tbl.del c t.spacc }) (g.xmod % 8) x.mtiles }).modNode n
              fun x => { x with flush := some { f with sent := f.sent + 1, floor := c + 1, next := s.now n.b + 1 } }) := by
  simp only [State.flushNext, hroom, ne_eq, not_true_eq_false, if_false, he]

end Flushes

/-- Settles O43: the pairs of the engine, then what mzero, mdrain and spflush still have to do. -/
theorem matrixApplies : Obligations.MatrixApplies := by
  constructor
  · intro s a p ps x first last ty ga gb kc rs stepped ha hm
    refine ⟨fun hps => ?_, fun hps hpa hpb hn hga hgb => ?_, exec_mmaStepApply_waits ha⟩
    · have hgo := exec_mmaReadsComplete_one ha hm hps
      exact ⟨fun hn => hgo.trans (congrArg _ (if_pos (decide_eq_true hn))),
        fun hn => hgo.trans (congrArg _ (if_neg (by simpa [MPair.readsIn] using hn)))⟩
    · have hgo := (exec_mmaStepApply ha hps hpa hpb hn).trans (congrArg _ (State.applyPair_eq hm hga hgb))
      refine ⟨fun hl => ?_, fun hl => ?_⟩
      · simp only [hl, Bool.false_eq_true, if_false] at hgo
        exact hgo
      · simp only [hl, if_true] at hgo
        exact hgo
  · intro s a k c z zs n g d ch rm f w ready left ts tag m v
    refine ⟨fun ha ht => exec_mzeroComplete ha ht, fun ha hi hd hn hc => ?_, fun ha hi hf hn hb hroom => ?_⟩
    · have hgo := exec_mdrainRow ha hi hd hn hc
      exact ⟨fun h => hgo.trans (congrArg _ (State.sendRow_discards h)), fun v h =>
        ⟨fun hoff => hgo.trans (congrArg _ (State.sendRow_waits h hoff)), fun hoff => hgo.trans (congrArg _ (State.sendRow_sends h hoff))⟩⟩
    · have hgo := exec_spflushEntry ha hi hf hn hb
      exact ⟨fun he => hgo.trans (congrArg _ (State.flushNext_ends (f := { f with started := true }) hroom he)),
        fun he => hgo.trans (congrArg _ (State.flushNext_sends (f := { f with started := true }) hroom he))⟩

end Sys2Proof.Machine

/-! # CTRL tokens and handlers, the balancer, float tiles and C1 -/

namespace Sys2Proof.Machine

/-- An entry that takes an arrival at once: its pending slot is free and no token waits for it. -/
def Billet.takesCtrl (x : Billet) (e : Nat) : Bool :=
  (nthD {} x.handlers e : Handler).pend.isNone && x.ctrl.all fun p => p.1 != e

section Arrive
variable {x : Billet} {v w : Arrival} {vs : List Arrival}

theorem Billet.arrive_direct (h : x.takesCtrl v.entry = true) : x.arrive v = some (x.setPend v.entry (some v.tok)) := if_pos h

theorem Billet.arrive_fifo (h : x.takesCtrl v.entry = false) (hroom : x.ctrl.length < Config.controlFifo) :
    x.arrive v = some { x with ctrl := x.ctrl ++ [(v.entry, v.tok)] } :=
  (if_neg (Bool.eq_false_iff.mp h)).trans (if_pos hroom)

theorem Billet.arrive_none (h : x.takesCtrl v.entry = false) (hfull : Config.controlFifo ≤ x.ctrl.length) : x.arrive v = none :=
  (if_neg (Bool.eq_false_iff.mp h)).trans (if_neg (Nat.not_lt.mpr hfull))

/-- The first arrival takes its place where it has one. -/
theorem Billet.arriveNext_first {y : Billet} (h : x.arrive v = some y) : x.arriveNext [] (v :: vs) = some ({ y with arrivals := vs }, v) := by
  simp [Billet.arriveNext, h]

/-- The next arrival, of another entry, passes one that finds no place. -/
theorem Billet.arriveNext_second {y : Billet} (hv : x.arrive v = none) (hne : w.entry ≠ v.entry) (hw : x.arrive w = some y) :
    x.arriveNext [] (v :: w :: vs) = some ({ y with arrivals := v :: vs }, w) := by
  simp [Billet.arriveNext, hv, hw, Ne.symm hne]

theorem Billet.arriveNext_none (hv : x.arrive v = none) : x.arriveNext [] [v] = none := by
  simp [Billet.arriveNext, hv]

end Arrive

section Arrivals
variable {s : State} {b : Nat} (hf : (s.billet b).isFrozen = false)
include hf

theorem exec_ctrlTokenArrive {x : Billet} {v : Arrival} (h : (s.billet b).arriveNext [] (s.billet b).arrivals = some (x, v)) :
    exec (.ctrlTokenArrive b) s = .next ((s.setBillet b x).ctrlAccepted v.src) := by
  show execCtrlTokenArrive b s = _
  simp only [execCtrlTokenArrive, hf, Bool.false_eq_true, if_false, h]

theorem exec_ctrlTokenArrive_waits (h : (s.billet b).arriveNext [] (s.billet b).arrivals = none) : exec (.ctrlTokenArrive b) s = .next s := by
  show execCtrlTokenArrive b s = _
  simp only [execCtrlTokenArrive, hf, Bool.false_eq_true, if_false, h]

theorem exec_controlFifoAdvance : exec (.controlFifoAdvance b) s = .next (s.modBillet b Billet.advanceCtrl) :=
  congrArg Host.Outcome.next (if_neg (by simp [hf]))

end Arrivals

theorem Billet.advanceCtrl_moves {x : Billet} {q : Nat × Token} {qs : List (Nat × Token)}
    (h : takeFirst (fun (p : Nat × Token) => (nthD {} x.handlers p.1 : Handler).pend.isNone) x.ctrl = some (q, qs)) :
    x.advanceCtrl = { x with ctrl := qs }.setPend q.1 (some q.2) := by
  simp only [Billet.advanceCtrl, h]

theorem Billet.advanceCtrl_stays {x : Billet} (h : takeFirst (fun (p : Nat × Token) => (nthD {} x.handlers p.1 : Handler).pend.isNone) x.ctrl = none) :
    x.advanceCtrl = x := by
  simp only [Billet.advanceCtrl, h]

/-- The entry that is chosen fires its token (R273). -/
theorem Billet.fireHandler_fires {x : Billet} {e : Nat} {h : Handler} {t : Token} (hc : x.chooseHandler = some (e, h)) (ht : h.pend = some t) :
    x.fireHandler = { x.setPend e none with
      handlerFired := true, args := x.args ++ [(h.tile, h.argch, { t with tag := t.tag.asData })] } := by
  simp only [Billet.fireHandler, hc, ht]

/-- Settles O44: by the place the first arrival finds, then the head of the FIFO, then the chosen entry. -/
theorem controlTokens : Obligations.ControlTokens := by
  intro s b e v w vs t q qs h x free direct
  refine ⟨fun hf => ⟨congrArg Host.Outcome.next (if_pos hf), congrArg Host.Outcome.next (if_pos hf)⟩, fun hf => ?_, fun ha hh hc ht => ?_,
    fun hno => ?_⟩
  · have arrives {y : Billet} {u : Arrival} (hu : (s.billet b).arriveNext [] x.arrivals = some (y, u)) := exec_ctrlTokenArrive hf hu
    have stands (hu : (s.billet b).arriveNext [] x.arrivals = none) := exec_ctrlTokenArrive_waits hf hu
    have hadv := exec_controlFifoAdvance hf
    refine ⟨fun hl => stands (by rw [hl]; rfl), fun hl hd => arrives (by rw [hl]; exact Billet.arriveNext_first (Billet.arrive_direct hd)),
      fun hl hd hr => arrives (by rw [hl]; exact Billet.arriveNext_first (Billet.arrive_fifo hd hr)),
      fun hl hd hr => stands (by rw [hl]; exact Billet.arriveNext_none (Billet.arrive_none hd hr)),
      fun hl hd hr hne hw => arrives (by
        rw [hl]; exact Billet.arriveNext_second (Billet.arrive_none hd hr) hne (Billet.arrive_direct hw)),
      fun htk => hadv.trans (congrArg _ (congrArg (s.setBillet b) (Billet.advanceCtrl_moves htk))),
      fun htk => hadv.trans (congrArg _ (congrArg (s.setBillet b) (Billet.advanceCtrl_stays htk)))⟩
  · have hgo : (s.active b && !(s.billet b).handlerFired) = true := by
      rw [ha, show (s.billet b).handlerFired = false from hh]
      rfl
    exact congrArg Host.Outcome.next ((if_pos hgo).trans (congrArg (s.setBillet b) (Billet.fireHandler_fires hc ht)))
  · have hgo : ¬ (s.active b && !(s.billet b).handlerFired) = true := by
      rcases hno with hno | hno
      · simp [hno]
      · simp [show (s.billet b).handlerFired = true from hno]
    exact congrArg Host.Outcome.next (if_neg hgo)

/-- A float tile that is DRAINING and empty takes its new stage (R278). -/
theorem exec_floatTileReassign {s : State} {b k n : Nat} {f : Float} (ha : s.active b = true) (hk : (s.billet b).floats[k]? = some f)
    (hd : f.draining = some n) (he : s.floatEmpty b f.tile = true) :
    exec (.floatTileReassign b k) s = .next (s.modBillet b fun x =>
      { x with floats := modNth (fun (y : Float) => { y with stage := some n, draining := none }) k x.floats }) := by
  show execFloatTileReassign b k s = _
  simp only [execFloatTileReassign, ha, if_true, hk, hd, he]

theorem exec_floatTileReassign_waits {s : State} {b k : Nat} {f : Float} (hk : (s.billet b).floats[k]? = some f)
    (h : f.draining = none ∨ s.floatEmpty b f.tile = false) : exec (.floatTileReassign b k) s = .next s := by
  show execFloatTileReassign b k s = _
  rcases h with h | h
  · simp only [execFloatTileReassign, hk, h, ite_self]
  · cases hd : f.draining <;> simp only [execFloatTileReassign, hk, hd, h, Bool.false_eq_true, if_false, ite_self]

/-- Settles O45: each row acts where its condition holds, and waits where it does not. -/
theorem billetsBalance : Obligations.BilletsBalance := by
  intro s b k n f
  refine ⟨fun ha hb hf => congrArg _ (if_pos ?_), fun h => congrArg _ (if_neg ?_), exec_floatTileReassign, exec_floatTileReassign_waits,
    fun h => congrArg _ (if_neg ?_), fun h => congrArg _ (if_neg ?_), fun ha hi => congrArg _ (if_pos ?_), fun hc hp hw => congrArg _ (if_pos ?_)⟩
  · simpa [ha, hf, balancePeriod] using hb
  · rcases h with h | h
    · simp [balancePeriod, Nat.not_le.mpr h]
    · simp [h]
  · simp [c1Idle, Nat.not_le.mpr h]
  · simp [h]
  · simpa [ha, c1Idle] using hi
  · simpa [hc, hp] using hw

end Sys2Proof.Machine

/-! # Notify words, knocks, slots, decrements and the completion of records -/

namespace Sys2Proof.Machine

section Notify
variable {s : State} {fn qn : Nat} {v : Word} {q : VQueue}

/-- A notify word to a function that does not take it, or to no queue, changes nothing (R323, R438). -/
theorem exec_notifyWrite_unheard (h : s.fnUp fn = false ∨ (s.func fn).qcount ≤ qn ∨ s.queue? ((s.func fn).qbase + qn) = none) :
    exec (.notifyWrite fn qn v) s = .next s := by
  show execNotifyWrite fn qn v s = _
  rcases h with h | h | h
  · simp [execNotifyWrite, h]
  · simp [execNotifyWrite, h]
  · simp only [execNotifyWrite, h, ite_self]

variable (hup : s.fnUp fn = true) (hp : s.power.takesNotify = true) (hn : qn < (s.func fn).qcount)
  (hq : s.queue? ((s.func fn).qbase + qn) = some q)
include hup hp hn hq

/-- A notify word that comes to a queue (R323). -/
theorem exec_notifyWrite : exec (.notifyWrite fn qn v) s =
    .next (if q.ignores v || !s.ctxOpen q.cid then s
      else
        let t := (s.setQueue ((s.func fn).qbase + qn) { q with tail := v, lastAct := s.ns, notifyNs := s.ns }).askWake
        if t.isResident ((s.func fn).qbase + qn) && t.power == .c0 then t else t.addKnock ((s.func fn).qbase + qn) q.side) := by
  have hgo : ¬ (!s.fnUp fn || !s.power.takesNotify || decide (qn ≥ (s.func fn).qcount)) = true := by simp [hup, hp, hn]
  show execNotifyWrite fn qn v s = _
  simp only [execNotifyWrite, if_neg hgo, hq]

end Notify

theorem State.askWake_power (s : State) : s.askWake.power = s.power := by
  unfold State.askWake
  split <;> rfl

section Knocks
variable {s : State} {side n i vic : Nat} {ns : List Nat} {q : VQueue}

/-- The Front Desk serves the first knock (R326). -/
theorem exec_knockService (hd : s.deskUp side = true) (hk : (s.side side).knocks = n :: ns) :
    exec (.knockService side) s = .next (s.serveKnock side n) := by
  show execKnockService side s = _
  simp only [execKnockService, hd, if_true, hk]

variable (hq : s.queue? n = some q) (hr : s.isResident n = false)
include hq hr

theorem State.serveKnock_free (hf : ((s.side side).resid.findIdx? fun e => e.2 == .free) = some i) :
    s.serveKnock side n = (s.modSide side fun d => { d with knocks := d.knocks.drop 1 }).loadQueue n side i := by
  simp only [State.serveKnock, hq, hr, hf, Option.isNone_some, Bool.false_eq_true, if_false]

variable (hf : ((s.side side).resid.findIdx? fun e => e.2 == .free) = none)
include hf

theorem State.serveKnock_victim (hv : s.victimQueue side = some (i, vic)) :
    s.serveKnock side n = ((s.saveQueue vic).modSide side fun d => { d with knocks := d.knocks.drop 1 }).loadQueue n side i := by
  simp only [State.serveKnock, hq, hr, hf, hv, Option.isNone_some, Bool.false_eq_true, if_false]

theorem State.serveKnock_waits (hv : s.victimQueue side = none) : s.serveKnock side n = s := by
  simp only [State.serveKnock, hq, hr, hf, hv, Option.isNone_some, Bool.false_eq_true, if_false]

end Knocks

section Slots
variable {s : State} {n : Nat} {q : VQueue} (hq : s.queue? n = some q)
include hq

theorem exec_slotRead : exec (.slotRead n) s =
    .next (if s.deskUp q.side && s.isResident n && q.read != q.tail && s.ctxOpen q.cid then s.readSlot n q else s) := by
  show execSlotRead n s = _
  simp only [execSlotRead, hq]

/-- The first decrement that waits is delivered, or waits on (R331). -/
theorem exec_decrementDeliver {t : Nat} {m : Bool} {rest : List (Nat × Bool)} (hw : q.waitDec = (t, m) :: rest) :
    exec (.decrementDeliver n) s = .next (s.setQueue n (match q.decrement t m with
      | some y => { y with waitDec := rest }
      | none => q)) := by
  show execDecrementDeliver n s = _
  simp only [execDecrementDeliver, State.modQueue, hq, hw] <;> rfl

end Slots

/-- A record whose status stands and whose decrements have been sent completes (R332). -/
theorem exec_recordComplete {s : State} {r : RecId} {q : VQueue} {x : Rec} {st : Status} {fl : BitVec 5} {detail : Nat}
    (hq : s.queue? r.queue = some q) (hx : s.rec? r = some x) (hd : s.deskUp q.side = true) (hr : s.isResident r.queue = true)
    (hrec : s.records = []) (ho : x.outcome = some (st, fl, detail)) (hdone : x.done = false) (hsent : x.sent = true)
    (hw : q.waitDec = []) : exec (.recordComplete r) s = .next (s.finishRec r q x st fl detail) := by
  show execRecordComplete r s = _
  simp only [execRecordComplete, State.completeRec, hq, hx, hd, hr, hrec, ho, hdone, hsent, hw, List.all_nil, List.isEmpty_nil, Bool.not_true,
    Bool.and_self, Bool.or_self, Bool.false_eq_true, if_true, if_false]

/-- Settles O46: the way of a record from the notify word to its completion, rule by rule. -/
theorem queuesServe : Obligations.QueuesServe := by
  intro s fn qn n side i vic v q ns r x st fl detail t m rest y num s1 pop
  refine ⟨exec_notifyWrite_unheard, fun hup hp hn hq => ⟨fun hi => ?_, fun hi hc => ?_⟩, fun hd hk hq hr => ?_, fun hq hd hr hc => ?_,
    fun hq hw => ?_, exec_recordComplete⟩
  · exact (exec_notifyWrite hup hp hn hq).trans (congrArg _ (if_pos (by simp [hi])))
  · have hgo := (exec_notifyWrite (v := v) hup hp hn hq).trans (congrArg _ (if_neg (by simp [hi, hc])))
    have hpow : s1.power = s.power := State.askWake_power _
    refine ⟨fun hres h0 => hgo.trans (congrArg _ (if_pos ?_)), fun hno => hgo.trans (congrArg _ (if_neg ?_))⟩
    · show (s1.isResident num && s1.power == .c0) = true
      simp [hres, hpow, h0]
    · show ¬ (s1.isResident num && s1.power == .c0) = true
      rcases hno with h | h
      · simp [h]
      · simp [hpow, h]
  · have hgo := exec_knockService hd hk
    exact ⟨fun hf => hgo.trans (congrArg _ (State.serveKnock_free hq hr hf)), fun hf =>
      ⟨fun hv => hgo.trans (congrArg _ (State.serveKnock_victim hq hr hf hv)), fun hv => hgo.trans (congrArg _ (State.serveKnock_waits hq hr hf hv))⟩⟩
  · have hgo := exec_slotRead hq
    exact ⟨fun hne => hgo.trans (congrArg _ (if_pos (by simp [hd, hr, hc, hne]))), fun he => hgo.trans (congrArg _ (if_neg (by simp [he])))⟩
  · have hgo := exec_decrementDeliver hq hw
    exact ⟨fun h => by rw [hgo, h], fun h => by rw [hgo, h]⟩

end Sys2Proof.Machine

/-! # Records that act, and those that do not -/

namespace Sys2Proof.Machine

section RunRec
variable {s : State} {r : RecId} {ty : Nat} {q : VQueue} {x : Rec} {f : VQueue → Rec → State}

theorem State.runRec_none (h : s.mayRun r ty = none) : s.runRec r ty f = s := by
  simp only [State.runRec, h]

/-- A ready record that fails because a predecessor did takes PRED_FAIL (R332). -/
theorem State.runRec_failed (h : s.mayRun r ty = some (q, x)) (hf : x.failed = true) : s.runRec r ty f = s.outcome r .predFail 0 := by
  simp only [State.runRec, h, hf, if_true]

theorem State.runRec_acts (h : s.mayRun r ty = some (q, x)) (hf : x.failed = false) : s.runRec r ty f = f q x := by
  simp only [State.runRec, h, hf, Bool.false_eq_true, if_false]

end RunRec

/-- Each of the nine rows runs its record through mayRun. -/
theorem exec_record {i : Instr} {ty : Nat} {r : RecId}
    (h : (i, ty) ∈ [(Instr.launch r, 1), (.copyRecord r, 2), (.signalRecord r, 3), (.waitmem r, 4), (.waittl r, 5), (.joinRecord r, 6),
      (.pagein r, 7), (.evict r, 8), (.timegate r, 9)]) (s : State) : ∃ f, exec i s = .next (s.runRec r ty f) := by
  simp only [List.mem_cons, Prod.mk.injEq, List.not_mem_nil, or_false] at h
  rcases h with ⟨rfl, rfl⟩ | ⟨rfl, rfl⟩ | ⟨rfl, rfl⟩ | ⟨rfl, rfl⟩ | ⟨rfl, rfl⟩ | ⟨rfl, rfl⟩ | ⟨rfl, rfl⟩ | ⟨rfl, rfl⟩ | ⟨rfl, rfl⟩
  all_goals exact ⟨_, rfl⟩

section Steps
variable {s s1 s2 : State} {r : RecId} {q : VQueue} {x : Rec} {bs : List Byte} {e : SysFail}

/-! ### COPY -/

theorem State.copyPut_ok (h : s.sysWrite q.cid (x.d 6 + x.progress) bs = .ok s1) :
    s.copyPut r q x bs = s1.copied r x (copyChunk (x.d 6) (x.d 8) x.progress) := by
  simp only [State.copyPut, h]

theorem State.copyPut_fails (h : s.sysWrite q.cid (x.d 6 + x.progress) bs = .error (s1, e)) :
    s.copyPut r q x bs = s1.recFails q.cid r (x.d 6 + x.progress) (copyChunk (x.d 6) (x.d 8) x.progress) true e := by
  simp only [State.copyPut, h]

theorem State.copyStep_fills (h : x.w 10 % 2 = 1) : s.copyStep r q x =
    s.copyPut r q x (fillBytes (nthD 0 x.words 11) x.progress (copyChunk (x.d 6) (x.d 8) x.progress)) := if_pos h

theorem State.copyStep_reads (h : x.w 10 % 2 = 0)
    (hr : s.sysRead q.cid (x.d 4 + x.progress) (copyChunk (x.d 6) (x.d 8) x.progress) false = .ok (bs, s1)) :
    s.copyStep r q x = s1.copyPut r q x bs := by
  simp only [State.copyStep, h, Nat.zero_ne_one, if_false, hr]

theorem State.copyStep_fails (h : x.w 10 % 2 = 0)
    (hr : s.sysRead q.cid (x.d 4 + x.progress) (copyChunk (x.d 6) (x.d 8) x.progress) false = .error (s1, e)) :
    s.copyStep r q x = s1.recFails q.cid r (x.d 4 + x.progress) (copyChunk (x.d 6) (x.d 8) x.progress) false e := by
  simp only [State.copyStep, h, Nat.zero_ne_one, if_false, hr]

/-! ### SIGNAL -/

theorem State.signalStep_plain (hop : x.w 8 ≠ 2) (h : s.sysWrite q.cid (x.d 4) (signalBytes (x.w 8) (x.d 6) 0) = .ok s1) :
    s.signalStep r q x = s1.outcome r .ok 0 := by
  simp only [State.signalStep, if_neg hop, show natOf [] = 0 from rfl, h]

theorem State.signalStep_plain_fails (hop : x.w 8 ≠ 2)
    (h : s.sysWrite q.cid (x.d 4) (signalBytes (x.w 8) (x.d 6) 0) = .error (s1, e)) :
    s.signalStep r q x = s1.recFails q.cid r (x.d 4) 8 true e := by
  simp only [State.signalStep, if_neg hop, show natOf [] = 0 from rfl, h]

theorem State.signalStep_add (hop : x.w 8 = 2) (hr : s.sysRead q.cid (x.d 4) 8 false = .ok (bs, s1))
    (h : s1.sysWrite q.cid (x.d 4) (signalBytes 2 (x.d 6) (natOf bs)) = .ok s2) : s.signalStep r q x = s2.outcome r .ok 0 := by
  simp only [State.signalStep, hop, if_true, hr, h]

/-! ### Waits -/

theorem State.waitmemStep_ok (hr : s.sysRead q.cid (x.d 4) 8 false = .ok (bs, s1)) : s.waitmemStep r q x = s1.waitmemRead r q.side x bs := by
  simp only [State.waitmemStep, hr]

theorem State.waitmemStep_fails (hr : s.sysRead q.cid (x.d 4) 8 false = .error (s1, e)) :
    s.waitmemStep r q x = s1.recFails q.cid r (x.d 4) 8 false e := by
  simp only [State.waitmemStep, hr]

end Steps

section Rows
variable {s : State} {r : RecId} {q : VQueue} {x : Rec} {o : VQueue} (hf : x.failed = false)
include hf

theorem exec_copyRecord (h : s.mayRun r 2 = some (q, x)) :
    exec (.copyRecord r) s = .next (if x.free then (s.touchRec r).copyStep r q x else s) := congrArg _ (State.runRec_acts h hf)

theorem exec_signalRecord (h : s.mayRun r 3 = some (q, x)) :
    exec (.signalRecord r) s = .next (if x.free then (s.touchRec r).signalStep r q x else s) := congrArg _ (State.runRec_acts h hf)

theorem exec_waitmem (h : s.mayRun r 4 = some (q, x)) :
    exec (.waitmem r) s = .next (if x.free then (s.touchRec r).waitmemStep r q x else s) := congrArg _ (State.runRec_acts h hf)

theorem exec_waittl (h : s.mayRun r 5 = some (q, x)) (ho : (s.touchRec r).queue? (x.w 4) = some o) :
    exec (.waittl r) s = .next (if (o.ctl - BitVec.ofNat 64 (x.d 6)).msb then s.touchRec r
      else ((s.touchRec r).acquireSide q.side).outcome r .ok 0) := by
  refine congrArg _ ((State.runRec_acts h hf).trans ?_)
  simp only [ho]

end Rows

/-- Settles O47: a row by mayRun and the mark of a failed predecessor, then by what its accesses meet. -/
theorem recordsRun : Obligations.RecordsRun := by
  intro s s1 s2 r q x o bs i ty e u n dst holds marked
  refine ⟨fun hi => ?_, fun h hf => ⟨fun hx => ?_, fun hx hfill => ?_, fun hx hcopy => ?_⟩, fun h hf => ⟨fun hx => ?_, fun hx hop => ?_,
    fun hx hop hr hw => ?_⟩, fun h hf => ⟨fun hx => ?_, fun hx hr => ?_, fun hx hr => ?_⟩, fun h hf ho => ?_,
    fun h hf => congrArg _ (State.runRec_acts h hf), fun h hf => congrArg _ (State.runRec_acts h hf), fun h hf => ?_⟩
  · obtain ⟨f, hexec⟩ := exec_record hi s
    exact ⟨fun h => hexec.trans (congrArg _ (State.runRec_none h)), fun h hf => hexec.trans (congrArg _ (State.runRec_failed h hf))⟩
  · exact (exec_copyRecord hf h).trans (congrArg _ (if_neg (Bool.eq_false_iff.mp hx)))
  · have hgo := (exec_copyRecord hf h).trans (congrArg _ ((if_pos hx).trans (State.copyStep_fills hfill)))
    exact ⟨fun hw => hgo.trans (congrArg _ (State.copyPut_ok hw)), fun hw => hgo.trans (congrArg _ (State.copyPut_fails hw))⟩
  · have hgo := (exec_copyRecord hf h).trans (congrArg _ (if_pos hx))
    exact ⟨fun hr hw => hgo.trans (congrArg _ ((State.copyStep_reads hcopy hr).trans (State.copyPut_ok hw))),
      fun hr => hgo.trans (congrArg _ (State.copyStep_fails hcopy hr))⟩
  · exact (exec_signalRecord hf h).trans (congrArg _ (if_neg (Bool.eq_false_iff.mp hx)))
  · have hgo := (exec_signalRecord hf h).trans (congrArg _ (if_pos hx))
    exact ⟨fun hw => hgo.trans (congrArg _ (State.signalStep_plain hop hw)), fun hw => hgo.trans (congrArg _ (State.signalStep_plain_fails hop hw))⟩
  · exact (exec_signalRecord hf h).trans (congrArg _ ((if_pos hx).trans (State.signalStep_add hop hr hw)))
  · exact (exec_waitmem hf h).trans (congrArg _ (if_neg (Bool.eq_false_iff.mp hx)))
  · have hgo := (exec_waitmem hf h).trans (congrArg _ ((if_pos hx).trans (State.waitmemStep_ok hr)))
    exact ⟨fun hc => hgo.trans (congrArg _ (if_pos hc)), fun hc => hgo.trans (congrArg _ (if_neg (Bool.eq_false_iff.mp hc)))⟩
  · exact (exec_waitmem hf h).trans (congrArg _ ((if_pos hx).trans (State.waitmemStep_fails hr)))
  · have hgo := exec_waittl hf h ho
    exact ⟨fun hc => hgo.trans (congrArg _ (if_neg (Bool.eq_false_iff.mp hc))), fun hc => hgo.trans (congrArg _ (if_pos hc))⟩
  · have hgo : exec (.timegate r) s = .next (if x.d 4 ≤ s.ns then u.outcome r .ok 0 else u) := congrArg _ (State.runRec_acts h hf)
    exact ⟨fun ht => hgo.trans (congrArg _ (if_pos ht)), fun ht => hgo.trans (congrArg _ (if_neg (Nat.not_le.mpr ht)))⟩

end Sys2Proof.Machine

/-! # LAUNCH and PAGEIN, gates, argument tokens, checkout time and deadline -/

namespace Sys2Proof.Machine

section Launches
variable {s s1 : State} {r : RecId} {q : VQueue} {x : Rec} {p : Plan}

theorem exec_launch (h : s.mayRun r 1 = some (q, x)) (hf : x.failed = false) :
    exec (.launch r) s = .next (if !x.started && s.launchServed q.side r then s.launchStep r q x else s) :=
  congrArg _ (State.runRec_acts h hf)

theorem State.launchStep_planned (h : validate q.cid (x.d 4) (x.d 11) (x.d 6) (x.w 8) (s.touchRec r) = .ok (p, s1)) :
    s.launchStep r q x = s1.launchPlanned r q x p := by
  simp only [State.launchStep, h]

theorem State.launchStep_check {code idx : Nat}
    (h : validate q.cid (x.d 4) (x.d 11) (x.d 6) (x.w 8) (s.touchRec r) = .error (s1, .check code idx)) :
    s.launchStep r q x =
      (s1.writeRecord { cls := clsPageLimit, cid := q.cid, detail := code * 4096 + idx, rslot := r.slot, queue := r.queue }).recordOutcome
        r .pageLimit 0 (code * 4096 + idx) := by
  simp only [State.launchStep, h, State.refuseLaunch]

theorem State.launchStep_read {va : Nat} (h : validate q.cid (x.d 4) (x.d 11) (x.d 6) (x.w 8) (s.touchRec r) = .error (s1, .read va)) :
    s.launchStep r q x = (s1.permRecord q.cid r va).recordOutcome r .permission 0 0 := by
  simp only [State.launchStep, h, State.refuseLaunch]

theorem State.launchStep_lost (h : validate q.cid (x.d 4) (x.d 11) (x.d 6) (x.w 8) (s.touchRec r) = .error (s1, .lost)) :
    s.launchStep r q x = s1.recordOutcome r .sideLost 0 0 := by
  simp only [State.launchStep, h, State.refuseLaunch]

end Launches

section Pageins
variable {s : State} {r : RecId} {q : VQueue} {x : Rec} {l : Launch} (h : s.mayRun r 7 = some (q, x)) (hf : x.failed = false)
include h hf

/-- A PAGEIN whose page a hold of its queue has (R329). -/
theorem exec_pagein_held (hh : s.holdOf q.cid (x.d 4) r.queue (x.w 6) = some l) :
    exec (.pagein r) s = .next (if (l.placeOf (x.w 6)).any fun b => (s.billet b).load.any fun d => d.phase == .closed then
      (s.touchRec r).outcome r .ok 0 else (s.touchRec r).raiseFault l.id (x.w 6)) := by
  refine congrArg _ ((State.runRec_acts h hf).trans ?_)
  simp only [hh]

theorem exec_pagein_unheld (hh : s.holdOf q.cid (x.d 4) r.queue (x.w 6) = none) :
    exec (.pagein r) s = .next (if x.progress = 1 then s.outcome r .fault 0 else (s.touchRec r).holdPage r q x) := by
  refine congrArg _ ((State.runRec_acts h hf).trans ?_)
  simp only [hh]

end Pageins

section Running
variable {s : State} {r : RecId} {l : Launch} (hl : s.launch? r = some l)
include hl

section Gates
variable (hd : s.deskUp l.side = true) (hp : l.pagein = false)
include hd hp

theorem exec_launchGatesOpen_loading (hst : l.st = .loading) : exec (.launchGatesOpen r) s =
    .next (if s.entriesReady l then (s.modBillets (s.closedPages r) Billet.open).modLaunch r fun x => { x with st := .running } else s) := by
  show execLaunchGatesOpen r s = _
  simp only [execLaunchGatesOpen, hl, hd, hp, hst, Bool.not_true, Bool.or_self, Bool.false_eq_true, if_false]

theorem exec_launchGatesOpen_running (hst : l.st = .running) :
    exec (.launchGatesOpen r) s = .next (s.modBillets (s.closedPages r) Billet.open) := by
  show execLaunchGatesOpen r s = _
  simp only [execLaunchGatesOpen, hl, hd, hp, hst, Bool.not_true, Bool.or_self, Bool.false_eq_true, if_false]

end Gates

/-- The first argument token left goes by PACE and while its channel takes it (R338). -/
theorem exec_argumentTokenInject {a : ArgRec} {rest : List ArgRec} {b : Nat} (ha : l.args = a :: rest) (hb : l.placeOf a.page = some b) :
    exec (.argumentTokenInject r) s =
      .next (if l.st == .running && s.deskUp l.side && s.drainOpen b && !l.argOff a && decide (l.argFc a ≤ (s.side l.side).fc) then
        s.injectArg l a rest b else s) := by
  show execArgumentTokenInject r s = _
  simp only [execArgumentTokenInject, hl, ha, hb]

/-- A launch's checkout time has come (R379). -/
theorem exec_checkoutTimeReached (hd : s.deskUp l.side = true) (hne : l.deadline ≠ 2 ^ 64 - 1) (ht : (l.deadline : Int) - l.budget ≤ s.ns) :
    exec (.checkoutTimeReached r) s = .next (s.checkoutNow l) := by
  have hgo : (s.deskUp l.side && l.checkoutNs.any fun t => decide (t ≤ (s.ns : Int))) = true := by
    rw [hd, show l.checkoutNs = some ((l.deadline : Int) - l.budget) from if_neg hne]
    simpa using ht
  show execCheckoutTimeReached r s = _
  simp only [execCheckoutTimeReached, hl, if_pos hgo]

theorem exec_deadlineReached (hd : s.deskUp l.side = true) (hst : l.st = .checkout) (hne : l.deadline ≠ 2 ^ 64 - 1) (ht : l.deadline ≤ s.ns) :
    exec (.deadlineReached r) s = .next (if l.entered ≠ some (s.side l.side).fc then
      ((s.freeze (s.billetsOf r) .deadline).modLaunch r fun x => { x with late := true }).endLaunch r .ok else s) := by
  show execDeadlineReached r s = _
  simp only [execDeadlineReached, hl]
  congr 1
  exact if_congr (by simpa [hd, hst, ht] using fun _ => hne) rfl rfl

end Running

/-- Settles O48: a launch's record by its validation, then its gates, its arguments and its times. -/
theorem launchesRun : Obligations.LaunchesRun := by
  intro s s1 r q x p code idx va b l a rest u there
  refine ⟨fun h hf hno => ?_, fun h hf hst hsv => ?_, fun h hf => ⟨fun hh => ?_, fun hh => ?_⟩, fun hl hd hp => ⟨fun hst he => ?_, fun hst he => ?_,
    exec_launchGatesOpen_running hl hd hp⟩, fun hl ha hb hst hd => ⟨fun hdr hoff hfc => ?_, fun hno => ?_⟩, fun hl hd hne ht => ?_,
    fun hl hd hst hne ht => ?_⟩
  · exact (exec_launch h hf).trans (congrArg _ (if_neg (by rcases Bool.or_eq_true_iff.mp hno with hno | hno <;> simp_all)))
  · have hgo : exec (.launch r) s = .next (s.launchStep r q x) := (exec_launch h hf).trans (congrArg _ (if_pos (by simp [hst, hsv])))
    refine ⟨fun hv => ?_, fun hv => hgo.trans (congrArg _ (State.launchStep_check hv)), fun hv => hgo.trans (congrArg _ (State.launchStep_read hv)),
      fun hv => hgo.trans (congrArg _ (State.launchStep_lost hv))⟩
    have hplan := hgo.trans (congrArg _ (State.launchStep_planned hv))
    exact ⟨fun hq => hplan.trans (congrArg _ (if_pos hq)), fun hq => hplan.trans (congrArg _ (if_neg (Bool.eq_false_iff.mp hq)))⟩
  · have hgo := exec_pagein_held h hf hh
    exact ⟨fun ht => hgo.trans (congrArg _ (if_pos ht)), fun ht => hgo.trans (congrArg _ (if_neg (Bool.eq_false_iff.mp ht)))⟩
  · have hgo := exec_pagein_unheld h hf hh
    exact ⟨fun hp => hgo.trans (congrArg _ (if_pos hp)), fun hp => hgo.trans (congrArg _ (if_neg hp))⟩
  · exact (exec_launchGatesOpen_loading hl hd hp hst).trans (congrArg _ (if_pos he))
  · exact (exec_launchGatesOpen_loading hl hd hp hst).trans (congrArg _ (if_neg (Bool.eq_false_iff.mp he)))
  · exact (exec_argumentTokenInject hl ha hb).trans (congrArg _ (if_pos (by simp [hst, hd, hdr, hoff, hfc])))
  · refine (exec_argumentTokenInject hl ha hb).trans (congrArg _ (if_neg ?_))
    rcases hno with hno | hno
    · simp [Nat.not_le.mpr hno]
    · simp [hno]
  · have hgo := exec_checkoutTimeReached hl hd hne ht
    refine ⟨fun hst => hgo.trans (congrArg _ ?_), fun hst => hgo.trans (congrArg _ ?_), fun hst hld => hgo.trans (congrArg _ ?_)⟩
    · simp only [State.checkoutNow, hst]
    · simp only [State.checkoutNow, hst]
    · simp only [State.checkoutNow, hst, State.endStop, hld, Bool.false_eq_true, if_false]
  · have hgo := exec_deadlineReached hl hd hst hne ht
    exact ⟨fun he => hgo.trans (congrArg _ (if_pos he)), fun he => hgo.trans (congrArg _ (if_neg (not_not.mpr he)))⟩

end Sys2Proof.Machine

/-! # Page faults, the streaming of an image and what follows it -/

namespace Sys2Proof.Machine

/-- A page whose threshold is met raises its fault (R343). -/
theorem exec_pageFault {s : State} {r : RecId} {l : Launch} {page : Nat} (hl : s.launch? r = some l) (hd : s.deskUp l.side = true)
    (hst : l.st = .running) : exec (.pageFault r page) s = .next (if l.thresholdMet page then s.raiseFault r page else s) := by
  show execPageFault r page s = _
  simp only [execPageFault, hl, hd, hst, beq_self_eq_true, Bool.and_self, Bool.true_and]

section Streaming
variable {s s1 : State} {b : Nat} {p : Resident} {d : Load} {l : Launch} {g : GPage} {ps : PageState} {img : List Byte}

section Page
variable (hp : (s.billet b).page = some p) (hd : (s.billet b).load = some d) (hl : s.launch? p.launch = some l)
include hp hd hl

/-- A page's image is read when its turn has come and its side's bus is free (R270). -/
theorem exec_pageLoad (hpow : s.power = .c0) (hfr : (s.billet b).isFrozen = false) (hph : d.phase = .stream) (hn : s.streamsNext p = true)
    (hb : s.busFree (sideOf b) = true) (hg : l.graph.pages[p.page]? = some g) :
    exec (.pageLoad b) s = .next (s.streamPage b p g (nthD {} l.pages p.page)) := by
  show execPageLoad b s = _
  simp only [execPageLoad, hp, hd, hl, hpow, hfr, hph, hn, hb, hg, beq_self_eq_true, Bool.not_false, Bool.and_self, if_true]

theorem exec_pageLoad_waits (h : s.streamsNext p = false ∨ s.busFree (sideOf b) = false) : exec (.pageLoad b) s = .next s := by
  show execPageLoad b s = _
  rcases h with h | h <;>
    simp only [execPageLoad, hp, hd, hl, h, Bool.and_false, Bool.false_and, Bool.false_eq_true, if_false]

end Page

/-- The record of an image that the loader refuses. -/
def refusalInfo (b : Nat) (p : Resident) (c : Chk) : FaultInfo :=
  match c.at_ with
  | some (i, n) => { loadInfo b p clsInvalidEncoding 0 c.off with tile := i, slot := n }
  | none => loadInfo b p clsInvalidEncoding 0 c.off

theorem State.streamPage_permission {va : Nat} (hr : readBytes p.cid g.image g.size s = .error (s1, .read va)) :
    s.streamPage b p g ps = s1.loadFails p (loadInfo b p clsPermission 0x10 va) .permission 0 := by
  simp only [State.streamPage, hr]
  rfl

theorem State.streamPage_lost (hr : readBytes p.cid g.image g.size s = .error (s1, .lost)) :
    s.streamPage b p g ps = s1.failLaunch p.launch .sideLost 0 := by
  simp only [State.streamPage, hr]

variable (hr : readBytes p.cid g.image g.size s = .ok (img, s1))
include hr

theorem State.streamPage_pageLimit (hc : capOk (wordsOfBytes (g.size / 4) img) (s1.mtCap b) = false) :
    s.streamPage b p g ps = s1.loadFails p (loadInfo b p clsPageLimit (5 * 4096 + p.page) 0) .pageLimit (5 * 4096 + p.page) := by
  simp only [State.streamPage, hr, hc, Bool.not_false, if_true]

theorem State.streamPage_refused {c : Chk} (hc : capOk (wordsOfBytes (g.size / 4) img) (s1.mtCap b) = true)
    (hi : imgRefused (s1.fedBy p) img = some c) : s.streamPage b p g ps = s1.loadFails p (refusalInfo b p c) .invalidEncoding 0 := by
  simp only [State.streamPage, hr, hc, Bool.not_true, Bool.false_eq_true, if_false, hi]
  rfl

theorem State.streamPage_configures (hc : capOk (wordsOfBytes (g.size / 4) img) (s1.mtCap b) = true)
    (hi : imgRefused (s1.fedBy p) img = none) (hs : (ps.record.all fun k => k.sound) = true) :
    s.streamPage b p g ps = s1.modBillet b fun x =>
      x.configured img (wordsOfBytes (g.size / 4) img) g (!ps.loadedOnce) (s1.now b + busFc g.size) := by
  have hsound : ¬ (ps.record.any fun k => !k.sound) = true := by
    cases h : ps.record with
    | none => simp
    | some k => simpa [h] using hs
  simp only [State.streamPage, hr, hc, Bool.not_true, Bool.false_eq_true, if_false, hi, if_neg hsound]

end Streaming

section Steward
variable {s : State} {b : Nat} {p : Resident} {d : Load}

/-- The steward computes a loaded page's routes (R270). -/
theorem exec_stewardRoutesDone (hp : (s.billet b).page = some p) (hd : (s.billet b).load = some d) (hpow : s.power = .c0)
    (hfr : (s.billet b).isFrozen = false) (hph : d.phase = .steward) (hbus : d.busEnd ≤ s.now b) :
    exec (.stewardRoutesDone b) s = .next (s.stewardDone b p d) := by
  show execStewardRoutesDone b s = _
  simp only [execStewardRoutesDone, hp, hd, hpow, hfr, hph, hbus, beq_self_eq_true, decide_true, Bool.not_false, Bool.and_self, if_true]

/-- A tile whose segment has come acknowledges its CRC (R270). -/
theorem exec_tileCrcAck {t : TileAddr} {good : Bool} (hp : (s.billet t.b).page = some p) (hd : (s.billet t.b).load = some d)
    (hpow : s.power = .c0) (hfr : (s.billet t.b).isFrozen = false) (hph : d.phase = .crc) (hbus : d.busEnd ≤ s.now t.b)
    (hw : d.waits t.t = true) :
    exec (.tileCrcAck t good) s = .next (if good then s.modBillet t.b fun x => { x with load := some (d.ack t.t) }
      else if d.restreamed.contains t.t then s.loadUe t.b p
      else s.modBillet t.b fun x => { x with load := some (d.again t.t (s.now t.b)) }) := by
  show execTileCrcAck t good s = _
  simp only [execTileCrcAck, hp, hd, hpow, hfr, hph, hbus, hw, beq_self_eq_true, decide_true, Bool.not_false, Bool.and_self, if_true]

end Steward

/-- Settles O49: a fault raised and served, then an image by what its reading and its checks find, then CRC and steward. -/
theorem pagesLoad : Obligations.PagesLoad := by
  intro s s1 r l page side b p d g img t ps ws u
  refine ⟨fun hl hd hst => ?_, fun hd => congrArg _ (if_pos hd), fun hd => congrArg _ (if_neg (Bool.eq_false_iff.mp hd)),
    fun hp hd hpow hfr => ⟨fun hl hph hn hb hg hr => ?_, fun hl hph hn hb hg va hr => ?_, fun hl hph hn hb hg hr => ?_,
      exec_pageLoad_waits hp hd, exec_stewardRoutesDone hp hd hpow hfr⟩, fun hp hd hpow hfr hph hbus hw => ?_,
    fun ha hs => congrArg _ (if_pos (by simp [ha, hs]))⟩
  · have hgo := exec_pageFault (page := page) hl hd hst
    exact ⟨fun ht => hgo.trans (congrArg _ (if_pos ht)), fun ht => hgo.trans (congrArg _ (if_neg (Bool.eq_false_iff.mp ht)))⟩
  · have hgo : exec (.pageLoad b) s = .next (s.streamPage b p g (nthD {} l.pages p.page)) := exec_pageLoad hp hd hl hpow hfr hph hn hb hg
    exact ⟨fun hi hc hs => hgo.trans (congrArg _ (State.streamPage_configures hr hc hi hs)),
      fun hc => hgo.trans (congrArg _ (State.streamPage_pageLimit hr hc)),
      fun c hc hi => hgo.trans (congrArg _ (State.streamPage_refused hr hc hi))⟩
  · exact (exec_pageLoad hp hd hl hpow hfr hph hn hb hg).trans (congrArg _ (State.streamPage_permission hr))
  · exact (exec_pageLoad hp hd hl hpow hfr hph hn hb hg).trans (congrArg _ (State.streamPage_lost hr))
  · refine ⟨exec_tileCrcAck hp hd hpow hfr hph hbus hw, fun hre => ?_, fun hre => ?_⟩
    · exact (exec_tileCrcAck (good := false) hp hd hpow hfr hph hbus hw).trans (congrArg _ (if_neg (Bool.eq_false_iff.mp hre)))
    · exact (exec_tileCrcAck (good := false) hp hd hpow hfr hph hbus hw).trans (congrArg _ (if_pos hre))

end Sys2Proof.Machine

/-! # The eviction of a page, phase by phase -/

namespace Sys2Proof.Machine

section Evicting
variable {s s1 : State} {b : Nat} {p : Resident} {e : Evict} {l : Launch} (he : (s.billet b).evict = some e)
include he

section Wanted
variable (hp : (s.billet b).page = some p) (hph : e.phase = .wanted) (hpow : s.power = .c0)
include hp hph hpow

omit hph hpow in
theorem exec_pageEvict_waits (h : (s.mayEvict b p && s.evictTurn e) = false) : exec (.pageEvict b) s = .next s := by
  have hno : ¬ (e.phase == .wanted && s.power == .c0 && s.mayEvict b p && s.evictTurn e) = true := by
    rw [Bool.and_assoc, h, Bool.and_false]
    exact Bool.false_ne_true
  show execPageEvict b s = _
  simp only [execPageEvict, hp, he, if_neg hno]

variable (hm : s.mayEvict b p = true) (ht : s.evictTurn e = true)
include hm ht

theorem exec_pageEvict_starts (hr : s.reservePinned p = some s1) : exec (.pageEvict b) s = .next (s1.startEvict b p e) := by
  show execPageEvict b s = _
  simp only [execPageEvict, hp, he, hph, hpow, hm, ht, beq_self_eq_true, Bool.and_self, if_true, hr]

theorem exec_pageEvict_quota (hl : s.launch? p.launch = some l) (hr : s.reservePinned p = none) :
    exec (.pageEvict b) s = .next (s.quotaFails l p.page) := by
  show execPageEvict b s = _
  simp only [execPageEvict, hp, he, hph, hpow, hm, ht, beq_self_eq_true, Bool.and_self, if_true, hr, hl]

end Wanted

/-- A page drains until 64 fc are quiet or 8,192 have passed (R345). -/
theorem exec_drainGateTimeout (hph : e.phase = .drain) (ha : s.active b = true) :
    exec (.drainGateTimeout b) s = .next (if 64 ≤ e.quiet ∨ e.startFc + 8192 ≤ s.now b then s.modBillet b fun x =>
      { x with handlerGated := true, drainOn := false, evict := some { e with phase := .boundary } } else s) := by
  show execDrainGateTimeout b s = _
  simp only [execDrainGateTimeout, he]
  exact congrArg _ (if_congr (Q := drainQuiet ≤ e.quiet ∨ e.startFc + drainLimit ≤ s.now b) (by simp [hph, ha]) rfl rfl)

variable (hp : (s.billet b).page = some p)
include hp

/-- A page leaves at its tile-task boundary (R345). -/
theorem exec_tileTaskBoundary (hph : e.phase = .boundary) (ha : s.active b = true) :
    exec (.tileTaskBoundary b) s = .next (if s.atBoundary b then s.pageLeaves b p e 1 else s) := by
  show execTileTaskBoundary b s = _
  simp only [execTileTaskBoundary, hp, he, hph, ha, beq_self_eq_true, Bool.true_and]

/-- An eviction past its budget freezes its launch and is scanned out (R393). -/
theorem exec_evictionBudgetExpire (hph : e.phase = .drain ∨ e.phase = .boundary) (hpow : s.power = .c0) :
    exec (.evictionBudgetExpire b) s = .next (if e.startNs + 50000 ≤ s.ns then
      (s.freeze (s.billetsOf p.launch) .budget).modBillet b fun x => { x with evict := some { e with phase := .scan } } else s) := by
  have hor : (e.phase == .drain || e.phase == .boundary) = true := by simpa using hph
  show execEvictionBudgetExpire b s = _
  simp only [execEvictionBudgetExpire, hp, he, hor, hpow, beq_self_eq_true, Bool.true_and, decide_eq_true_eq]
  rfl

/-- A scanned page leaves, and its launch goes on unless another of its pages is still to be scanned (R393). -/
theorem exec_scanOutComplete (hph : e.phase = .scan) (hpow : s.power = .c0) :
    exec (.scanOutComplete b) s = .next
      (if ((s.billetsOf p.launch).filter fun c => c ≠ b).any fun c => (s.billet c).evict.any fun f => f.phase == .scan then
        s.pageLeaves b p e 2 else (s.pageLeaves b p e 2).unfreeze ((s.billetsOf p.launch).filter fun c => c ≠ b) [.budget]) := by
  show execScanOutComplete b s = _
  simp only [execScanOutComplete, hp, he, hph, hpow, beq_self_eq_true, Bool.and_self, if_true]

omit hp

/-- A generation flush ends when no marked flit is left (R352). -/
theorem exec_generationFlushComplete (hph : e.phase = .flush) :
    exec (.generationFlushComplete b) s = .next (if s.flits.all fun f => !(e.marks.any f.same) then
      (s.setBillet b (s.billet b).freed).afterFree b (s.billet b).page e else s) := by
  show execGenerationFlushComplete b s = _
  simp only [execGenerationFlushComplete, he, hph, beq_self_eq_true, Bool.true_and]

end Evicting

/-- Settles O50: by the phase of the eviction. -/
theorem pagesLeave : Obligations.PagesLeave := by
  intro s s1 b p e l others scanning he
  refine ⟨fun hp hph hpow => ⟨fun hm ht hl => ⟨exec_pageEvict_starts he hp hph hpow hm ht, exec_pageEvict_quota he hp hph hpow hm ht hl⟩,
    exec_pageEvict_waits he hp⟩, fun hph ha => ?_, fun hp hph ha => ?_, fun hp hph hpow => ?_, fun hp hph hpow => ?_, fun hph => ?_⟩
  · have hgo := exec_drainGateTimeout he hph ha
    exact ⟨fun h => hgo.trans (congrArg _ (if_pos h)), fun hq hn => hgo.trans (congrArg _ (if_neg (by omega)))⟩
  · have hgo := exec_tileTaskBoundary he hp hph ha
    exact ⟨fun h => hgo.trans (congrArg _ (if_pos h)), fun h => hgo.trans (congrArg _ (if_neg (Bool.eq_false_iff.mp h)))⟩
  · have hgo := exec_evictionBudgetExpire he hp hph hpow
    exact ⟨fun h => hgo.trans (congrArg _ (if_pos h)), fun h => hgo.trans (congrArg _ (if_neg (Nat.not_le.mpr h)))⟩
  · have hgo := exec_scanOutComplete he hp hph hpow
    exact ⟨fun h => hgo.trans (congrArg _ (if_neg (Bool.eq_false_iff.mp h))), fun h => hgo.trans (congrArg _ (if_pos h))⟩
  · have hgo := exec_generationFlushComplete he hph
    refine ⟨fun h => hgo.trans (congrArg _ (if_pos (by simpa using h))), fun h => hgo.trans (congrArg _ (if_neg (by simpa using h)))⟩

end Sys2Proof.Machine

/-! # Corrected and uncorrectable errors -/

namespace Sys2Proof.Machine

/-- What several monitors lead to is what the first leads to, then the others. -/
theorem State.aged_cons (s : State) (side : Nat) (g : AgingSite) (rest : List AgingSite) :
    s.aged side (g :: rest) = (s.aged side [g]).aged side rest := by
  cases g <;> rfl

theorem exec_agingMonitorRead {s : State} {side : Nat} {low : List AgingSite} (hk : s.keeperUp side = true) :
    exec (.agingMonitorRead side low) s = .next (s.aged side low) := congrArg _ (if_pos hk)

section Spares
variable {s : State} {side bank : Nat} {column : Bool}

theorem exec_sramRemap {line : Nat} (hl : s.hotLine side bank column = some line) (hk : s.keeperUp side = true)
    (hb : s.bankHeld side bank = false) : exec (.sramRemap side bank column) s =
    .next (s.modSide side fun d => (d.forget bank line column).takeSpare bank column) := by
  show execSramRemap side bank column s = _
  simp only [execSramRemap, hl, hk, hb, Bool.not_false, Bool.and_self, if_true]

/-- A bank without a hot line, held by a page, or on a side without its Innkeeper keeps its lines. -/
theorem exec_sramRemap_waits (h : s.hotLine side bank column = none ∨ s.bankHeld side bank = true ∨ s.keeperUp side = false) :
    exec (.sramRemap side bank column) s = .next s := by
  show execSramRemap side bank column s = _
  cases hl : s.hotLine side bank column with
  | none => simp only [execSramRemap, hl]
  | some line =>
    have hno : ¬ (s.keeperUp side && !s.bankHeld side bank) = true := by
      rcases h with h | h | h
      · simp [hl] at h
      · simp [h]
      · simp [h]
    simp only [execSramRemap, hl, if_neg hno]

end Spares

section Sites
variable {s : State} {side layer x y : Nat}

/-- A site that may be spared is asked to empty, and is spared once it is (R434). -/
theorem exec_siteSpare (hx : x < 16) (hy : y < 16) (hla : layer < 4) (hs : side < 2) (hm : s.maySpare side layer x y = true) :
    let u := (s.modSide side fun d => { d with
      spareWanted := if d.spareWanted.contains (layer, x, y) then d.spareWanted else (layer, x, y) :: d.spareWanted
      spareLater := d.spareLater.filter fun w => w ≠ (layer, x, y) }).wantOut (s.siteUser side layer x y)
    exec (.siteSpare side layer x y) s = .next (if u.empty (s.siteUser side layer x y) then u.spareNow side layer x y else u) :=
  congrArg Host.Outcome.next (if_pos ⟨hx, hy, hla, hs, hm⟩)

end Sites

section Uncorrectable
variable {s : State} {b code addr tile slot : Nat} {tag : Option Tag} {p : Resident}

theorem State.ueBillet_empty (hp : (s.billet b).page = none) : s.ueBillet b code addr tile slot tag =
    s.logRecord { cls := clsUe, baddr := b, tile := tile, slot := slot, tag := tag, detail := code, addr := addr } := by
  simp only [State.ueBillet, hp]

/-- An error in a billet that holds a page makes its record and its copy in the fault log, and in a running one its effect (R419). -/
theorem State.ueBillet_page (hp : (s.billet b).page = some p) : s.ueBillet b code addr tile slot tag =
    let f : FaultInfo := { cls := clsUe, cid := p.cid, baddr := b, tile := tile, slot := slot, tag := tag, page := p.page, detail := code,
                           addr := addr, rslot := p.launch.slot, queue := p.launch.queue }
    let v := (s.writeRecord f).logRecord f
    if (s.billet b).isFrozen then v else { v with due := v.due ++ [.ue p.launch b] } := by
  simp only [State.ueBillet, hp]
  rfl

end Uncorrectable

section Lines
variable {s : State} {a : TileAddr} {pa : Nat} {acc : Acc}

theorem State.ueLine_reader {t : Tile} (h : (s.tile a).readerOf (lineOf pa) = some (acc, t)) :
    s.ueLine a pa = (s.modTile a fun _ => t).ueAccess a acc pa := by
  simp only [State.ueLine, h]

variable (h : (s.tile a).readerOf (lineOf pa) = none)
include h

theorem State.ueLine_watcher {x : Billet} (hw : (s.billet a.b).watcherOf a.t (lineOf pa) = some (acc, x)) :
    s.ueLine a pa = (s.setBillet a.b x).ueAccess a acc pa := by
  simp only [State.ueLine, h, hw]

theorem State.ueLine_unread (hw : (s.billet a.b).watcherOf a.t (lineOf pa) = none) : s.ueLine a pa = s := by
  simp only [State.ueLine, h, hw]

end Lines

/-- Settles O51: each row of the errors and the sparing acts where its condition holds. -/
theorem errorsHandled : Obligations.ErrorsHandled := by
  constructor
  · intro s side struct place bank line way page layer x y column l
    refine ⟨rfl, exec_sramRemap, fun h => exec_sramRemap_waits (h.imp_right .inl), fun hk hway => ⟨fun hw => ?_, fun hw => ?_⟩,
      fun hk => ⟨fun hb hw => ?_, fun hno => ?_⟩, fun hx hy hla hs hm => ?_, fun hm => congrArg _ (if_neg (by simp [hm])), fun hk => ?_,
      fun hk => ?_⟩
    · exact congrArg Host.Outcome.next (if_pos (by simp only [hk, hw, hway, decide_true, Bool.and_self]))
    · exact congrArg Host.Outcome.next (if_neg (by simp only [hk, hw, Bool.and_false, Bool.false_and, Bool.false_eq_true, not_false_iff]))
    · exact congrArg Host.Outcome.next (if_pos (by simp only [hk, hb, hw, Bool.not_false, Bool.and_self]))
    · refine congrArg Host.Outcome.next (if_neg ?_)
      rcases hno with h | h <;> simp only [hk, h, Bool.and_false, Bool.false_and, Bool.not_true, Bool.false_eq_true, not_false_iff]
    · have hgo := exec_siteSpare hx hy hla hs hm
      exact ⟨fun he => hgo.trans (congrArg _ (if_pos he)), fun he => hgo.trans (congrArg _ (if_neg (Bool.eq_false_iff.mp he)))⟩
    · refine ⟨exec_agingMonitorRead hk, exec_agingMonitorRead hk, exec_agingMonitorRead hk, fun g rest u hu hku => ?_⟩
      rw [exec_agingMonitorRead hk, Host.Outcome.next.injEq] at hu
      rw [exec_agingMonitorRead hk, exec_agingMonitorRead hku, State.aged_cons, hu]
    · exact ⟨congrArg Host.Outcome.next (if_neg (Bool.eq_false_iff.mp hk)), congrArg Host.Outcome.next (if_neg (by simp [hk])),
        exec_sramRemap_waits (.inr (.inr hk))⟩
  · intro s b tile slot code side page pa r p a acc u x f v ends
    refine ⟨fun hp hf => ?_, fun hp hf => ?_, fun hp => congrArg Host.Outcome.next (State.ueBillet_empty hp),
      fun hr => congrArg Host.Outcome.next (State.ueLine_reader hr), fun hr => ⟨fun hw => congrArg Host.Outcome.next (State.ueLine_watcher hr hw),
        fun hw => congrArg Host.Outcome.next (State.ueLine_unread hr hw)⟩, rfl, rfl, rfl, rfl, rfl, fun hd => congrArg _ (if_pos hd),
      fun hd => congrArg _ (if_neg (Bool.eq_false_iff.mp hd))⟩
    · exact congrArg Host.Outcome.next ((State.ueBillet_page hp).trans (if_neg (Bool.eq_false_iff.mp hf)))
    · exact congrArg Host.Outcome.next ((State.ueBillet_page hp).trans (if_pos hf))

end Sys2Proof.Machine

/-! # Requests of links, and the end of a retrain -/

namespace Sys2Proof.Machine

theorem LinkKind.afterFails_eq (k : LinkKind) (n : Nat) :
    LinkKind.afterFails k n = if LinkKind.ucie k = false ∧ n % 2 = 1 then .repair (n / 2) else .retrain := by
  simp [LinkKind.afterFails]

section Requests
variable {s : State} {l : LinkId} {q : LinkReq}

theorem State.linkRequest_asks (h : (s.link (linkKey l)).lost = false) :
    s.linkRequest l q = s.modLink (linkKey l) fun k => (k.join q).start := if_neg (Bool.eq_false_iff.mp h)

theorem State.linkRequest_lost (h : (s.link (linkKey l)).lost = true) : s.linkRequest l q = s := if_pos h

/-- The eighth failure in a row asks for what the failures were of (R418). -/
theorem exec_flitCrcFail_limit (h : (s.link (linkKey l)).crcFails = 7) : exec (.flitCrcFail l) s =
    .next ((s.draw.2.modLink (linkKey l) fun k => { k with crcFails := 0 }).linkRequest l (LinkKind.afterFails l.kind s.draw.1)) :=
  congrArg Host.Outcome.next (if_neg (by rw [h]; decide))

theorem exec_flitCrcFail_counts (h : (s.link (linkKey l)).crcFails < 7) : exec (.flitCrcFail l) s =
    .next (s.modLink (linkKey l) fun k => { k with crcFails := (s.link (linkKey l)).crcFails + 1 }) :=
  congrArg Host.Outcome.next (if_pos (Nat.succ_lt_succ h))

variable {md : Nat}

theorem exec_laneRepair_asks (h : ¬ (LinkKind.ucie l.kind = true ∧ 4 ≤ md)) :
    exec (.laneRepair l md) s = .next (s.linkRequest l (.repair md)) :=
  congrArg Host.Outcome.next (if_neg (by simpa using h))

theorem exec_laneRepair_ignored (hu : LinkKind.ucie l.kind = true) (hm : 4 ≤ md) : exec (.laneRepair l md) s = .next s :=
  congrArg Host.Outcome.next (if_pos (by simp [hu, hm]))

theorem exec_widthChange_asks (hu : LinkKind.ucie l.kind = true) (hm : md < 4) :
    exec (.widthChange l md) s = .next (s.linkRequest l (.width md)) :=
  congrArg Host.Outcome.next (if_pos (by simp [hu, hm]))

theorem exec_widthChange_ignored (h : 4 ≤ md ∨ LinkKind.ucie l.kind = false) : exec (.widthChange l md) s = .next s :=
  congrArg Host.Outcome.next (if_neg (by
    rcases h with h | h
    · simp [Nat.not_lt.mpr h]
    · simp [h]))

/-- A lost link takes no request. -/
theorem exec_linkRequests_lost (h : (s.link (linkKey l)).lost = true) (rate : Nat) :
    exec (.linkRetrain l) s = .next s ∧ exec (.laneRepair l md) s = .next s ∧ exec (.widthChange l md) s = .next s ∧
      exec (.frequencyChange l rate) s = .next s := by
  have hreq (q : LinkReq) : s.linkRequest l q = s := State.linkRequest_lost h
  refine ⟨congrArg _ (hreq _), congrArg Host.Outcome.next ?_, congrArg Host.Outcome.next ?_, congrArg _ (hreq _)⟩
  · rw [hreq, ite_self]
  · rw [hreq, ite_self]

end Requests

/-- Settles O52: requests while the link stands, requests to a lost one, and the end of the request that runs. -/
theorem linksRetrain : Obligations.LinksRetrain := by
  intro s l md rate q k ask done
  have asks (hk : k.lost = false) (q : LinkReq) : s.linkRequest l q = ask q := State.linkRequest_asks hk
  refine ⟨fun hk => ?_, fun hk => ?_, fun hk => congrArg _ (asks hk _), fun hk hm => ?_, fun hk hu => ?_, fun hk hm hu => ?_,
    fun hk => congrArg _ (asks hk _), fun hm hu => exec_laneRepair_ignored hu hm, exec_widthChange_ignored,
    fun hk => exec_linkRequests_lost hk rate, fun hr => ?_, fun hr => ?_, fun hr good => ?_⟩
  · exact exec_flitCrcFail_counts hk
  · rw [exec_flitCrcFail_limit hk, LinkKind.afterFails_eq]
  · exact (exec_laneRepair_asks (fun h => Nat.not_le.mpr hm h.2)).trans (congrArg _ (asks hk _))
  · exact (exec_laneRepair_asks (fun h => Bool.eq_false_iff.mp hu h.1)).trans (congrArg _ (asks hk _))
  · exact (exec_widthChange_asks hu hm).trans (congrArg _ (asks hk _))
  · show execLinkRetrainDone l true s = _
    simp only [execLinkRetrainDone, show (s.link (linkKey l)).running = some q from hr, if_true]
    rfl
  · show execLinkRetrainDone l false s = _
    simp only [execLinkRetrainDone, show (s.link (linkKey l)).running = some q from hr, Bool.false_eq_true, if_false]
    rfl
  · show execLinkRetrainDone l good s = _
    simp only [execLinkRetrainDone, show (s.link (linkKey l)).running = none from hr]

end Sys2Proof.Machine

/-! # Clock steps, the power cap and the end of an fc -/

namespace Sys2Proof.Machine

section Steps
variable {s : State} {side : Nat}

theorem State.stepDown_steps (hk : s.keeperUp side = true) (hn : (s.side side).stepTo = none) (hc : (s.side side).clk < 2) :
    s.stepDown side = s.startStep side ((s.side side).clk + 1) := if_pos (by simp [hk, hn, hc])

theorem State.stepDown_stays (h : s.keeperUp side = false ∨ (s.side side).stepTo.isSome ∨ 2 ≤ (s.side side).clk) : s.stepDown side = s :=
  if_neg (by
    rcases h with h | h | h
    · simp [h]
    · simp [Option.isSome_iff_ne_none.mp h]
    · simp [Nat.not_lt.mpr h])

theorem exec_thermalStepUp (hk : s.keeperUp side = true) (hn : (s.side side).stepTo = none) (hc : (s.side side).baseClk < (s.side side).clk)
    (ht : (s.side side).stepNs + 100000000 ≤ s.ns) :
    exec (.thermalStepUp side) s = .next (s.startStep side ((s.side side).clk - 1)) := by
  have hcool : (s.side side).stepNs + coolTime ≤ s.ns := ht
  exact congrArg Host.Outcome.next (if_pos (by simp [hk, hn, hc, hcool]))

theorem exec_thermalStepUp_stays (h : s.keeperUp side = false ∨ (s.side side).stepTo.isSome ∨ (s.side side).clk ≤ (s.side side).baseClk ∨
    s.ns < (s.side side).stepNs + 100000000) : exec (.thermalStepUp side) s = .next s :=
  congrArg Host.Outcome.next (if_neg (by
    rcases h with h | h | h | h
    · simp [h]
    · simp [Option.isSome_iff_ne_none.mp h]
    · simp [Nat.not_lt.mpr h]
    · simp [coolTime, Nat.not_le.mpr h]))

theorem State.resumeStep_none (h : (s.side side).stepTo = none) : s.resumeStep side = s := by
  simp only [State.resumeStep, h]

theorem State.resumeStep_some {c : Nat} (h : (s.side side).stepTo = some c) : s.resumeStep side =
    if (s.side side).roleClock then s else (s.setClock side c).fabricTo 2 side (s.launchCtxs side) := by
  simp only [State.resumeStep, h]

theorem exec_clockStepResume : exec (.clockStepResume side) s = .next (if s.keeperUp side then s.resumeStep side else s) := rfl

end Steps

/-- Settles O53: steps down, up and back by the clock's place and the keeper, then the end of an fc by its side. -/
theorem clocksStep : Obligations.ClocksStep := by
  constructor
  · intro s side c watts d step
    refine ⟨fun hk hn => ⟨fun hc => ?_, fun hc => ?_, exec_thermalStepUp hk hn, fun h => exec_thermalStepUp_stays (.inr (.inr h))⟩, fun h => ?_,
      fun hk hn => ⟨fun hr => ?_, fun hr => ?_⟩, fun h => ?_, ⟨_, rfl⟩, fun hlo hhi => congrArg _ (if_pos ?_), fun h => congrArg _ (if_neg ?_)⟩
    · have hstep := State.stepDown_steps hk hn hc
      exact ⟨congrArg _ hstep, congrArg _ hstep⟩
    · have hstay := State.stepDown_stays (s := s) (side := side) (.inr (.inr hc))
      exact ⟨congrArg _ hstay, congrArg _ hstay⟩
    · have hno : s.keeperUp side = false ∨ (s.side side).stepTo.isSome := h.imp_right fun h => by
        rw [show (s.side side).stepTo = some c from h]
        rfl
      have hstay : s.stepDown side = s := State.stepDown_stays (hno.imp_right .inl)
      exact ⟨congrArg _ hstay, congrArg _ hstay, exec_thermalStepUp_stays (hno.imp_right .inl)⟩
    · rw [exec_clockStepResume, if_pos hk, State.resumeStep_some hn, if_neg (Bool.eq_false_iff.mp hr)]
      rfl
    · rw [exec_clockStepResume, if_pos hk, State.resumeStep_some hn, if_pos hr]
    · rw [exec_clockStepResume]
      rcases h with h | h
      · rw [if_neg (Bool.eq_false_iff.mp h)]
      · rw [State.resumeStep_none h, ite_self]
    · simp [capInRange, hlo, hhi]
    · simp only [capInRange, Bool.and_eq_true, decide_eq_true_eq]
      omega
  · intro s side u
    exact ⟨fun h => congrArg (fun t : State => Host.Outcome.next (t.passFc side)) (if_pos h),
      fun h => congrArg (fun t : State => Host.Outcome.next (t.passFc side)) (if_neg h)⟩

end Sys2Proof.Machine

/-! # The discipline of the DTB -/

namespace Sys2Proof.Machine

section Measures
variable {d : Dtb} {off : Int}

/-- A jump by whole ns leaves the fraction as it is (R376). -/
theorem Dtb.jump_ns (d : Dtb) (off : Int) : d.jump (off * 2 ^ 16) =
    { d with ns := d.ns + BitVec.ofInt 64 off, lastEdgeNs := ((d.lastEdgeNs : Int) + off).toNat } := by
  have hsub : (d.sub.toNat : Int) < 2 ^ 16 := by exact_mod_cast d.sub.isLt
  have hns : ((d.sub.toNat : Int) + off * 2 ^ 16) / 2 ^ 16 = off := by omega
  have hmod : ((d.sub.toNat : Int) + off * 2 ^ 16) % 2 ^ 16 = d.sub.toNat := by omega
  have hedge : off * 2 ^ 16 / 2 ^ 16 = off := by omega
  have hback : BitVec.ofInt 16 (d.sub.toNat : Int) = d.sub := by rw [BitVec.ofInt_natCast, BitVec.ofNat_toNat, BitVec.setWidth_eq]
  simp only [Dtb.jump, hns, hmod, hedge, hback]

/-- Above +1 ms the DTB steps forward (R376). -/
theorem Dtb.correct_steps (h : 1000000 < off) : d.correct off 0 =
    { d with ns := d.ns + BitVec.ofInt 64 off, lastEdgeNs := ((d.lastEdgeNs : Int) + off).toNat, stepped := true, slewing := false, slew := 0
             rate := 0 } := by
  refine (if_pos h).trans ?_
  rw [Int.sub_zero, Dtb.jump_ns]

theorem Dtb.correct_slews (h : off ≤ 1000000) (h0 : off ≠ 0) : d.correct off 0 =
    { d with slewing := true, slew := off * 65536, slow := decide (off < -1000000), rate := 0 } := by
  refine (if_neg (Int.not_lt.mpr h)).trans ((if_neg (by omega)).trans ?_)
  rw [Int.sub_zero]
  rfl

end Measures

/-- The DTB with what a measurement of an offset under PTM notes (R375). -/
def Dtb.noted (d : Dtb) (off : Int) : Dtb :=
  let good := if off.natAbs ≤ 50 then d.good + 1 else 0
  { d with toffset := satI32 off, good := good, locked := decide (16 ≤ good), holdover := false }

/-- A dialogue of the selected PTM source measures the offset against it (R375). -/
theorem exec_ptmDialogue {s : State} {src : Int} (h : s.dtb.src = 1) :
    exec (.ptmDialogue src) s = .next { s with dtb := (s.dtb.noted (src - s.ns)).correct (src - s.ns) 0 } := by
  have hacc : s.dtb.accuracy = 50 := if_pos h
  show execPtmDialogue src s = _
  simp only [execPtmDialogue, if_pos h, Dtb.measure, hacc]
  rfl

section Edges
variable {s : State}

theorem exec_ppsEdge (h : s.dtb.src = 2) : exec .ppsEdge s = .next { s with dtb :=
    { (if s.dtb.edgePending then s.dtb.edgeNext else s.dtb) with
      lastEdgeNs := (if s.dtb.edgePending then s.dtb.edgeNext else s.dtb).ns.toNat, edgePending := true, since := 0 } } :=
  congrArg Host.Outcome.next (if_pos h)

/-- A line within 500 ms of its edge names it, or the edge counts as a second after the one before (R444). -/
theorem exec_ztodLine {line : List Byte} (h : s.dtb.src = 2) (hp : s.dtb.edgePending = true) (hw : s.ns ≤ s.dtb.lastEdgeNs + 500000000) :
    exec (.ztodLine line) s = .next { s with dtb := match ztodOf line with
      | some v => s.dtb.edgeAt v
      | none => s.dtb.edgeNext } :=
  congrArg Host.Outcome.next (if_pos ⟨h, hp, hw⟩)

end Edges

section Commands
variable {s : State} {m : MbReq} (hpf : m.pf0 = true)
include hpf

/-- DTBREAD latches the time (R374). -/
theorem does_dtbread (ht : s.Takes m 0x40) (ha : m.endsAt 0 = true) :
    s.Does (.dtbread m) m 0x40 (fun u => { u with dtb := s.dtb.latch }) [(0, half s.dtb.ns false), (1, half s.dtb.ns true),
      (2, s.dtb.sub.zeroExtend 32), (3, BitVec.ofNat 32 s.dtb.tsync), (4, s.dtb.toffset)] := by
  show execDtbread m s = _
  rw [execDtbread, hpf, ha, State.command_taken ht]
  rfl

/-- TSYNCWRITE clears STEPPED and selects a source (R374). -/
theorem does_tsyncwrite (ht : s.Takes m 0x43) (ha : m.endsAt 1 = true) :
    s.Does (.tsyncwrite m) m 0x43 (fun u => { u with dtb := s.dtb.writeTsync (nthD 0 m.args 0) }) [] := by
  show execTsyncwrite m s = _
  rw [execTsyncwrite, hpf, ha, State.command_taken ht]
  rfl

end Commands

/-- Settles O54: the sources' measurements by the size of the offset, then edges and lines, and the time's commands. -/
theorem timeDisciplined : Obligations.TimeDisciplined := by
  intro s src line v m d off good d1
  refine ⟨fun h ho => ?_, fun h ho hne => ?_, fun h ho => ?_, fun h => congrArg _ (if_neg h), fun h => ⟨congrArg _ (if_neg h),
    congrArg _ (if_neg fun hno => h hno.1)⟩, fun h hp => ?_, fun h hp => ?_, fun h hp hw => ?_, fun h => congrArg _ (if_pos ?_),
    fun hs h0 => congrArg _ (if_pos ?_), fun h => congrArg _ (if_neg ?_), fun ht hpf ha => does_dtbread hpf ht ha,
    fun ht hpf ha => does_tsyncwrite hpf ht ha⟩
  · exact (exec_ptmDialogue h).trans (congrArg (fun t : Dtb => Host.Outcome.next { s with dtb := t }) (Dtb.correct_steps ho))
  · exact (exec_ptmDialogue h).trans (congrArg (fun t : Dtb => Host.Outcome.next { s with dtb := t }) (Dtb.correct_slews ho hne))
  · have h0 : src - (s.ns : Int) = 0 := ho
    refine (exec_ptmDialogue h).trans (congrArg (fun t : Dtb => Host.Outcome.next { s with dtb := t }) ?_)
    rw [h0]
    exact congrArg (fun o : Int => Dtb.correct (s.dtb.noted o) 0 0) h0.symm
  · rw [exec_ppsEdge h, show s.dtb.edgePending = false from hp]
    rfl
  · rw [exec_ppsEdge h, show s.dtb.edgePending = true from hp]
    rfl
  · have hgo := exec_ztodLine (line := line) h hp hw
    exact ⟨fun hv => by rw [hgo, hv]; rfl, fun hv => by rw [hgo, hv]⟩
  · rcases h with h | ⟨h, hw⟩
    · simp [Dtb.lost, show s.dtb.src = 1 from h]
    · have hlost : s.dtb.lastEdgeNs + edgeWindow ≤ s.dtb.ns.toNat := hw
      simp [Dtb.lost, show s.dtb.src = 2 from h, hlost]
  · simp [show s.dtb.slewing = true from hs, show s.dtb.slew = 0 from h0]
  · rcases h with h | h
    · simp [show s.dtb.slewing = false from h]
    · simp [show s.dtb.slew ≠ 0 from h]

end Sys2Proof.Machine

/-! # The mailbox: what a command meets before it takes effect, and its registers through BAR 0 -/

namespace Sys2Proof.Machine

/-- A row that runs a mailbox command, and goes on behind it only where the command has begun a change of roles or power. -/
def State.Commands (s : State) (i : Instr) (m : MbReq) (op : Nat) (may args : Bool) : Prop :=
  ∃ (run : State → State × MbAns) (post : State → State), exec i s = .next (post (s.command m op may args run)) ∧
    ∀ t : State, t.sides = s.sides → t.enterReq = s.enterReq → post t = t

section Rows
variable {s : State} {m : MbReq} (h : s.Fresh m)
include h

theorem State.Fresh.rebalance :
    exec (.rebalance m) s = .next (s.rebalance m) := by
  show execRebalance m s = _
  simp only [execRebalance, h.waits]

theorem State.Fresh.setrole : exec (.setrole m) s = .next
    (if (s.setrole m).roleUnderWay m && (s.setrole m).keeperUp (m.arg 0) then (s.setrole m).roleStep (m.arg 0) else s.setrole m) := by
  show execSetrole m s = _
  simp only [execSetrole, h.role, Bool.false_eq_true, if_false]

theorem State.Fresh.commands_setrole : s.Commands (.setrole m) m 0x31 m.pf0 (m.fits 0 1 && m.fits 1 8 && m.endsAt 2) := by
  refine ⟨_, fun t => if t.roleUnderWay m && t.keeperUp (m.arg 0) then t.roleStep (m.arg 0) else t, h.setrole, fun t ht _ => if_neg ?_⟩
  have hrole : t.roleUnderWay m = s.roleUnderWay m := by simp only [State.roleUnderWay, State.side, ht]
  simp [hrole, h.role]

theorem State.Fresh.commands_setpwrC3 : s.Commands (.setpwrC3 m) m 0x50 m.pf0 (m.arg 0 == 3 && m.endsAt 1) := by
  have hno (t : State) (ht : t.enterReq = s.enterReq) : ¬ (t.enterReq == some m) = true := by
    rw [ht]
    simpa using h.power
  exact ⟨_, fun t => if t.enterReq == some m then t.stepC3 else t,
    congrArg (fun t : State => Host.Outcome.next (if t.enterReq == some m then t.stepC3 else t)) (if_neg (hno s rfl)),
    fun t _ ht => if_neg (hno t ht)⟩

theorem State.Fresh.fwcommit :
    exec (.fwcommit m) s = .next (s.command m 0x0061 m.pf0 (m.endsAt 1) fun s => s.fwCommit m) := by
  show execFwcommit m s = _
  cases hw : s.writing with
  | none => simp only [execFwcommit, hw]
  | some p =>
    have hne : ¬ p.2 = m := fun he => h.flash p.1 (by rw [hw, ← he])
    simp only [execFwcommit, hw, if_neg hne]

/-- Every row of the mailbox runs its command. -/
theorem State.Fresh.commands {i : Instr} {op : Nat} {may args : Bool}
    (hi : (i, op, may, args) ∈ ([(.ctxwrite m, 0x01, m.pf0, m.fits 0 7 && m.endsAt 9), (.ctxread m, 0x02, m.pf0, m.fits 0 7 && m.endsAt 1),
       (.qrange m, 0x03, m.pf0, m.fits 0 10 && m.fits 1 14 && m.fits 2 15 && m.endsAt 3), (.qinstall m, 0x10, true, m.fits 0 14 && m.endsAt 17),
       (.qdestroy m, 0x11, true, m.fits 0 14 && m.endsAt 1),
       (.fqinstall m, 0x12, true, m.fits 0 7 && m.vaOk 1 && fld (m.arg 3) 4 4 == 0 && m.fits 3 11 && m.endsAt 4),
       (.inval m, 0x20, true, m.invalArgs (fld (m.arg 0) 8 1 == 1)),
       (.faultresume m, 0x21, true, m.faultArgs), (.faultabort m, 0x22, true, m.faultArgs),
       (.rebalance m, 0x30, m.pf0, m.fits 0 7 && fld (m.arg 1) 14 2 == 0 && fld (m.arg 2) 9 7 == 0 && m.fits 2 17 && m.endsAt 3),
       (.setrole m, 0x31, m.pf0, m.fits 0 1 && m.fits 1 8 && m.endsAt 2), (.debugPermit m, 0x32, true, m.fits 0 7 && m.endsAt 2),
       (.dtbread m, 0x40, m.pf0, m.endsAt 0), (.faultlog m, 0x41, m.pf0, fld (m.arg 0) 6 2 == 0 && m.fits 0 13 && m.endsAt 1),
       (.regread m, 0x42, m.pf0, m.fits 0 8 && m.endsAt 2), (.tsyncwrite m, 0x43, m.pf0, m.endsAt 1),
       (.regwrite m, 0x44, m.pf0, m.fits 0 8 && m.endsAt 3), (.setpwrC0 m, 0x50, m.pf0, m.arg 0 == 0 && m.endsAt 1),
       (.setpwrC2 m, 0x50, m.pf0, m.arg 0 == 2 && m.endsAt 1), (.setpwrC3 m, 0x50, m.pf0, m.arg 0 == 3 && m.endsAt 1),
       (.fwwrite m, 0x60, m.pf0, m.fits 0 13 && ((m.args.take 256).drop 1).all fun w => w == 0), (.fwcommit m, 0x61, m.pf0, m.endsAt 1)] :
       List (Instr × Nat × Bool × Bool))) : s.Commands i m op may args := by
  have plain {j : Instr} {code : Nat} {a b : Bool} {run : State → State × MbAns} (hj : exec j s = .next (s.command m code a b run)) :
      s.Commands j m code a b := ⟨run, id, hj, fun _ _ _ => rfl⟩
  simp only [List.mem_cons, Prod.mk.injEq, List.not_mem_nil, or_false] at hi
  rcases hi with ⟨rfl, rfl, rfl, rfl⟩ | ⟨rfl, rfl, rfl, rfl⟩ | ⟨rfl, rfl, rfl, rfl⟩ | ⟨rfl, rfl, rfl, rfl⟩ | ⟨rfl, rfl, rfl, rfl⟩ |
    ⟨rfl, rfl, rfl, rfl⟩ | ⟨rfl, rfl, rfl, rfl⟩ | ⟨rfl, rfl, rfl, rfl⟩ | ⟨rfl, rfl, rfl, rfl⟩ | ⟨rfl, rfl, rfl, rfl⟩ | ⟨rfl, rfl, rfl, rfl⟩ |
    ⟨rfl, rfl, rfl, rfl⟩ | ⟨rfl, rfl, rfl, rfl⟩ | ⟨rfl, rfl, rfl, rfl⟩ | ⟨rfl, rfl, rfl, rfl⟩ | ⟨rfl, rfl, rfl, rfl⟩ | ⟨rfl, rfl, rfl, rfl⟩ |
    ⟨rfl, rfl, rfl, rfl⟩ | ⟨rfl, rfl, rfl, rfl⟩ | ⟨rfl, rfl, rfl, rfl⟩ | ⟨rfl, rfl, rfl, rfl⟩ | ⟨rfl, rfl, rfl, rfl⟩
  exacts [plain rfl, plain rfl, plain rfl, plain rfl, plain rfl, plain rfl, plain rfl, plain rfl, plain rfl, plain h.rebalance,
    h.commands_setrole, plain rfl, plain rfl, plain rfl, plain rfl, plain rfl, plain rfl, plain rfl, plain rfl, h.commands_setpwrC3, plain rfl,
    plain h.fwcommit]

end Rows

section Waited
variable {s : State} {m : MbReq} {op : Nat} {may args : Bool} {run : State → State × MbAns} (w : s.goWaits.head? = some (m, op))
include w

/-- A command that waits and is applied once the Innkeeper acts again (R419). -/
theorem State.command_waited : s.command m op may args run =
    if s.mbServes then ({ s with goWaits := s.goWaits.drop 1 } : State).applyCommand m may args run else s := if_pos w

end Waited

section Checks
variable {s : State} {i : Instr} {m : MbReq} {op : Nat} {may args : Bool} (h : s.Commands i m op may args)
include h

/-- What a command answers without having begun a change is the row's answer. -/
theorem State.Commands.answers {t : State} (ht : ∀ run, s.command m op may args run = t) (hs : t.sides = s.sides)
    (he : t.enterReq = s.enterReq) : exec i s = .next t := by
  obtain ⟨run, post, hexec, hpost⟩ := h
  rw [hexec, ht run, hpost t hs he]

end Checks

section Bar
variable {s : State} {fn i : Nat} {v : Word} (hb : s.barUp fn = true)
include hb

theorem State.barWrite_cmd : s.barWrite fn 0x10000 v =
    .next (s.modFunc fn fun f => { f with cmdTag := v.extractLsb' 16 16, cmdOp := v.extractLsb' 0 16 }) := by
  simp [State.barWrite, hb, State.barWrite.half16]

theorem State.barWrite_arg (hi : i < 512) : s.barWrite fn (0x10040 + 4 * i) v = .next (s.modFunc fn fun f => { f with args := Tbl.put i v f.args }) := by
  have hlow : ¬ (65600 + 4 * i < 65536 ∧ (65600 + 4 * i) % 4 = 0) := by omega
  have hcmd : ¬ 65600 + 4 * i = 65536 := by omega
  have hgo : ¬ 65600 + 4 * i = 65544 := by omega
  have harg : 65600 ≤ 65600 + 4 * i ∧ 65600 + 4 * i < 67648 ∧ (65600 + 4 * i) % 4 = 0 := by omega
  have hix : (65600 + 4 * i - 65600) / 4 = i := by omega
  simp only [State.barWrite, hb, Bool.not_true, Bool.false_eq_true, if_false, if_neg hlow, if_neg hcmd, if_neg hgo, if_pos harg, hix]

theorem State.barWrite_vector (hi : i < 4 * vectorsOf fn) : s.barWrite fn (0x11000 + 4 * i) v = .next (s.writeVector fn i v) := by
  have hlow : ¬ (69632 + 4 * i < 65536 ∧ (69632 + 4 * i) % 4 = 0) := by omega
  have hcmd : ¬ 69632 + 4 * i = 65536 := by omega
  have hgo : ¬ 69632 + 4 * i = 65544 := by omega
  have harg : ¬ (65600 ≤ 69632 + 4 * i ∧ 69632 + 4 * i < 67648 ∧ (69632 + 4 * i) % 4 = 0) := by omega
  have hvec : 69632 ≤ 69632 + 4 * i ∧ 69632 + 4 * i < 69632 + 16 * vectorsOf fn ∧ (69632 + 4 * i) % 4 = 0 := by omega
  have hix : (69632 + 4 * i - 69632) / 4 = i := by omega
  simp only [State.barWrite, hb, Bool.not_true, Bool.false_eq_true, if_false, if_neg hlow, if_neg hcmd, if_neg hgo, if_neg harg, if_pos hvec, hix]

theorem State.barWrite_go : s.barWrite fn 0x10008 v = if v.getLsbD 0 then s.go fn else .next s := by
  simp [State.barWrite, hb]

end Bar

/-- A word of the table of a function without a message that pends is kept. -/
theorem State.writeVector_kept {s : State} {fn i : Nat} {v : Word} (hp : (s.func fn).pending = []) :
    s.writeVector fn i v = s.modFunc fn fun f => { f with vectors := Tbl.put i v f.vectors } := by
  simp [State.writeVector, hp]

theorem extractLsb'_halves (v : Word) : v.extractLsb' 16 16 ++ v.extractLsb' 0 16 = v := by
  ext j hj
  simp only [BitVec.getElem_append, BitVec.getElem_extractLsb']
  split
  · simp [BitVec.getLsbD_eq_getElem hj]
  · next h =>
    rw [show 16 + (j - 16) = j by omega, BitVec.getLsbD_eq_getElem hj]

/-- Settles O55: a row is its command, whose ends the laws of the mailbox give; then each register by its offset. -/
theorem mailboxChecks : Obligations.MailboxChecks := by
  constructor
  · intro s m i op may args hi hf taken
    have hc : s.Commands i m op may args := hf.commands hi
    refine ⟨fun hw => ⟨fun hb => ?_, fun hb hno => ?_, fun hh hd => ?_⟩, fun ht hm => ?_, fun ht hm ha => ?_, fun hw => ?_⟩
    · exact hc.answers (fun _ => State.command_unheard hb hw) rfl rfl
    · exact hc.answers (fun _ => State.command_ignored hb hno hw) rfl rfl
    · exact hc.answers (fun _ => State.command_waits hh hd hw) rfl rfl
    · subst hm
      exact hc.answers (fun _ => State.command_badop ht) rfl rfl
    · subst hm ha
      exact hc.answers (fun _ => State.command_refused ht) rfl rfl
    · refine ⟨fun hd => ?_, fun hd hm => ?_, fun hd hm ha => ?_⟩
      · exact hc.answers (fun _ => (State.command_waited hw).trans (if_neg (Bool.eq_false_iff.mp hd))) rfl rfl
      · subst hm
        exact hc.answers (fun _ => (State.command_waited hw).trans (if_pos hd)) rfl rfl
      · subst hm ha
        exact hc.answers (fun _ => (State.command_waited hw).trans (if_pos hd)) rfl rfl
  · intro s fn i v go j hb f
    refine ⟨⟨_, State.barWrite_cmd hb, ?_, ?_, ?_⟩, fun hi => ⟨_, State.barWrite_arg hb hi, ?_, ?_, ?_⟩,
      fun hi hp => ⟨_, State.barWrite_vector hb hi, ?_, ?_, ?_⟩, fun hg hrow => ?_, fun hg hrow hu hst => ?_,
      fun hg => (State.barWrite_go hb).trans (if_neg (Bool.eq_false_iff.mp hg))⟩
    · simp only [State.func_modFunc, Func.mailboxRead, if_true, extractLsb'_halves]
    · rw [State.func_modFunc]
    · rw [State.func_modFunc]
    · have harg : 65600 ≤ 65600 + 4 * i ∧ 65600 + 4 * i < 67648 ∧ (65600 + 4 * i) % 4 = 0 := by omega
      have hcmd : ¬ 65600 + 4 * i = 65536 := by omega
      have hstat : ¬ 65600 + 4 * i = 65540 := by omega
      simp only [State.func_modFunc, Func.mailboxRead, if_neg hcmd, if_neg hstat, if_pos harg, show (65600 + 4 * i - 65600) / 4 = i by omega,
        Tbl.get_put, Option.getD_some]
    · rw [State.func_modFunc]
    · rw [State.func_modFunc]
    · rw [State.writeVector_kept hp, State.func_modFunc]
      simp only [Func.vectorWord, Tbl.get_put, Option.getD_some]
    · rw [State.writeVector_kept hp, State.func_modFunc]
    · rw [State.writeVector_kept hp, State.modFunc_msix]
    · rw [State.barWrite_go hb, if_pos hg]
      simp only [State.go, show goRow (s.func fn).cmdOp.toNat ((s.func fn).request fn) = some j from hrow]
    · have hreq : (f.request fn).fn = fn := rfl
      have hno : ¬ (!s.mbUp fn f.cmdOp.toNat || f.state == .running) = true := by simp [hu, hst]
      have hop : BitVec.ofNat 16 f.cmdOp.toNat = f.cmdOp := by rw [BitVec.ofNat_toNat, BitVec.setWidth_eq]
      rw [State.barWrite_go hb, if_pos hg]
      simp only [State.go, show goRow (s.func fn).cmdOp.toNat ((s.func fn).request fn) = none from hrow]
      simp only [State.unknownCommand, show ((s.func fn).request fn).fn = fn from rfl, hb, Bool.not_true, Bool.false_eq_true, if_false, if_neg hno,
        hop, f]

end Sys2Proof.Machine

/-! # Commands on contexts, queues, registers and roles -/

namespace Sys2Proof.Machine

section Taken
variable {s u : State} {i : Instr} {m : MbReq} {op : Nat} {may args : Bool} {run : State → State × MbAns} {a : MbAns}
  (hexec : exec i s = .next (s.command m op may args run)) (ht : s.Takes m op) (hm : may = true) (ha : args = true)
include hexec ht hm ha

/-- A command that is taken, from a function that may issue it and with good arguments, ends as it answers. -/
theorem exec_of_run (hr : run (s.mbAccept m (BitVec.ofNat 16 op)) = (u, a)) : exec i s = .next (u.mbAnswer m.fn a) := by
  subst hm ha
  rw [hexec, State.command_taken ht, hr]

theorem exec_of_answer {res : MbResult} {outs : List (Nat × Word)}
    (hr : run (s.mbAccept m (BitVec.ofNat 16 op)) = (u, .done res outs)) : exec i s = .next (u.mbFinish m.fn res outs) :=
  exec_of_run hexec ht hm ha hr

theorem exec_of_wait {w : MbWait} (hr : run (s.mbAccept m (BitVec.ofNat 16 op)) = (u, .wait w)) :
    exec i s = .next (u.modFunc m.fn fun f => { f with waits := some w }) :=
  exec_of_run hexec ht hm ha hr

/-- A command that completes with OK does what it says. -/
theorem does_of_run {f : State → State} {outs : List (Nat × Word)}
    (hr : run (s.mbAccept m (BitVec.ofNat 16 op)) = (f (s.mbAccept m (BitVec.ofNat 16 op)), .done .ok outs)) :
    s.Does i m (BitVec.ofNat 16 op) f outs := exec_of_run hexec ht hm ha hr

end Taken

section Contexts
variable {s : State} {m : MbReq}

/-- The 256 bits that a CTXWRITE carries (R442). -/
def ctxBits (m : MbReq) : Nat := ((List.range 8).map fun k => m.arg (k + 1) * 2 ^ (32 * k)).sum

section Write
variable (ht : s.Takes m 0x01) (hpf : m.pf0 = true) (hf : m.fits 0 7 = true) (he : m.endsAt 9 = true)
include ht hpf hf he

theorem exec_ctxwrite_busy (hb : (s.ctx (m.arg 0)).teardown = true ∨ (s.ctx (m.arg 0)).zeroing = true) :
    exec (.ctxwrite m) s = .next ((s.mbAccept m 0x01#16).mbFinish m.fn .busy []) :=
  exec_of_answer rfl ht hpf (by simp [hf, he]) (if_pos (by rw [Bool.or_eq_true]; exact hb))

variable (htd : (s.ctx (m.arg 0)).teardown = false) (hz : (s.ctx (m.arg 0)).zeroing = false)
include htd hz

theorem exec_ctxwrite_invalid (hv : (s.ctx (m.arg 0)).valid = true) (hn : ctxBits m % 2 = 0) : exec (.ctxwrite m) s =
    .next (((s.mbAccept m 0x01#16).startZeroing (m.arg 0)).modFunc m.fn fun f => { f with waits := some (.zero (m.arg 0)) }) := by
  have hbusy : ¬ ((s.ctx (m.arg 0)).teardown || (s.ctx (m.arg 0)).zeroing) = true := by simp [htd, hz]
  have hdown : ((s.ctx (m.arg 0)).valid && ctxBits m % 2 == 0) = true := by simp [hv, hn]
  exact exec_of_wait rfl ht hpf (by simp [hf, he]) ((if_neg hbusy).trans (if_pos hdown))

theorem does_ctxwrite (hv : (s.ctx (m.arg 0)).valid = false ∨ ctxBits m % 2 = 1) (hr : entryReserved (ctxBits m) = true)
    (hok : (s.modCtx (m.arg 0) fun c => c.ofNat (ctxBits m)).ctxTableOk ((s.modCtx (m.arg 0) fun c => c.ofNat (ctxBits m)).ctx (m.arg 0)) = true) :
    s.Does (.ctxwrite m) m 0x01 (fun t => ((t.modCtx (m.arg 0) fun c => c.ofNat (ctxBits m)).shrink (m.arg 0)).placeSlots) [] := by
  have hbusy : ¬ ((s.ctx (m.arg 0)).teardown || (s.ctx (m.arg 0)).zeroing) = true := by simp [htd, hz]
  have hup : ¬ ((s.ctx (m.arg 0)).valid && ctxBits m % 2 == 0) = true := by rcases hv with hv | hv <;> simp [hv]
  have hgood : (entryReserved (ctxBits m) && (s.modCtx (m.arg 0) fun c => c.ofNat (ctxBits m)).ctxTableOk
      ((s.modCtx (m.arg 0) fun c => c.ofNat (ctxBits m)).ctx (m.arg 0))) = true := by rw [hr, hok]; rfl
  exact does_of_run rfl ht hpf (by simp [hf, he]) ((if_neg hbusy).trans ((if_neg hup).trans (if_pos hgood)))

end Write

theorem does_ctxread (ht : s.Takes m 0x02) (hpf : m.pf0 = true) (hf : m.fits 0 7 = true) (he : m.endsAt 1 = true) :
    s.Does (.ctxread m) m 0x02 id ((List.range 8).map fun k =>
      (k + 1, BitVec.ofNat 32 ((s.ctx (m.arg 0)).toNat (s.residentOf (m.arg 0)) / 2 ^ (32 * k)))) :=
  does_of_run rfl ht hpf (by simp [hf, he]) rfl

end Contexts

section Queues
variable {s : State} {m : MbReq} {q : VQueue}

theorem does_qrange (ht : s.Takes m 0x03) (hpf : m.pf0 = true) (hf : (m.fits 0 10 && m.fits 1 14 && m.fits 2 15 && m.endsAt 3) = true)
    (hfn : m.arg 0 ≤ 512) (hn : m.arg 1 + m.arg 2 ≤ 16384) (hfree : (s.mbAccept m 0x03#16).rangeFree (m.arg 0) (m.arg 1) (m.arg 2) = true) :
    s.Does (.qrange m) m 0x03 (fun t => t.modFunc (m.arg 0) fun f => { f with qbase := m.arg 1, qcount := m.arg 2 }) [] := by
  have hok : ¬ (m.arg 1 + m.arg 2 > 16384 || !(s.mbAccept m 0x03#16).rangeFree (m.arg 0) (m.arg 1) (m.arg 2)) = true := by simp [hfree, hn]
  exact does_of_run rfl ht hpf hf ((if_neg (Nat.not_lt.mpr hfn)).trans (if_neg hok))

theorem does_qinstall (ht : s.Takes m 0x10) (hf : m.fits 0 14 = true) (he : m.endsAt 17 = true) (hn : m.arg 0 < (s.func m.fn).qcount)
    (ho : s.owns m.fn (installQueue m).cid = true) (hd : m.descOk = true) (hc : s.ctxOpen (installQueue m).cid = true)
    (hq : s.queue? ((s.func m.fn).qbase + m.arg 0) = none) :
    s.Does (.qinstall m) m 0x10 (fun t => t.setQueue ((s.func m.fn).qbase + m.arg 0) (installQueue m))
      [(0, BitVec.ofNat 32 ((s.func m.fn).qbase + m.arg 0))] := by
  obtain ⟨hbase, hcount⟩ := State.func_mbAccept s m 0x10#16
  have hname : ¬ (m.arg 0 ≥ ((s.mbAccept m 0x10#16).func m.fn).qcount ∨ (s.mbAccept m 0x10#16).owns m.fn (installQueue m).cid = false) := by
    rw [hcount, show (s.mbAccept m 0x10#16).owns m.fn (installQueue m).cid = true from ho]
    simpa using hn
  have hok : ¬ (!m.descOk || !(s.mbAccept m 0x10#16).ctxOpen (installQueue m).cid ||
      ((s.mbAccept m 0x10#16).queue? (((s.mbAccept m 0x10#16).func m.fn).qbase + m.arg 0)).isSome) = true := by
    rw [hbase, hd, show (s.mbAccept m 0x10#16).ctxOpen (installQueue m).cid = true from hc,
      show (s.mbAccept m 0x10#16).queue? ((s.func m.fn).qbase + m.arg 0) = none from hq]
    decide
  rw [← hbase]
  exact does_of_run rfl ht rfl (by simp [hf, he]) ((if_neg hname).trans (if_neg hok))

section Destroy
variable (ht : s.Takes m 0x11) (hf : m.fits 0 14 = true) (he : m.endsAt 1 = true) (hn : m.arg 0 < (s.func m.fn).qcount)
  (hq : s.queue? ((s.func m.fn).qbase + m.arg 0) = some q)
include ht hf he hn hq

/-- A QDESTROY that names a queue of its function. -/
theorem exec_qdestroy {u : State} {a : MbAns} (hr : (if !s.owns m.fn q.cid then badName (s.mbAccept m 0x11#16)
    else if q.recs.any Rec.busy then refusal (s.mbAccept m 0x11#16)
    else okay ((s.mbAccept m 0x11#16).destroyQueue ((s.func m.fn).qbase + m.arg 0))) = (u, a)) :
    exec (.qdestroy m) s = .next (u.mbAnswer m.fn a) := by
  obtain ⟨hbase, hcount⟩ := State.func_mbAccept s m 0x11#16
  refine exec_of_run (op := 0x11) rfl ht rfl (by simp [hf, he]) (Eq.trans ?_ hr)
  show (if m.arg 0 ≥ ((s.mbAccept m 0x11#16).func m.fn).qcount then _ else _) = _
  rw [if_neg (by rw [hcount]; exact Nat.not_le.mpr hn), hbase, show (s.mbAccept m 0x11#16).queue? ((s.func m.fn).qbase + m.arg 0) = some q from hq]
  rfl

end Destroy

theorem does_fqinstall (ht : s.Takes m 0x12)
    (hf : (m.fits 0 7 && m.vaOk 1 && fld (m.arg 3) 4 4 == 0 && m.fits 3 11 && m.endsAt 4) = true) (ho : s.owns m.fn (m.arg 0) = true)
    (hc : s.ctxOpen (m.arg 0) = true) (hlo : 4 ≤ fld (m.arg 3) 0 4) (hhi : fld (m.arg 3) 0 4 ≤ 12) (hal : m.arg2 1 % 64 = 0) :
    s.Does (.fqinstall m) m 0x12 (fun t => (t.modCtx (m.arg 0) fun c =>
      { c with fq := some { va := m.arg2 1, log2 := fld (m.arg 3) 0 4, vec := fld (m.arg 3) 8 3 } }).faultHeader (m.arg 0) (m.arg2 1)) [] := by
  have hname : ¬ (!s.owns m.fn (m.arg 0)) = true := by simp [ho]
  have hok : ¬ (!s.ctxOpen (m.arg 0) || decide (fld (m.arg 3) 0 4 < 4) || decide (12 < fld (m.arg 3) 0 4) || m.arg2 1 % 64 != 0) = true := by
    simp [hc, hal, hlo, hhi]
  exact does_of_run rfl ht rfl hf ((if_neg hname).trans (if_neg hok))

end Queues

section Registers
variable {s : State} {m : MbReq}

section Log
variable (ht : s.Takes m 0x41) (hpf : m.pf0 = true) (hf : (fld (m.arg 0) 6 2 == 0 && m.fits 0 13 && m.endsAt 1) = true)
include ht hpf hf

theorem does_faultlog (hlo : 1 ≤ fld (m.arg 0) 8 5) (hhi : fld (m.arg 0) 8 5 ≤ 16) :
    s.Does (.faultlog m) m 0x41 id ((0, BitVec.ofNat 32 s.faultLogNext) :: (((List.range (fld (m.arg 0) 8 5)).flatMap fun i =>
      nthD (List.replicate 16 0) s.faultLog ((m.arg 0 % 64 + i) % 64)).zipIdx.map fun (w, i) => (16 + i, w))) :=
  does_of_run rfl ht hpf hf (if_neg (by omega))

theorem exec_faultlog_refused (h : fld (m.arg 0) 8 5 = 0 ∨ 16 < fld (m.arg 0) 8 5) :
    exec (.faultlog m) s = .next ((s.mbAccept m 0x41#16).mbFinish m.fn .refused []) :=
  exec_of_answer rfl ht hpf hf (if_pos h)

end Log

section Read
variable (ht : s.Takes m 0x42) (hpf : m.pf0 = true) (hf : (m.fits 0 8 && m.endsAt 2) = true)
include ht hpf hf

omit ht hpf hf in
/-- No register says what stands in a mailbox. -/
theorem State.regRead_mbAccept (s : State) (m : MbReq) (op : BitVec 16) (code inst : Nat) :
    (s.mbAccept m op).regRead code inst = s.regRead code inst := rfl

theorem does_regread {v : Nat} (hv : s.regRead (m.arg 0) (m.arg 1) = some v) : s.Does (.regread m) m 0x42 id [(2, BitVec.ofNat 32 v)] := by
  refine does_of_run rfl ht hpf hf ?_
  simp only [State.regRead_mbAccept, hv]
  rfl

theorem exec_regread_refused (hv : s.regRead (m.arg 0) (m.arg 1) = none) :
    exec (.regread m) s = .next ((s.mbAccept m 0x42#16).mbFinish m.fn .refused []) := by
  refine exec_of_answer rfl ht hpf hf ?_
  simp only [State.regRead_mbAccept, hv]
  rfl

end Read

section Write
variable (ht : s.Takes m 0x44) (hpf : m.pf0 = true) (hf : (m.fits 0 8 && m.endsAt 3) = true)
include ht hpf hf

theorem does_regwrite (h0 : m.arg 0 = 5) (h1 : m.arg 1 = 0) (hc : capInRange (m.arg 2) = true) :
    s.Does (.regwrite m) m 0x44 (fun t => { t with pwrCap := BitVec.ofNat 9 (m.arg 2) }) [] :=
  does_of_run rfl ht hpf hf (if_pos ⟨h0, h1, hc⟩)

theorem exec_regwrite_refused (hc : capInRange (m.arg 2) = false) :
    exec (.regwrite m) s = .next ((s.mbAccept m 0x44#16).mbFinish m.fn .refused []) :=
  exec_of_answer rfl ht hpf hf (if_neg fun h => Bool.eq_false_iff.mp hc h.2.2)

end Write

end Registers

theorem State.Takes.running {s : State} {m : MbReq} {op : Nat} (ht : s.Takes m op) (hop : op ≠ 0x60 ∧ op ≠ 0x61 ∧ op ≠ 0x42) :
    s.boot = .running := by
  obtain ⟨h60, h61, h42⟩ := hop
  have hup := ht.up
  simp only [State.mbUp, Bool.and_eq_true] at hup
  simpa [h60, h61, h42] using hup.2

section Roles
variable {s : State} {m : MbReq} {rs : List Role}

/-- A SETROLE that its side's keeper sees under way takes its next step (R430). -/
theorem exec_setrole_underWay (hr : s.roleUnderWay m = true) (hk : s.keeperUp (m.arg 0) = true) :
    exec (.setrole m) s = .next (s.roleStep (m.arg 0)) := by
  show execSetrole m s = _
  simp only [execSetrole, hr, hk, if_true, Bool.and_self]

/-- A SETROLE with a legal pattern starts the change. -/
theorem State.setrole_begins (ht : s.Takes m 0x31) (hpf : m.pf0 = true) (hf : (m.fits 0 1 && m.fits 1 8 && m.endsAt 2) = true) (hp : s.power = .c0)
    (he : s.entering = false) (hrs : rolesOf (m.arg 1) = some rs) (hok : (s.mbAccept m 0x31#16).roleOk (m.arg 0) rs = true) :
    s.setrole m = ((s.mbAccept m 0x31#16).modSide (m.arg 0) fun d => d.beginRoles rs m).modFunc m.fn fun f =>
      { f with waits := some (.role (m.arg 0)) } := by
  have hbusy : ¬ ((s.mbAccept m 0x31#16).power != .c0 || (s.mbAccept m 0x31#16).entering) = true := by
    rw [show (s.mbAccept m 0x31#16).power = .c0 from hp, show (s.mbAccept m 0x31#16).entering = false from he]
    decide
  rw [State.setrole, hpf, hf, State.command_taken ht]
  simp only [if_neg hbusy, hrs, hok, if_true]
  rfl

variable (hb : s.setrole m = ((s.mbAccept m 0x31#16).modSide (m.arg 0) fun d => d.beginRoles rs m).modFunc m.fn fun f =>
    { f with waits := some (.role (m.arg 0)) }) (hs : m.arg 0 < s.sides.length)
include hb hs

theorem State.setrole_side : (s.setrole m).side (m.arg 0) = (s.side (m.arg 0)).beginRoles rs m := by
  rw [hb]
  exact nthD_modNth _ _ hs

theorem State.setrole_underWay : (s.setrole m).roleUnderWay m = true := by
  rw [State.roleUnderWay, State.setrole_side hb hs]
  exact beq_self_eq_true (some m)

theorem State.setrole_keeperUp (hp : s.power = .c0) (hr : s.boot = .running) (hk : (s.side (m.arg 0)).innkeeperDown = false) :
    (s.setrole m).keeperUp (m.arg 0) = true := by
  have hpow : (s.setrole m).power = .c0 := by rw [hb, State.modFunc_power, State.modSide_power]; exact hp
  have hboot : (s.setrole m).boot = .running := by rw [hb, State.modFunc_boot, State.modSide_boot]; exact hr
  have hdown : ((s.side (m.arg 0)).beginRoles rs m).innkeeperDown = false := hk
  rw [State.keeperUp, hpow, hboot, State.setrole_side hb hs, hdown]
  rfl

end Roles

/-- Settles O56: each command by its checks, and what a change of roles begins with. -/
theorem mailboxInstalls : Obligations.MailboxInstalls := by
  constructor
  · intro s m q cid n w dq fq
    refine ⟨fun ht hpf hf he htd hz hv => does_ctxwrite ht hpf hf he htd hz hv,
      fun ht hpf hf he htd hz hv hn => exec_ctxwrite_invalid ht hpf hf he htd hz hv hn, fun ht hpf hf he hb => exec_ctxwrite_busy ht hpf hf he hb,
      fun ht hpf hf he => does_ctxread ht hpf hf he, fun ht hpf h0 h1 h2 he => does_qrange ht hpf (by simp [h0, h1, h2, he]), does_qinstall,
      fun ht hf he hn hq => ⟨fun ho => ?_, fun ho hb => ?_, fun ho hb => ?_⟩,
      fun ht h0 h1 h3 hf he => does_fqinstall ht (by simp [h0, h1, h3, hf, he])⟩
    · exact exec_qdestroy ht hf he hn hq (if_pos (by simp [ho]))
    · exact exec_qdestroy ht hf he hn hq ((if_neg (by simp [ho])).trans (if_neg (Bool.eq_false_iff.mp hb)))
    · exact exec_qdestroy ht hf he hn hq ((if_neg (by simp [ho])).trans (if_pos hb))
  · intro s m v rs side u
    refine ⟨fun ht hpf h0 h1 he => ?_, fun ht hpf hf he => ?_, fun ht hpf he h0 h1 => ?_, fun ht hfr hpf h0 h1 he hp hen hrs hok hs hk => ?_,
      exec_setrole_underWay⟩
    · have hf : (fld (m.arg 0) 6 2 == 0 && m.fits 0 13 && m.endsAt 1) = true := by simp [h0, h1, he]
      exact ⟨does_faultlog ht hpf hf, exec_faultlog_refused ht hpf hf⟩
    · have hargs : (m.fits 0 8 && m.endsAt 2) = true := by simp [hf, he]
      exact ⟨does_regread ht hpf hargs, exec_regread_refused ht hpf hargs⟩
    · have hargs : (m.fits 0 8 && m.endsAt 3) = true := by simp [MbReq.fits, h0, he]
      exact ⟨fun hlo hhi => does_regwrite ht hpf hargs h0 h1 (by simp [capInRange, hlo, hhi]),
        fun hno => exec_regwrite_refused ht hpf hargs (by simp only [capInRange, Bool.and_eq_false_iff, decide_eq_false_iff_not]; omega)⟩
    · have hbegin := State.setrole_begins ht hpf (by simp [h0, h1, he]) hp hen hrs hok
      have hway := State.setrole_underWay hbegin hs
      have hkeep := State.setrole_keeperUp hbegin hs hp (ht.running (by decide)) hk
      rw [hfr.setrole, hway, hkeep, hbegin]
      rfl

end Sys2Proof.Machine

/-! # Commands on translations, held accesses, pages and permits -/

namespace Sys2Proof.Machine

section Translations
variable {s : State} {b cid : Nat}

/-- What a walk caches does not change what it finds (R367). -/
theorem State.walkAt_leaf (s : State) (b cid va : Nat) (w : Bool) : (s.walkAt b cid va w).map Prod.fst = s.walk cid va := by
  simp only [State.walkAt, State.translate, Option.map_map]
  exact Option.map_id'

/-- A context of which no translation is cached meets none (R368). -/
theorem State.tlbFind_none (h : ∀ e ∈ s.tlb, e.cid ≠ cid) (va : Nat) : s.tlbFind b cid va = none := by
  have hmiss (k : Nat) : (s.tlb.find? fun e => e.place.level b == some k && e.maps cid va) = none := by
    rw [List.find?_eq_none]
    intro e he
    simp [TlbEntry.maps, h e he]
  simp only [State.tlbFind, hmiss, Option.map_none, Option.orElse_none]

theorem State.translateAt_walks {va : Nat} {w : Bool} (h : s.tlbFind b cid va = none) : s.translateAt b cid va w = s.walkAt b cid va w := by
  simp only [State.translateAt, h]

/-- A cached leaf serves as it stands, unless the access writes and finds D = 0 (R368). -/
theorem State.translateAt_hits {va j : Nat} {w : Bool} {e : TlbEntry} (h : s.tlbFind b cid va = some (j, e)) (hd : w = false ∨ e.d = true) :
    s.translateAt b cid va w = some (e.leaf va, s.tlbFill b j e) := by
  have hno : ¬ (w && !e.d) = true := by rcases hd with hd | hd <;> simp [hd]
  simp only [State.translateAt, h, if_neg hno]

end Translations

section Inval
variable {s : State} {m : MbReq}

/-- An INVAL waits for the dies, of all translations of its context or of a range (R369). -/
theorem exec_inval {range : Option (Nat × Nat)} (ht : s.Takes m 0x20) (hargs : m.invalArgs (fld (m.arg 0) 8 1 == 1) = true)
    (ho : s.owns m.fn (m.arg 0 % 128) = true)
    (hr : ¬ (!(fld (m.arg 0) 8 1 == 1) && (m.arg2 1 % 65536 != 0 || m.arg 3 == 0 || decide (m.arg 3 > 2 ^ 20))) = true)
    (hrange : (if fld (m.arg 0) 8 1 == 1 then none else some (m.arg2 1, m.arg 3 * 65536)) = range) :
    exec (.inval m) s = .next (((s.mbAccept m 0x20#16).modFunc m.fn fun f => { f with acks := 0, removed := [] }).modFunc m.fn fun f =>
      { f with waits := some (.inval (m.arg 0 % 128) range) }) := by
  subst hrange
  have hname : ¬ (!s.owns m.fn (m.arg 0 % 128)) = true := by simp [ho]
  exact exec_of_wait rfl ht rfl hargs ((if_neg hname).trans (if_neg hr))

variable {fn cid : Nat} {range : Option (Nat × Nat)}

/-- An invalidation goes on die by die, and completes once its translations are idle (R369). -/
theorem exec_invalidationComplete (hw : (s.func fn).waits = some (.inval cid range)) : exec (.invalidationComplete fn) s =
    .next (if (s.func fn).acks < 8 then s.ackInval fn (s.func fn).acks cid range
      else if s.translationsIdle cid (s.func fn).removed then s.commandDone fn else s) := by
  show execInvalidationComplete fn s = _
  simp only [execInvalidationComplete, hw]
  rfl

theorem exec_invalidationComplete_none (hw : (s.func fn).waits = none) : exec (.invalidationComplete fn) s = .next s := by
  show execInvalidationComplete fn s = _
  simp only [execInvalidationComplete, hw]

end Inval

section Pages
variable {s : State} {m : MbReq} (ht : s.Takes m 0x30) (hf : s.Fresh m) (hpf : m.pf0 = true)
  (hargs : (m.fits 0 7 && fld (m.arg 1) 14 2 == 0 && fld (m.arg 2) 9 7 == 0 && m.fits 2 17 && m.endsAt 3) = true) (hp : s.power = .c0)
  (he : s.entering = false)
include ht hf hpf hargs hp he

omit ht hf hpf hargs in
theorem State.mbAccept_busy (op : BitVec 16) : ¬ ((s.mbAccept m op).power != .c0 || (s.mbAccept m op).entering) = true := by
  rw [show (s.mbAccept m op).power = .c0 from hp, show (s.mbAccept m op).entering = false from he]
  decide

theorem exec_rebalance_moves {b t : Nat} {ts : List Nat}
    (hb : (s.mbAccept m 0x30#16).movable (m.arg 0) ⟨m.arg 1 % 2 ^ 14, fld (m.arg 1) 16 16⟩ (m.arg 2 % 512) = some b)
    (hfree : (s.mbAccept m 0x30#16).freeBillets (fld (m.arg 2) 16 1) = t :: ts) :
    exec (.rebalance m) s = .next (((s.mbAccept m 0x30#16).draw.2.modBillet b fun x =>
      { x with evict := some { relocate := some (nthD t (t :: ts) ((s.mbAccept m 0x30#16).draw.1 % (ts.length + 1))) } }).modFunc m.fn fun f =>
        { f with waits := some (.page ⟨m.arg 1 % 2 ^ 14, fld (m.arg 1) 16 16⟩ (m.arg 2 % 512)) }) := by
  refine exec_of_wait hf.rebalance ht hpf hargs ((if_neg (State.mbAccept_busy hp he _)).trans ?_)
  simp only [hb, hfree]

theorem exec_rebalance_refused
    (h : (s.mbAccept m 0x30#16).movable (m.arg 0) ⟨m.arg 1 % 2 ^ 14, fld (m.arg 1) 16 16⟩ (m.arg 2 % 512) = none ∨
      (s.mbAccept m 0x30#16).freeBillets (fld (m.arg 2) 16 1) = []) :
    exec (.rebalance m) s = .next ((s.mbAccept m 0x30#16).mbFinish m.fn .refused []) := by
  refine exec_of_answer hf.rebalance ht hpf hargs ((if_neg (State.mbAccept_busy hp he _)).trans ?_)
  rcases h with h | h
  · simp only [h]
    rfl
  · cases (s.mbAccept m 0x30#16).movable (m.arg 0) ⟨m.arg 1 % 2 ^ 14, fld (m.arg 1) 16 16⟩ (m.arg 2 % 512) <;> simp only [h] <;> rfl

end Pages

section Answers
variable {s : State} {m : MbReq} (ho : s.owns m.fn (m.arg 0) = true)
include ho

theorem does_faultresume (ht : s.Takes m 0x21) (hargs : m.faultArgs = true) : s.Does (.faultresume m) m 0x21 (fun t =>
    (t.wakeAll (m.arg 0) (m.arg2 1 / 65536)).answered (m.arg 0) (m.arg2 1 / 65536)) [] := by
  have hname : ¬ (!s.owns m.fn (m.arg 0)) = true := by simp [ho]
  exact does_of_run rfl ht rfl hargs (if_neg hname)

theorem does_faultabort (ht : s.Takes m 0x22) (hargs : m.faultArgs = true) : s.Does (.faultabort m) m 0x22 (fun t =>
    ((t.wakePages (m.arg 0) (m.arg2 1 / 65536) true).abortRecs (m.arg 0) (m.arg2 1 / 65536)).answered (m.arg 0) (m.arg2 1 / 65536)) [] := by
  have hname : ¬ (!s.owns m.fn (m.arg 0)) = true := by simp [ho]
  exact does_of_run rfl ht rfl hargs (if_neg hname)

theorem does_debugPermit (ht : s.Takes m 0x32) (hargs : (m.fits 0 7 && m.endsAt 2) = true)
    (hs : (s.sessions.any fun x => x.id = m.arg 1) = true) (hc : s.ctxOpen (m.arg 0) = true) :
    s.Does (.debugPermit m) m 0x32 (fun t => t.permit (m.arg 1) (m.arg 0)) [] := by
  have hname : ¬ (!s.owns m.fn (m.arg 0)) = true := by simp [ho]
  have hok : ¬ (!(s.sessions.any fun x => x.id = m.arg 1) || !s.ctxOpen (m.arg 0)) = true := by
    rw [hs, hc]
    decide
  exact does_of_run rfl ht rfl hargs ((if_neg hname).trans (if_neg hok))

end Answers

/-- Settles O57: translations as they are cached, walked and removed, then each command by its checks. -/
theorem mailboxTranslates : Obligations.MailboxTranslates := by
  intro s m fn cid b t ts range c g r k u cleared
  refine ⟨fun ht h0 hf ho => ⟨fun hall he => ?_, fun hall hva h3 he hal hne hle => ?_⟩, fun va w h => ?_, fun va w j e h hd => ?_,
    fun hw => ?_, exec_invalidationComplete_none, fun ht ha ho => does_faultresume ho ht ha, fun ht ha ho => does_faultabort ho ht ha,
    fun ht hfr hpf h0 h1 h2 h3 he hp hen => ?_, fun ht h0 he ho hs hc => does_debugPermit ho ht (by simp [h0, he]) hs hc, fun hz hp => ?_,
    fun hz => congrArg _ (if_neg (by simp [hz]))⟩
  · exact exec_inval ht (by simp [MbReq.invalArgs, h0, hf, hall, he]) ho (by simp [hall]) (by simp [hall])
  · exact exec_inval ht (by simp [MbReq.invalArgs, h0, hf, hall, hva, h3, he]) ho (by simpa [hal, hne] using fun _ => hle) (by simp [hall])
  · rw [State.translateAt_walks (State.tlbFind_none h va), State.walkAt_leaf]
  · rw [State.translateAt_hits h hd, Option.map_some]
  · have hgo := exec_invalidationComplete hw
    exact ⟨fun ha => hgo.trans (congrArg _ (if_pos ha)), fun ha hi => hgo.trans (congrArg _ ((if_neg (Nat.not_lt.mpr ha)).trans (if_pos hi))),
      fun ha hi => hgo.trans (congrArg _ ((if_neg (Nat.not_lt.mpr ha)).trans (if_neg (Bool.eq_false_iff.mp hi))))⟩
  · have hargs : (m.fits 0 7 && fld (m.arg 1) 14 2 == 0 && fld (m.arg 2) 9 7 == 0 && m.fits 2 17 && m.endsAt 3) = true := by
      simp [h0, h1, h2, h3, he]
    exact ⟨exec_rebalance_moves ht hfr hpf hargs hp hen, exec_rebalance_refused ht hfr hpf hargs hp hen⟩
  · exact congrArg _ (if_pos (by simp [hz, hp]))

end Sys2Proof.Machine

/-! # Debug sessions and commands, and attestation -/

namespace Sys2Proof.Machine

/-! ### Commands that name a context -/

section Commands
variable {s : State} {d : DbgReq} {ok : Bool} {run : State → State}

/-- A command with an unlock and its conditions acts. -/
theorem State.debugCmd_acts (hu : s.unlocked d = true) (hok : ok = true) : s.debugCmd d ok run = run s := if_pos (by simp [hu, hok])

/-- A command without an unlock, or without its conditions, is refused (R422). -/
theorem State.debugCmd_refused (h : s.unlocked d = false ∨ ok = false) : s.debugCmd d ok run = s.say .refused :=
  if_neg (by rcases h with h | h <;> simp [h])

end Commands

section Launches
variable {s : State} {d : DbgReq} {r : RecId} {l : Launch} (hl : s.launch? r = some l) (hc : l.cid = d.cid)
include hl hc

theorem State.debugLaunch_eq : s.debugLaunch d r = some l := by
  simp only [State.debugLaunch, hl, Option.bind_some, if_pos hc]

theorem State.isStopped_eq : s.isStopped d r = (l.st == .stopped) := by
  rw [State.isStopped, State.debugLaunch_eq hl hc]
  rfl

end Launches

/-- A function that a session names, or none: its permits. -/
theorem State.permitted_eq {s : State} {d : DbgReq} {x : Session} (hx : s.session? d.session = some x) :
    ((s.session? d.session).any fun x => x.permits.contains d.cid) = x.permits.contains d.cid := by
  rw [hx]
  rfl

section Sessions
variable {s : State} {d : DbgReq}

theorem exec_attach (h : ((s.session? d.session).any fun x => x.permits.contains d.cid) = true) :
    exec (.attach d) s = .next ((s.modSession d.session fun x =>
      { x with unlocks := if x.unlocks.contains d.cid then x.unlocks else d.cid :: x.unlocks }).say .ok) := congrArg _ (if_pos h)

theorem exec_detach (h : ((s.session? d.session).any fun x => x.permits.contains d.cid) = true) :
    exec (.detach d) s = .next ((((s.modSession d.session fun x =>
      { x with permits := x.permits.filter fun c => c ≠ d.cid, unlocks := x.unlocks.filter fun c => c ≠ d.cid }).endBreaks
        fun id cid => id == d.session && cid == d.cid).endStops d.cid).say .ok) := congrArg _ (if_pos h)

theorem exec_attach_detach_refused (h : ∀ x, s.session? d.session = some x → x.permits.contains d.cid = false) :
    exec (.attach d) s = .next (s.say .refused) ∧ exec (.detach d) s = .next (s.say .refused) := by
  have hno : ¬ ((s.session? d.session).any fun x => x.permits.contains d.cid) = true := by
    cases hs : s.session? d.session with
    | none => simp
    | some x => simpa using h x hs
  exact ⟨congrArg _ (if_neg hno), congrArg _ (if_neg hno)⟩

end Sessions

/-- Without an unlock no command acts (R422). -/
theorem exec_debug_locked {s : State} {d : DbgReq} {i : Instr} (hu : s.unlocked d = false)
    (hi : ∃ ok run, exec i s = .next (s.debugCmd d ok run)) : exec i s = .next (s.say .refused) := by
  obtain ⟨ok, run, hexec⟩ := hi
  rw [hexec, State.debugCmd_refused (.inl hu)]

section Stopped
variable {s t u : State} {d : DbgReq} {r : RecId} {n : NodeAddr} {i : Instr} (hu : s.unlocked d = true)
include hu

section Node
variable (hst : s.isStopped d r = true) (hp : ((s.billet n.b).page.any fun p => p.launch = r) = true)
include hst hp

/-- STEP runs one firing of a node of a stopped launch, or answers NOTREADY (R424). -/
theorem exec_step (hpow : s.power = .c0) : exec (.step d r n) s =
    .next ((((s.tile n.tileAddr).instrAt n.blk n.slot).bind fun i => (s.passBreak r).stepNode n i).getD (s.say .notReady)) :=
  congrArg _ (State.debugCmd_acts hu (by rw [hst, hp, hpow]; rfl))

theorem exec_discard_frees (hd : s.discardAt n = some t) : exec (.discard d r n) s = .next (t.say .ok) := by
  refine congrArg _ ((State.debugCmd_acts hu (by rw [hst, hp]; rfl)).trans ?_)
  simp only [hd]

theorem exec_discard_refused (hd : s.discardAt n = none) : exec (.discard d r n) s = .next (s.say .refused) := by
  refine congrArg _ ((State.debugCmd_acts hu (by rw [hst, hp]; rfl)).trans ?_)
  simp only [hd]

theorem exec_route {k dest tile ch : Nat} (hk : k < (s.billet n.b).routes.length) (hdest : dest < 128) (htile : tile < 8) (hch : ch < 32) :
    exec (.route d r n.b k dest tile ch) s = .next ((s.overrideRoute n.b k dest tile ch).say .ok) :=
  congrArg _ (State.debugCmd_acts hu (by rw [hst, hp]; simp [hk, hdest, htile, hch]))

end Node

section Memory
variable {va len : Nat} {bs : List Byte}

theorem exec_memrd_reads (hlen : len ≤ 4096) (hr : s.readParts d.cid (parts va len) = .ok (bs, t)) :
    exec (.memrd d va len) s = .next (t.say (.bytes bs)) := by
  refine congrArg _ ((State.debugCmd_acts hu (decide_eq_true hlen)).trans ?_)
  simp only [hr]

theorem exec_memrd_refused (hlen : len ≤ 4096) (hr : s.readParts d.cid (parts va len) = .error t) :
    exec (.memrd d va len) s = .next (t.say .refused) := by
  refine congrArg _ ((State.debugCmd_acts hu (decide_eq_true hlen)).trans ?_)
  simp only [hr]

theorem exec_memwr_writes (hlen : bs.length ≤ 4096) (hm : s.mayParts d.cid (parts va bs.length) = .ok t)
    (hw : t.writeParts d.cid (parts va bs.length) bs = .ok u) : exec (.memwr d va bs) s = .next (u.say .ok) := by
  refine congrArg _ ((State.debugCmd_acts hu (decide_eq_true hlen)).trans ?_)
  simp only [hm, Except.bind, hw]

theorem exec_memwr_refused (hlen : bs.length ≤ 4096) (hm : s.mayParts d.cid (parts va bs.length) = .error t) :
    exec (.memwr d va bs) s = .next (t.say .refused) := by
  refine congrArg _ ((State.debugCmd_acts hu (decide_eq_true hlen)).trans ?_)
  simp only [hm, Except.bind]

end Memory

end Stopped

/-- A position range without a station word (R424). -/
theorem not_scanStation {off : Nat} {vs : List Bool} (h : ∀ i < vs.length, Config.scanStation (off + i) = false) :
    (!((List.range vs.length).any fun i => Config.scanStation (off + i))) = true := by
  simpa using h

/-- Settles O59: sessions and permits, then the commands without an unlock, then each command with one by its conditions. -/
theorem debugServes : Obligations.DebugServes := by
  refine ⟨?_, ?_, ?_⟩
  · intro s fn id d x r l
    refine ⟨fun hd hs => congrArg _ (if_pos (by rw [hd, hs]; rfl)), fun h => congrArg _ (if_neg ?_), rfl,
      fun hx hp => exec_attach ((State.permitted_eq hx).trans hp), fun hx hp => exec_detach ((State.permitted_eq hx).trans hp),
      exec_attach_detach_refused, fun hu hl hc => ⟨fun hst => ?_, fun hst => ?_, fun hst => ?_, fun hst => ?_⟩⟩
    · rcases h with h | h
      · simp [h]
      · rw [h]
        simp
    · exact congrArg _ (State.debugCmd_acts hu (by rw [State.debugLaunch_eq hl hc]; simp [hst]))
    · exact congrArg _ (State.debugCmd_refused (.inr (by rw [State.debugLaunch_eq hl hc]; simp [hst])))
    · exact congrArg _ (State.debugCmd_acts hu (by rw [State.isStopped_eq hl hc, hst]; rfl))
    · exact congrArg _ (State.debugCmd_refused (.inr (by rw [State.isStopped_eq hl hc]; simp [hst])))
  · intro s d r n i b off len va page idx k dest tile ch vs bs v hu hi
    refine exec_debug_locked hu ?_
    simp only [List.mem_cons, List.not_mem_nil, or_false] at hi
    rcases hi with rfl | rfl | rfl | rfl | rfl | rfl | rfl | rfl | rfl | rfl | rfl
    all_goals exact ⟨_, _, rfl⟩
  · intro s t u d r n i b off len va page idx k dest tile ch vs bs v hu
    refine ⟨fun hst hp => ⟨fun hpow hi => ?_, fun hpow hi => ?_, exec_discard_frees hu hst hp, exec_discard_refused hu hst hp,
      exec_route hu hst hp⟩, fun hst => ⟨?_, ?_, ?_⟩, fun hs => ⟨?_, fun hno => ?_⟩, fun hs => ⟨?_, ?_⟩, exec_memrd_reads hu,
      exec_memrd_refused hu, exec_memwr_writes hu, exec_memwr_refused hu, fun hlen => ?_, fun hlen => ?_, fun hi hv => ?_, fun hi => ?_,
      fun hi => ⟨?_, ?_⟩⟩
    · have hgo := exec_step hu hst hp hpow
      rw [hi, Option.bind_some] at hgo
      exact ⟨fun h => by rw [hgo, h]; rfl, fun h => by rw [hgo, h]; rfl⟩
    · rw [exec_step hu hst hp hpow, hi]
      rfl
    · exact congrArg _ (State.debugCmd_refused (.inr (by simp [hst])))
    · exact congrArg _ (State.debugCmd_refused (.inr (by simp [hst])))
    · exact congrArg _ (State.debugCmd_refused (.inr (by simp [hst])))
    · exact congrArg _ (State.debugCmd_acts hu hs)
    · exact congrArg _ (State.debugCmd_acts hu (by rw [hs, not_scanStation hno]; rfl))
    · exact congrArg _ (State.debugCmd_refused (.inr hs))
    · exact congrArg _ (State.debugCmd_refused (.inr (by rw [hs]; rfl)))
    · exact congrArg _ (State.debugCmd_refused (.inr (decide_eq_false (Nat.not_le.mpr hlen))))
    · exact congrArg _ (State.debugCmd_refused (.inr (decide_eq_false (Nat.not_le.mpr hlen))))
    · exact congrArg _ (State.debugCmd_acts hu (by rw [hv]; simp [hi]))
    · exact congrArg _ (State.debugCmd_acts hu (decide_eq_true hi))
    · exact congrArg _ (State.debugCmd_refused (.inr (by simp [Nat.not_lt.mpr hi])))
    · exact congrArg _ (State.debugCmd_refused (.inr (decide_eq_false (Nat.not_lt.mpr hi))))

/-! ### Attestation -/

section Attest
variable {s : State} {fn : Nat}

theorem State.keyFor_eq {k : List Byte × List Byte} (hk : s.identity = some k) (g : SpdmSig) :
    s.keyFor g = some (if g = .mldsa44 then k.1 else k.2) := by
  cases g <;> simp [State.keyFor, hk]

/-- The measurements go out signed once the algorithms are chosen and the keys derived (R447). -/
theorem exec_spdmGetMeasurements {alg : SpdmAlgo} {k : List Byte × List Byte} (hd : s.doeUp fn = true) (ha : Tbl.get fn s.spdmAlgo = some alg)
    (hk : s.identity = some k) : exec (.spdmGetMeasurements fn) s = .next { s with measured := Tbl.put fn (s.measurements,
      Config.spdmSign (alg.sig == .mldsa44) (if alg.sig = .mldsa44 then k.1 else k.2) s.measurements.flatten) s.measured } := by
  show execSpdmGetMeasurements fn s = _
  simp only [execSpdmGetMeasurements, ha, State.keyFor_eq hk, hd, if_true]

theorem exec_spdmGetMeasurements_down (hd : s.doeUp fn = false) : exec (.spdmGetMeasurements fn) s = .next s := by
  show execSpdmGetMeasurements fn s = _
  simp only [execSpdmGetMeasurements, hd, Bool.false_eq_true, if_false]
  congr 1
  cases Tbl.get fn s.spdmAlgo with
  | none => rfl
  | some alg => cases h : s.keyFor alg.sig <;> simp only [h]

end Attest

/-- Settles O60: each responder where it answers, the slots, and where none answers. -/
theorem attestation : Obligations.Attestation := by
  intro s fn version pqc alg k chosen key signed
  refine ⟨fun hd => ⟨congrArg _ (if_pos hd), fun hv => congrArg _ (if_pos ?_), exec_spdmGetMeasurements hd⟩, fun hk => ?_,
    fun hd => ⟨congrArg _ (if_neg (Bool.eq_false_iff.mp hd)), congrArg _ (if_neg (by simp [hd])), exec_spdmGetMeasurements_down hd⟩⟩
  · rw [hd, Bool.true_and]
    exact List.contains_iff_mem.mpr hv
  · simp [State.certSlot, State.keyFor_eq hk]

end Sys2Proof.Machine

/-! What sending a result leaves alone (R118, R187): both memories, and every L1. -/

namespace Sys2Proof.Machine

section
variable (s : State) (a : TileAddr)

theorem State.l1_modBillet {f : Billet → Billet} (hf : ∀ x, (f x).l1 = x.l1) (b c : Nat) :
    ((s.modBillet b f).billet c).l1 = (s.billet c).l1 := by
  by_cases h : c = b
  · subst h
    rw [State.billet_modBillet, hf]
  · rw [State.billet_modBillet_ne _ h]

@[simp] theorem State.l1_modTile (f : Tile → Tile) (c : Nat) : ((s.modTile a f).billet c).l1 = (s.billet c).l1 :=
  s.l1_modBillet (f := fun x => x.modTile a.t f) (fun _ => rfl) _ _

@[simp] theorem State.l1_modNode (n : NodeAddr) (f : Node → Node) (c : Nat) : ((s.modNode n f).billet c).l1 = (s.billet c).l1 :=
  s.l1_modTile _ _ _

/-- The local stores and every L1 stand as they were. -/
def State.SameUpper (s t : State) : Prop := t.scr = s.scr ∧ ∀ c, (t.billet c).l1 = (s.billet c).l1

/-- Both memories and every L1 stand as they were. -/
def State.SameStores (s t : State) : Prop := t.mem = s.mem ∧ s.SameUpper t

theorem State.SameUpper.refl : s.SameUpper s := ⟨rfl, fun _ => rfl⟩

variable {s} in
theorem State.SameUpper.trans {t u : State} (h : s.SameUpper t) (k : t.SameUpper u) : s.SameUpper u := by
  obtain ⟨hs, hl⟩ := h
  obtain ⟨ks, kl⟩ := k
  exact ⟨ks.trans hs, fun c => (kl c).trans (hl c)⟩

theorem State.SameStores.refl : s.SameStores s := ⟨rfl, rfl, fun _ => rfl⟩

variable {s} in
theorem State.SameStores.trans {t u : State} (h : s.SameStores t) (k : t.SameStores u) : s.SameStores u := by
  obtain ⟨hm, hu⟩ := h
  obtain ⟨km, ku⟩ := k
  exact ⟨km.trans hm, hu.trans ku⟩

theorem State.sameStores_modTile (f : Tile → Tile) : s.SameStores (s.modTile a f) := ⟨rfl, rfl, fun _ => by simp⟩

theorem State.sameStores_modBillet (b : Nat) {f : Billet → Billet} (hf : ∀ x, (f x).l1 = x.l1) : s.SameStores (s.modBillet b f) :=
  ⟨rfl, rfl, fun _ => s.l1_modBillet hf _ _⟩

theorem State.sameStores_modNode (n : NodeAddr) (f : Node → Node) : s.SameStores (s.modNode n f) := s.sameStores_modTile _ _

theorem State.sameStores_trap (n : NodeAddr) (cls : Nat) (tag : Tag) (d x : Nat) : s.SameStores (s.trap n cls tag d x) := by
  unfold State.trap
  split <;> exact ⟨rfl, rfl, fun _ => rfl⟩

theorem State.sameStores_storeTok (n : NodeAddr) (i : Instr) (p : Port) (tok : Token) (enc : Enc) :
    s.SameStores (s.storeTok n i p tok enc) := s.sameStores_modTile _ _

theorem State.sameStores_absorbCarry (n : NodeAddr) (i : Instr) (tok : Token) : s.SameStores (s.absorbCarry n i tok) := by
  unfold State.absorbCarry
  dsimp only
  split
  · exact .refl _
  split
  · exact (s.sameStores_storeTok ..).trans (State.sameStores_trap ..)
  · exact s.sameStores_modNode ..

theorem State.sameStores_absorbReorder (n : NodeAddr) (i : Instr) (tok : Token) : s.SameStores (s.absorbReorder n i tok) := by
  unfold State.absorbReorder
  split
  · exact (s.sameStores_storeTok ..).trans (State.sameStores_modNode ..)
  · exact s.sameStores_modNode ..

theorem State.sameStores_acceptPort (n : NodeAddr) (p : Port) (tok : Token) (enc : Enc) :
    s.SameStores (s.acceptPort n p tok enc) := by
  unfold State.acceptPort
  dsimp only
  split
  · exact s.sameStores_modTile ..
  split
  · exact (s.sameStores_modTile ..).trans (State.sameStores_absorbCarry ..)
  · split
    · exact s.sameStores_modTile ..
    · exact (s.sameStores_modTile ..).trans (State.sameStores_modNode ..)
  · exact (s.sameStores_modTile ..).trans (State.sameStores_absorbReorder ..)
  · exact (s.sameStores_modTile ..).trans (State.sameStores_storeTok ..)

theorem State.sameStores_offerOut (blk due : Nat) (o : Out) : s.SameStores (s.offerOut a blk due o) := by
  unfold State.offerOut
  dsimp only
  split
  · exact s.sameStores_modTile ..
  · exact (s.sameStores_modTile ..).trans (State.sameStores_acceptPort ..)
  · exact (s.sameStores_modTile ..).trans (State.sameStores_modTile ..)

theorem State.sameStores_offerOuts (blk due : Nat) (os : List Out) : s.SameStores (s.offerOuts a blk due os) := by
  induction os generalizing s with
  | nil => exact .refl _
  | cons o os ih => exact (s.sameStores_offerOut a blk due o).trans (ih _)

theorem State.sameStores_flightFx (f : Flight) : s.SameStores (s.flightFx a f).1 := by
  unfold State.flightFx
  split
  · exact .refl _
  · exact .refl _
  · dsimp only
    split
    · exact s.sameStores_modTile ..
    · refine (s.sameStores_modTile ..).trans ((State.sameStores_modBillet _ _ ?_).trans (State.sameStores_modTile ..))
      exact fun _ => rfl
  · exact s.sameStores_modBillet _ fun _ => rfl
  · exact s.sameStores_modBillet _ fun _ => rfl

theorem State.sameStores_offerFlight (f : Flight) (rest : List Flight) : s.SameStores (s.offerFlight a f rest) :=
  ((s.sameStores_modTile _ _).trans (State.sameStores_flightFx _ a f)).trans (State.sameStores_offerOuts ..)

theorem State.sameStores_deliver (id : Nat) (tag : Tag) (p : Payload) : s.SameStores (s.deliver a id tag p) := by
  unfold State.deliver
  dsimp only
  split
  · split
    · exact (s.sameStores_modTile ..).trans (State.sameStores_offerFlight ..)
    · exact s.sameStores_modTile ..
  · exact s.sameStores_modTile ..

theorem State.sameStores_placeOf (acc : Acc) : s.SameStores (s.placeOf a acc) := by
  unfold State.placeOf
  split
  · exact .refl _
  · exact s.sameStores_modTile ..

end

end Sys2Proof.Machine

/-! Settles O40: a store writes its bytes and no other (R8, R191, R282, R287, R291). -/

namespace Sys2Proof.Machine

open State

/-! ### Reading back what was written -/

@[simp] theorem nthD_cons_zero {α : Type} (d x : α) (l : List α) : nthD d (x :: l) 0 = x := rfl

@[simp] theorem nthD_cons_succ {α : Type} (d x : α) (l : List α) (j : Nat) : nthD d (x :: l) (j + 1) = nthD d l j := rfl

theorem Memory.read_writes_other (bs : List Byte) (m : List Host.Cell) (a x : Nat) (h : x < a ∨ a + bs.length ≤ x) :
    Memory.read (Memory.writes m a bs) x = Memory.read m x := by
  induction bs generalizing m a with
  | nil => rfl
  | cons b bs ih =>
    rw [List.length_cons] at h
    rw [Memory.writes, ih _ _ (by omega), Memory.read_write_other _ _ _ _ (by omega)]

theorem Memory.read_writes (bs : List Byte) {m : List Host.Cell} (a : Nat) {j : Nat} (hm : Memory.wf m = true) (h : j < bs.length) :
    Memory.read (Memory.writes m a bs) (a + j) = nthD 0 bs j := by
  induction bs generalizing m a j with
  | nil => simp at h
  | cons b bs ih =>
    rw [Memory.writes]
    cases j with
    | zero => rw [Memory.read_writes_other _ _ _ _ (by omega), Nat.add_zero, Memory.read_write_same _ _ _ 0 hm, nthD_cons_zero]
    | succ j =>
      rw [show a + (j + 1) = a + 1 + j by omega, ih _ (Memory.wf_write _ _ hm) (by simpa using h), nthD_cons_succ]

theorem bytesOf_length (n x : Nat) : (bytesOf n x).length = n := by simp [bytesOf]

theorem bytesOfWords_length (ws : List Word) : (bytesOfWords ws).length = 4 * ws.length := by
  induction ws with
  | nil => rfl
  | cons w ws ih =>
    rw [bytesOfWords, List.flatMap_cons, List.length_append, List.length_cons, show (bytesOfWord w).length = 4 from bytesOf_length _ _]
    exact (congrArg (4 + ·) ih).trans (by omega)

/-- A form's bytes are as many as the form says (R191). -/
theorem bytesOfPay_length {w : Access} {p : Payload} (h : p.toVec.length = 16) : (bytesOfPay w p).length = w.bytes := by
  unfold bytesOfPay
  split
  next hw => rw [bytesOfWords_length, h, hw]; rfl
  · exact bytesOf_length _ _

/-! ### Dirty bytes of an L1 -/

/-- A cache holds a dirty byte at an address. -/
def Cache.HasDirty (c : Cache) (a : Nat) (v : Byte) : Prop :=
  ∃ e : CByte, List.find? (fun x : CByte => x.addr = a) c = some e ∧ e.val = v ∧ e.dirty = true

theorem Cache.HasDirty.find {c : Cache} {a : Nat} {v : Byte} (h : c.HasDirty a v) : c.find a = some v := by
  obtain ⟨e, he, hv, -⟩ := h
  rw [Cache.find, he, Option.map_some, hv]

theorem Cache.hasDirty_put (c : Cache) (a : Nat) (v : Byte) (cid : Nat) : (c.put a v true cid).HasDirty a v :=
  ⟨⟨a, v, true, cid⟩, by simp [Cache.put], rfl, rfl⟩

/-- Bytes that go take no dirty byte at another address with them. -/
theorem Cache.HasDirty.filter {c : Cache} {a : Nat} {v : Byte} (h : c.HasDirty a v) {p : CByte → Bool}
    (hp : ∀ e : CByte, e.addr = a → e.dirty = true → p e = true) : Cache.HasDirty (List.filter p c) a v := by
  obtain ⟨e, he, hv, hd⟩ := h
  refine ⟨e, ?_, hv, hd⟩
  induction c with
  | nil => simp at he
  | cons x c ih =>
    rw [List.find?_cons] at he
    split at he
    next hx =>
      cases he
      rw [List.filter_cons_of_pos (hp _ (of_decide_eq_true hx) hd), List.find?_cons, hx]
    next hx =>
      rw [List.filter_cons]
      split
      · rw [List.find?_cons, hx]
        exact ih he
      · exact ih he

theorem Cache.HasDirty.put {c : Cache} {a : Nat} {v : Byte} (h : c.HasDirty a v) {x : Nat} (hx : x ≠ a) (w : Byte) (d : Bool) (cid : Nat) :
    (c.put x w d cid).HasDirty a v := by
  obtain ⟨e, he, hv, hd⟩ := h.filter (p := fun y => decide (y.addr ≠ x)) fun e he _ => by simp [he, Ne.symm hx]
  exact ⟨e, by rw [Cache.put, List.find?_cons, show decide ((⟨x, w, d, cid⟩ : CByte).addr = a) = false from decide_eq_false hx]; exact he, hv, hd⟩

/-- Puts bytes into a cache one after the other, the first at an address. -/
def Cache.putAll (c : Cache) (pa cid : Nat) (bs : List (Byte × Nat)) : Cache :=
  bs.foldl (fun c (v, i) => c.put (pa + i) v true cid) c

theorem Cache.HasDirty.putAll {c : Cache} {a : Nat} {v : Byte} (h : c.HasDirty a v) (pa cid k : Nat) (bs : List Byte) (ha : a < pa + k) :
    (c.putAll pa cid (bs.zipIdx k)).HasDirty a v := by
  induction bs generalizing c k with
  | nil => exact h
  | cons b bs ih => exact ih (h.put (by omega) _ _ _) _ (by omega)

theorem Cache.hasDirty_putAll (c : Cache) (pa cid k : Nat) (bs : List Byte) {j : Nat} (hj : j < bs.length) :
    (c.putAll pa cid (bs.zipIdx k)).HasDirty (pa + (k + j)) (nthD 0 bs j) := by
  induction bs generalizing c k j with
  | nil => simp at hj
  | cons b bs ih =>
    cases j with
    | zero => exact (c.hasDirty_put (pa + k) b cid).putAll _ _ _ _ (by omega)
    | succ j =>
      rw [show k + (j + 1) = k + 1 + j by omega, nthD_cons_succ]
      exact ih _ _ (by simpa using hj)

/-! ### What write-backs leave alone -/

section
variable (s : State)

/-- A change of every billet that keeps the L1s. -/
theorem Billet.l1_map {g : Nat × Billet → Nat × Billet} (hg : ∀ e, (g e).1 = e.1 ∧ (g e).2.l1 = e.2.l1) (c : Nat) (l : List (Nat × Billet)) :
    ((Tbl.get c (l.map g)).getD {}).l1 = ((Tbl.get c l).getD {}).l1 := by
  induction l with
  | nil => rfl
  | cons x l ih =>
    obtain ⟨hk, hv⟩ := hg x
    simp only [List.map_cons, Tbl.get, hk]
    split
    · exact hv
    · exact ih

theorem State.sameUpper_touch (l : Loc) : s.SameUpper (s.touch l) := by
  refine ⟨rfl, fun c => ?_⟩
  unfold State.touch State.billet
  apply Billet.l1_map
  intro e
  refine ⟨rfl, ?_⟩
  dsimp only
  split <;> rfl

theorem State.sameUpper_takeL2 (cid pa : Nat) : s.SameUpper (s.takeL2 cid pa) := by
  unfold State.takeL2
  split
  · exact .refl _
  dsimp only
  split
  · exact .refl _
  split
  · exact ⟨rfl, fun _ => rfl⟩
  · split <;> exact ⟨rfl, fun _ => rfl⟩

theorem State.sameUpper_putByte (pa : Nat) (v : Byte) : s.SameUpper (s.putByte pa v) := by
  unfold State.putByte
  split
  · exact ⟨rfl, fun _ => rfl⟩
  · split <;> exact ⟨rfl, fun _ => rfl⟩

theorem State.sameUpper_homeWrite (cid pa : Nat) (v : Byte) : s.SameUpper (s.homeWrite cid pa v) :=
  ((s.sameUpper_takeL2 cid pa).trans (State.sameUpper_putByte _ pa v)).trans (State.sameUpper_touch ..)

theorem State.sameUpper_putHome (c : Cache) : s.SameUpper (s.putHome c) := by
  induction c generalizing s with
  | nil => exact .refl _
  | cons x xs ih =>
    rw [State.putHome]
    split
    · exact ih _
    · exact (s.sameUpper_homeWrite ..).trans (ih _)

theorem State.sameUpper_modSide (n : Nat) (f : Side → Side) : s.SameUpper (s.modSide n f) := ⟨rfl, fun _ => rfl⟩

theorem State.sameUpper_replaceRdc (sd : Nat) : s.SameUpper (s.replaceRdc sd) := by
  unfold State.replaceRdc
  dsimp only
  split
  · exact .refl _
  split
  · exact .refl _
  · exact (State.sameUpper_putHome s.draw.2 _).trans (State.sameUpper_modSide ..)

theorem State.sameUpper_sideWrite (cid sd pa : Nat) (v : Byte) : s.SameUpper (s.sideWrite cid sd pa v) := by
  unfold State.sideWrite
  split
  · exact s.sameUpper_homeWrite ..
  · exact (s.sameUpper_modSide ..).trans (State.sameUpper_replaceRdc ..)

theorem State.sameUpper_putBack (sd : Nat) (c : Cache) : s.SameUpper (s.putBack sd c) := by
  induction c generalizing s with
  | nil => exact .refl _
  | cons x xs ih => exact (s.sameUpper_sideWrite ..).trans (ih _)

/-- The line that goes from a full set is one of those used before the line just written. -/
theorem nthD_mem {α : Type} (d : α) {l : List α} {i : Nat} (h : i < l.length) : nthD d l i ∈ l := by
  rw [nthD, List.getElem?_eq_getElem h]
  exact List.getElem_mem h

/-- The line just written stays in its L1, as do the local stores. -/
theorem State.replaceL1_keeps (b line pa : Nat) (v : Byte) (hp : lineOf pa = line) (h : (s.billet b).l1.HasDirty pa v) :
    (s.replaceL1 b line).scr = s.scr ∧ ((s.replaceL1 b line).billet b).l1.HasDirty pa v := by
  unfold State.replaceL1
  dsimp only
  split
  · exact ⟨rfl, h⟩
  split
  · exact ⟨rfl, h⟩
  next hlen =>
    generalize hsame : (s.billet b).l1used.filter _ = same at hlen ⊢
    have hne : ∀ l ∈ same, l ≠ line := by
      rw [← hsame]
      intro l hl
      exact (of_decide_eq_true (List.mem_filter.mp hl).2).1
    have hv : nthD line (same.drop 1) (s.draw.1 % (same.length - 1)) ≠ line :=
      hne _ (List.mem_of_mem_drop (nthD_mem _ (by rw [List.length_drop]; exact Nat.mod_lt _ (by omega))))
    obtain ⟨hscr, hl1⟩ := State.sameUpper_putBack s.draw.2 (sideOf b)
      ((s.billet b).l1.ofLine (nthD line (same.drop 1) (s.draw.1 % (same.length - 1)))).dirty
    refine ⟨hscr, ?_⟩
    rw [State.billet_modBillet]
    dsimp only
    rw [hl1 b]
    exact h.filter fun e he _ => by simpa [he, hp] using Ne.symm hv

/-! ### Where a store writes -/

theorem homeOf_add {pa : Nat} (h : homeOf pa = none) (j : Nat) : homeOf (pa + j) = none := by
  unfold homeOf at h ⊢
  split at h
  · cases h
  split at h
  · cases h
  · rw [if_neg (by omega), if_neg (by omega)]

theorem pathOf_host {pa : Nat} (h : homeOf pa = none) (l1 atom u : Bool) (sc : Scope) : pathOf l1 atom u sc pa = .device := by
  simp [pathOf, h]

/-- A byte of host memory is written there. -/
theorem State.homeWrite_host {pa : Nat} (h : homeOf pa = none) (cid : Nat) (v : Byte) :
    (s.homeWrite cid pa v).mem = Memory.write s.mem pa v ∧ (s.homeWrite cid pa v).scr = s.scr := by
  have ht : s.takeL2 cid pa = s := by simp [State.takeL2, h]
  simp only [State.homeWrite, ht, State.putByte, h]
  exact ⟨rfl, rfl⟩

theorem State.homeWrites_host (cid : Nat) (bs : List Byte) {pa : Nat} (h : homeOf pa = none) :
    (s.homeWrites cid pa bs).mem = Memory.writes s.mem pa bs ∧ (s.homeWrites cid pa bs).scr = s.scr := by
  induction bs generalizing s pa with
  | nil => exact ⟨rfl, rfl⟩
  | cons b bs ih =>
    obtain ⟨hm, hs⟩ := s.homeWrite_host h cid b
    obtain ⟨km, ks⟩ := ih (s.homeWrite cid pa b) (homeOf_add h 1)
    exact ⟨km.trans (by rw [hm]; rfl), ks.trans hs⟩

/-- A line that neither cache of a path holds needs no write-back. -/
theorem State.skips_device {b line : Nat} (hl : (s.billet b).l1.ofLine line = []) (hr : (s.side (sideOf b)).rdc.ofLine line = []) :
    s.skips b .device line = s := by
  have hs : s.skipRdc (sideOf b) line = s := by simp [State.skipRdc, hr]
  simp [State.skips, hs, State.skipL1, hl]

theorem State.writeLoc_scr (b : Nat) (sc : Scope) (key : Nat) (bs : List Byte) :
    (s.writeLoc b sc false (.scr key) bs).mem = s.mem ∧ (s.writeLoc b sc false (.scr key) bs).scr = Memory.writes s.scr key bs :=
  ⟨rfl, rfl⟩

theorem State.writeLoc_host {pa : Nat} (h : homeOf pa = none) {b : Nat} (hl : (s.billet b).l1.ofLine (lineOf pa) = [])
    (hr : (s.side (sideOf b)).rdc.ofLine (lineOf pa) = []) (sc : Scope) (u : Bool) (bs : List Byte) :
    (s.writeLoc b sc false (.glb pa u) bs).mem = Memory.writes s.mem pa bs ∧ (s.writeLoc b sc false (.glb pa u) bs).scr = s.scr := by
  simp only [State.writeLoc, pathOf_host h, State.globalWrite, s.skips_device hl hr]
  exact s.homeWrites_host _ bs h

theorem lineOf_add {pa n j : Nat} (h : pa % Config.lineBytes + n ≤ Config.lineBytes) (hj : j < n) : lineOf (pa + j) = lineOf pa := by
  rw [Config.lineBytes] at h
  rw [lineOf, lineOf, Config.lineBytes]
  omega

/-- A store by the L1 path leaves its bytes there, dirty. -/
theorem State.writeLoc_l1 {b pa : Nat} {sc : Scope} {u : Bool} (hp : pathOf (s.billet b).hasL1 false u sc pa = .l1) {bs : List Byte}
    (hb : pa % Config.lineBytes + bs.length ≤ Config.lineBytes) {j : Nat} (hj : j < bs.length) :
    (s.writeLoc b sc false (.glb pa u) bs).scr = s.scr ∧
      ((s.writeLoc b sc false (.glb pa u) bs).billet b).l1.HasDirty (pa + j) (nthD 0 bs j) := by
  simp only [State.writeLoc, hp, State.globalWrite]
  refine State.replaceL1_keeps (s.l1Writes b pa bs) b (lineOf pa) (pa + j) _ (lineOf_add hb hj) ?_
  rw [State.l1Writes, State.billet_modBillet]
  have h := (s.billet b).l1.hasDirty_putAll pa (s.cidOf b) 0 bs hj
  rwa [Nat.zero_add] at h

theorem State.hasL1_modTile (a : TileAddr) (f : Tile → Tile) : ((s.modTile a f).billet a.b).hasL1 = (s.billet a.b).hasL1 := by
  rw [State.modTile, State.billet_modBillet]
  rfl

/-! ### What follows a store -/

/-- The end of an access keeps both memories and the dirty bytes of its L1. -/
theorem State.finish_keeps (a : TileAddr) (acc : Acc) (p : Payload) :
    (s.finish a acc p).mem = s.mem ∧ (s.finish a acc p).scr = s.scr ∧
      ∀ x v, (s.billet a.b).l1.HasDirty x v → ((s.finish a acc p).billet a.b).l1.HasDirty x v := by
  have hdrop (t : State) : t.SameStores ((t.placeOf a acc).deliver a acc.id acc.tag.asData p) :=
    (t.sameStores_placeOf a acc).trans (State.sameStores_deliver ..)
  have hacq (sc : Scope) : (s.acquireCaches a.b sc).mem = s.mem ∧ (s.acquireCaches a.b sc).scr = s.scr ∧
      ∀ x v, (s.billet a.b).l1.HasDirty x v → ((s.acquireCaches a.b sc).billet a.b).l1.HasDirty x v := by
    have hl1 : ∀ x v, (s.billet a.b).l1.HasDirty x v →
        ((s.modBillet a.b fun y => { y with l1 := y.l1.dropClean }).billet a.b).l1.HasDirty x v := fun x v h => by
      rw [State.billet_modBillet]
      exact h.filter fun _ _ hd => hd
    unfold State.acquireCaches
    dsimp only
    split <;> split
    · exact ⟨rfl, rfl, hl1⟩
    · exact ⟨rfl, rfl, fun _ _ h => h⟩
    · exact ⟨rfl, rfl, hl1⟩
    · exact ⟨rfl, rfl, fun _ _ h => h⟩
  unfold State.finish
  dsimp only
  split
  · obtain ⟨hm, hs, hl⟩ := hdrop (s.acquireCaches a.b acc.instr.scope)
    obtain ⟨km, ks, kl⟩ := hacq acc.instr.scope
    exact ⟨hm.trans km, hs.trans ks, fun x v h => by rw [hl]; exact kl x v h⟩
  · obtain ⟨hm, hs, hl⟩ := hdrop s
    exact ⟨hm, hs, fun x v h => by rw [hl]; exact h⟩

end

/-- A store that may perform writes its form's bytes at its place and sends its result. -/
theorem exec_accessComplete_st {s : State} {a : TileAddr} {k : Nat} {before : List Acc} {acc : Acc} {n : MNode} {sp : Space} {o : Order} {l : Loc}
    (hi : acc.instr = .st n sp o) (hl : acc.locs = [(0, l)]) (hp : (s.tile a).performing k = some (before, acc)) (ha : s.active a.b = true)
    (hm : s.mayPerform a k acc = true) (hu : acc.atUnit = false) (hr : acc.ripe (s.now a.b) = true) (hw : s.nextWaits before acc = false) :
    exec (.accessComplete a k) s = .next
      (((s.landAcc a k).writeLoc a.b acc.instr.scope false l (bytesOfPay n.w acc.data)).finish a acc (.word 0)) := by
  rw [exec_accessComplete hp hu hm hr hw (by rw [hi]; rfl), State.accessStep_whole (by rw [hi]; rfl) ha]
  simp only [State.performAcc, hi, firstLoc, hl]

/-- Settles O40: the form's bytes are written one after the other at the place, or join the L1 dirty, and what follows keeps them. -/
theorem storesWrite : Obligations.StoresWrite := by
  intro s a k key pa u acc before n o hok hp ha hm hu hr hw hd
  obtain ⟨hmem, hscr⟩ := hok
  have hlen : (bytesOfPay n.w acc.data).length = n.w.bytes := bytesOfPay_length hd
  refine ⟨fun hi hl => ⟨_, exec_accessComplete_st hi hl hp ha hm hu hr hw, ?_⟩, fun hi hl hh h1 h2 =>
    ⟨_, exec_accessComplete_st hi hl hp ha hm hu hr hw, ?_⟩, fun hi hl hpath hline =>
    ⟨_, exec_accessComplete_st hi hl hp ha hm hu hr hw, ?_⟩⟩
  · obtain ⟨fm, fs, -⟩ := State.finish_keeps _ a acc (.word 0)
    obtain ⟨wm, ws⟩ := (s.landAcc a k).writeLoc_scr a.b acc.instr.scope key (bytesOfPay n.w acc.data)
    rw [fm, fs, wm, ws]
    exact ⟨rfl, fun j hj => Memory.read_writes _ _ hscr (by rwa [hlen]), fun x hx => Memory.read_writes_other _ _ _ _ (by rwa [hlen])⟩
  · obtain ⟨fm, fs, -⟩ := State.finish_keeps _ a acc (.word 0)
    obtain ⟨wm, ws⟩ := (s.landAcc a k).writeLoc_host hh (by rw [State.landAcc, State.l1_modTile]; exact h1) h2 acc.instr.scope u
      (bytesOfPay n.w acc.data)
    rw [fm, fs, wm, ws]
    exact ⟨rfl, fun j hj => Memory.read_writes _ _ hmem (by rwa [hlen]), fun x hx => Memory.read_writes_other _ _ _ _ (by rwa [hlen])⟩
  · obtain ⟨-, fs, fl⟩ := State.finish_keeps _ a acc (.word 0)
    have hpath' : pathOf ((s.landAcc a k).billet a.b).hasL1 false u acc.instr.scope pa = .l1 := by
      rw [State.landAcc, State.hasL1_modTile, hi]
      exact hpath
    have hw1 (j : Nat) (hj : j < n.w.bytes) := (s.landAcc a k).writeLoc_l1 (b := a.b) (sc := acc.instr.scope) (u := u)
      (bs := bytesOfPay n.w acc.data) hpath' (by rwa [hlen]) (j := j) (by rwa [hlen])
    rw [fs]
    exact ⟨(hw1 0 (by cases n.w <;> decide)).1, fun j hj => (fl _ _ (hw1 j hj).2).find⟩

end Sys2Proof.Machine

/-! What the end of work keeps: the device's time, log, image and power state, its tables but for what leaves them, and the canonical form
of both memories (R282, R332, R338, R340, R371, R382). -/

namespace Sys2Proof.Machine

open State

theorem Tbl.mem_put {α β : Type} [DecidableEq α] {k : α} {v : β} {l : List (α × β)} {e : α × β} (h : e ∈ Tbl.put k v l) :
    e = (k, v) ∨ e ∈ l := by
  induction l with
  | nil => exact .inl (List.mem_singleton.mp h)
  | cons x l ih =>
    rw [Tbl.put] at h
    split at h
    next hk =>
      rcases List.mem_cons.mp h with h | h
      · exact .inl (by rw [h])
      · exact .inr (List.mem_cons_of_mem _ h)
    · rcases List.mem_cons.mp h with h | h
      · exact .inr (by rw [h]; exact List.mem_cons_self)
      · exact (ih h).imp id (List.mem_cons_of_mem _)

theorem Tbl.mem_of_get {α β : Type} [DecidableEq α] {k : α} {v : β} {l : List (α × β)} (h : Tbl.get k l = some v) : (k, v) ∈ l := by
  induction l with
  | nil => cases h
  | cons x l ih =>
    rw [Tbl.get] at h
    split at h
    next hk =>
      cases h
      rw [← hk]
      exact List.mem_cons_self
    · exact List.mem_cons_of_mem _ (ih h)

theorem Memory.wf_foldl (c : Cache) {m : List Host.Cell} (h : Memory.wf m = true) :
    Memory.wf (c.foldl (fun m (x : CByte) => Memory.write m x.addr x.val) m) = true := by
  induction c generalizing m with
  | nil => exact h
  | cons x c ih => exact ih (Memory.wf_write _ _ h)

/-- What an operation that works on caches, billets and records alone leaves as it is. -/
def State.kept (s : State) :=
  ((s.dtb, s.faultLog, s.flash, s.minSvn, s.keyHash, s.power), s.sides.length, s.contexts, s.queues, s.launches, s.sessions, s.mem, s.scr)

namespace State.Keeps

variable {s t u : State}

theorem refl (s : State) : s.Keeps s where
  device := rfl
  sides := rfl
  zeroing _ h := h
  queues q h := ⟨q, h, rfl⟩
  launches l h := ⟨l, h, rfl⟩
  sessions x h := ⟨x, h, rfl⟩
  memory h := h

theorem trans (h : s.Keeps t) (k : t.Keeps u) : s.Keeps u where
  device := k.device.trans h.device
  sides := k.sides.trans h.sides
  zeroing c z := k.zeroing c (h.zeroing c z)
  queues q hq :=
    have ⟨p, hp, e⟩ := k.queues q hq
    have ⟨o, ho, e'⟩ := h.queues p hp
    ⟨o, ho, e'.trans e⟩
  launches l hl :=
    have ⟨p, hp, e⟩ := k.launches l hl
    have ⟨o, ho, e'⟩ := h.launches p hp
    ⟨o, ho, e'.trans e⟩
  sessions x hx :=
    have ⟨p, hp, e⟩ := k.sessions x hx
    have ⟨o, ho, e'⟩ := h.sessions p hp
    ⟨o, ho, e'.trans e⟩
  memory h' := k.memory (h.memory h')

theorem after (k : t.Keeps u) (h : s.Keeps t) : s.Keeps u := h.trans k

theorem of_kept (h : t.kept = s.kept) : s.Keeps t := by
  simp only [State.kept, Prod.mk.injEq] at h
  obtain ⟨⟨h1, h2, h3, h4, h5, h6⟩, hs, hc, hq, hl, hx, hm, hr⟩ := h
  refine ⟨by simp only [*], hs, fun c z => ?_, fun q h => ⟨q, hq ▸ h, rfl⟩, fun l h => ⟨l, hl ▸ h, rfl⟩, fun x h => ⟨x, hx ▸ h, rfl⟩, fun h => ?_⟩
  · rwa [State.ctx, hc]
  · rwa [State.MemoryOk, hm, hr]

theorem of_ite {p : Prop} [Decidable p] (h : s.Keeps t) (k : s.Keeps u) : s.Keeps (if p then t else u) := by
  split
  · exact h
  · exact k

theorem foldl {α : Type} {f : State → α → State} (hf : ∀ (s : State) x, s.Keeps (f s x)) (l : List α) (s : State) : s.Keeps (l.foldl f s) := by
  induction l generalizing s with
  | nil => exact refl s
  | cons x l ih => exact (hf s x).trans (ih _)

end State.Keeps

section
variable (s : State)

theorem length_modNth {α : Type} (f : α → α) (n : Nat) (l : List α) : (modNth f n l).length = l.length := by
  induction l generalizing n with
  | nil => cases n <;> rfl
  | cons x l ih =>
    cases n with
    | zero => rfl
    | succ n => exact congrArg (· + 1) (ih n)

theorem State.length_modSide (n : Nat) (f : Side → Side) : (s.modSide n f).sides.length = s.sides.length := length_modNth f n _

theorem State.ctx_modCtx_ne {c d : Nat} (h : d ≠ c) (f : Context → Context) : (s.modCtx c f).ctx d = s.ctx d := by
  simp [State.modCtx, State.ctx, Tbl.get_put_ne h]

theorem State.keeps_modSide (n : Nat) (f : Side → Side) : s.Keeps (s.modSide n f) :=
  .of_kept (by rw [State.kept, State.kept, s.length_modSide]; rfl)

theorem State.keeps_setBillet (b : Nat) (x : Billet) : s.Keeps (s.setBillet b x) := .of_kept rfl

theorem State.keeps_modBillet (b : Nat) (f : Billet → Billet) : s.Keeps (s.modBillet b f) := .of_kept rfl

theorem State.keeps_modBillets (bs : List Nat) (f : Billet → Billet) : s.Keeps (s.modBillets bs f) := .of_kept rfl

theorem State.keeps_writeRecord (f : FaultInfo) : s.Keeps (s.writeRecord f) := .of_kept rfl

theorem State.keeps_touch (l : Loc) : s.Keeps (s.touch l) := .of_kept rfl

theorem State.keeps_modCtx (c : Nat) {f : Context → Context} (hf : ∀ x, x.zeroing = true → (f x).zeroing = true) :
    s.Keeps (s.modCtx c f) where
  __ := State.Keeps.refl s
  zeroing d hd := by
    by_cases h : d = c
    · subst h
      rw [State.ctx_modCtx]
      exact hf _ hd
    · rwa [State.ctx_modCtx_ne _ h]

theorem State.keeps_modQueue (n : Nat) (f : VQueue → VQueue) : s.Keeps (s.modQueue n f) := by
  unfold State.modQueue
  split
  next x hx =>
    refine { State.Keeps.refl s with queues := fun q hq => ?_ }
    rcases Tbl.mem_put hq with rfl | hq
    · exact ⟨(n, x), Tbl.mem_of_get hx, rfl⟩
    · exact ⟨q, hq, rfl⟩
  · exact .refl s

theorem State.keeps_modLaunch (r : RecId) {f : Launch → Launch} (hf : ∀ l, (f l).id = l.id) : s.Keeps (s.modLaunch r f) where
  __ := State.Keeps.refl s
  launches l hl := by
    obtain ⟨k, hk, rfl⟩ := List.mem_map.mp hl
    refine ⟨k, hk, ?_⟩
    split
    · exact (hf k).symm
    · rfl

theorem State.keeps_modRec (r : RecId) (f : Rec → Rec) : s.Keeps (s.modRec r f) := s.keeps_modQueue _ _

theorem State.keeps_recordOutcome (r : RecId) (st : Status) (fl : BitVec 5) (d : Nat) : s.Keeps (s.recordOutcome r st fl d) :=
  s.keeps_modQueue _ _

theorem State.keeps_sendMsix (fn v : Nat) : s.Keeps (s.sendMsix fn v) := by
  unfold State.sendMsix
  split <;> exact .of_kept rfl

/-! ### Caches -/

/-- An update of the memory below the local stores alone. -/
theorem State.keeps_mem {m : List Host.Cell} (h : Memory.wf s.mem = true → Memory.wf m = true) : s.Keeps { s with mem := m } where
  __ := State.Keeps.refl s
  memory k := ⟨h k.1, k.2⟩

theorem State.keeps_scr {m : List Host.Cell} (h : Memory.wf s.scr = true → Memory.wf m = true) : s.Keeps { s with scr := m } where
  __ := State.Keeps.refl s
  memory k := ⟨k.1, h k.2⟩

theorem State.keeps_dropL2 (sd line : Nat) : s.Keeps (s.dropL2 sd line) :=
  (s.keeps_mem fun h => Memory.wf_foldl _ h).trans (State.keeps_modSide ..)

theorem State.keeps_flushL2 (sd : Nat) : s.Keeps (s.flushL2 sd) :=
  (s.keeps_mem fun h => Memory.wf_foldl _ h).trans (State.keeps_modSide ..)

theorem State.keeps_draw : s.Keeps s.draw.2 := .of_kept rfl

theorem State.keeps_takeL2 (cid pa : Nat) : s.Keeps (s.takeL2 cid pa) := by
  unfold State.takeL2
  split
  · exact .refl s
  dsimp only
  split
  · exact .refl s
  split
  · exact s.keeps_draw
  · split
    · exact (s.keeps_draw.trans (State.keeps_dropL2 ..)).trans (State.keeps_modSide ..)
    · exact s.keeps_draw.trans (State.keeps_modSide ..)

theorem State.keeps_putByte (pa : Nat) (v : Byte) : s.Keeps (s.putByte pa v) := by
  unfold State.putByte
  split
  · exact s.keeps_mem (Memory.wf_write _ _)
  · split
    · exact s.keeps_modSide ..
    · exact s.keeps_mem (Memory.wf_write _ _)

theorem State.keeps_homeWrite (cid pa : Nat) (v : Byte) : s.Keeps (s.homeWrite cid pa v) :=
  ((s.keeps_takeL2 cid pa).trans (State.keeps_putByte _ pa v)).trans (State.keeps_touch ..)

theorem State.keeps_homeWrites (cid pa : Nat) (bs : List Byte) : s.Keeps (s.homeWrites cid pa bs) := by
  induction bs generalizing s pa with
  | nil => exact .refl s
  | cons b bs ih => exact (s.keeps_homeWrite ..).trans (ih _ _)

theorem State.keeps_putHome (c : Cache) : s.Keeps (s.putHome c) := by
  induction c generalizing s with
  | nil => exact .refl s
  | cons x xs ih =>
    rw [State.putHome]
    split
    · exact ih _
    · exact (s.keeps_homeWrite ..).trans (ih _)

theorem State.keeps_replaceRdc (sd : Nat) : s.Keeps (s.replaceRdc sd) := by
  unfold State.replaceRdc
  dsimp only
  split
  · exact .refl s
  split
  · exact .refl s
  · exact (s.keeps_draw.trans (State.keeps_putHome _ _)).trans (State.keeps_modSide ..)

theorem State.keeps_sideWrite (cid sd pa : Nat) (v : Byte) : s.Keeps (s.sideWrite cid sd pa v) := by
  unfold State.sideWrite
  split
  · exact s.keeps_homeWrite ..
  · exact (s.keeps_modSide ..).trans (State.keeps_replaceRdc ..)

theorem State.keeps_putBack (sd : Nat) (c : Cache) : s.Keeps (s.putBack sd c) := by
  induction c generalizing s with
  | nil => exact .refl s
  | cons x xs ih => exact (s.keeps_sideWrite ..).trans (ih _)

theorem State.keeps_writeBackL1 (b : Nat) : s.Keeps (s.writeBackL1 b) := (s.keeps_putBack _ _).trans (State.keeps_modBillet ..)

theorem State.keeps_drainRdc (sd : Nat) : s.Keeps (s.drainRdc sd) := (s.keeps_putHome _).trans (State.keeps_modSide ..)

theorem State.keeps_releaseCaches (b : Nat) (sc : Scope) : s.Keeps (s.releaseCaches b sc) := by
  unfold State.releaseCaches
  dsimp only
  split
  · split
    · exact (s.keeps_writeBackL1 b).trans (State.keeps_drainRdc ..)
    · exact s.keeps_drainRdc _
  · split
    · exact s.keeps_writeBackL1 b
    · exact .refl s

/-! ### The device's own writes -/

theorem State.keeps_markLeaf (cid : Nat) (l : Leaf) (w : Bool) : s.Keeps (s.markLeaf cid l w) := by
  unfold State.markLeaf
  exact .of_ite (.refl s) (s.keeps_homeWrite ..)

theorem State.keeps_translate {cid va : Nat} {w : Bool} {l : Leaf} {t : State} (h : s.translate cid va w = some (l, t)) : s.Keeps t := by
  obtain ⟨k, -, hk⟩ := Option.map_eq_some_iff.mp h
  cases hk
  exact s.keeps_markLeaf ..

/-- Whether it succeeds or fails, an access of the device ends in a state that keeps what this one has. -/
def State.KeepsEnd {α : Type} (s : State) (st : α → State) : Except SysEnd α → Prop
  | .ok x => s.Keeps (st x)
  | .error e => s.Keeps e.1

theorem State.keepsEnd_sysMay (cid va : Nat) : s.KeepsEnd Prod.snd (s.sysMay cid va) := by
  unfold State.sysMay
  split
  · exact .refl s
  next h =>
    have k := s.keeps_translate h
    split
    · exact k
    · split <;> exact k

theorem State.keepsEnd_sysWrite1 (cid va : Nat) (bs : List Byte) : s.KeepsEnd id (s.sysWrite1 cid va bs) := by
  have h := s.keepsEnd_sysMay cid va
  unfold State.sysWrite1
  split <;> rename_i e <;> rw [e] at h
  · exact h
  · exact h.trans (State.keeps_homeWrites ..)

theorem State.KeepsEnd.trans {s t : State} {α : Type} {st : α → State} {r : Except SysEnd α} (h : s.Keeps t) (k : t.KeepsEnd st r) :
    s.KeepsEnd st r := by
  cases r with
  | ok x => exact h.trans k
  | error e => exact State.Keeps.trans h k

theorem State.keepsEnd_sysWrite (cid va : Nat) (bs : List Byte) : s.KeepsEnd id (s.sysWrite cid va bs) := by
  unfold State.sysWrite
  dsimp only
  split
  · exact s.keepsEnd_sysWrite1 ..
  have h := s.keepsEnd_sysMay cid (va + firstPart va bs.length)
  split <;> rename_i e <;> rw [e] at h
  · exact h
  rename_i t
  have k := State.keepsEnd_sysWrite1 t cid va (bs.take (firstPart va bs.length))
  split <;> rename_i e' <;> rw [e'] at k
  · exact State.KeepsEnd.trans h k
  · exact .trans (.trans h k) (State.keepsEnd_sysWrite1 ..)

/-- A write that the device does not insist on. -/
theorem State.keeps_orElse {r : Except SysEnd State} {f : State → State} : s.KeepsEnd id r → (∀ t : State, t.Keeps (f t)) →
    s.Keeps (match r with
      | .ok t => t
      | .error (t, _) => f t) := by
  intro h hf
  cases r with
  | ok t => exact h
  | error e => exact State.Keeps.trans h (hf _)

/-! ### The end of a launch -/

theorem State.keeps_writeResult (l : Launch) : s.Keeps (s.writeResult l) :=
  s.keeps_orElse (s.keepsEnd_sysWrite ..) fun _ => State.keeps_writeRecord ..

theorem State.keeps_freeBillet (b : Nat) (e : Evict) : s.Keeps (s.freeBillet b e) := by
  unfold State.freeBillet
  dsimp only
  split <;> exact s.keeps_setBillet ..

theorem State.keeps_clearScr (b : Nat) : s.Keeps (s.clearScr b) := s.keeps_scr (Memory.wf_clear _ _)

theorem State.keeps_discardPage (b : Nat) : s.Keeps (s.discardPage b) :=
  (((s.keeps_modBillet b _).trans (State.keeps_freeBillet ..)).trans (State.keeps_clearScr ..)).trans (.of_kept rfl)

theorem State.keeps_discardPages (bs : List Nat) : s.Keeps (s.discardPages bs) := by
  induction bs generalizing s with
  | nil => exact .refl s
  | cons b bs ih => exact (s.keeps_discardPage b).trans (ih _)

theorem State.keeps_releaseAll (bs : List Nat) : s.Keeps (s.releaseAll bs) := by
  induction bs generalizing s with
  | nil => exact .refl s
  | cons b bs ih => exact (s.keeps_releaseCaches b .system).trans (ih _)

/-- Launches go, with flits of theirs. -/
theorem State.keeps_filterLaunches (p : Launch → Bool) (fs ls : List Flit) :
    s.Keeps { s with flits := fs, late := ls, launches := s.launches.filter p } where
  __ := State.Keeps.refl s
  launches l hl := ⟨l, List.mem_of_mem_filter hl, rfl⟩

theorem State.keeps_endLaunchWith (r : RecId) (st : Status) (d : Nat) : s.Keeps (s.endLaunchWith r st d) := by
  unfold State.endLaunchWith
  split
  · exact .refl s
  next l _ =>
    refine .after (State.keeps_recordOutcome ..) (.after (State.keeps_modCtx _ _ ?_) (.after (State.keeps_filterLaunches ..)
      (.after (State.keeps_discardPages ..) (.after (State.keeps_releaseAll ..) (.of_ite (.refl s) (s.keeps_writeResult l))))))
    exact fun _ h => h

theorem State.keeps_endLaunch (r : RecId) (st : Status) : s.Keeps (s.endLaunch r st) := s.keeps_endLaunchWith ..

theorem State.keeps_ctrlArrive (b e : Nat) (t : Token) : s.Keeps (s.ctrlArrive b e t) := .of_kept rfl

theorem State.keeps_raiseCheckout (r : RecId) (e : Nat) (arg : Word) : s.Keeps (s.raiseCheckout r e arg) := by
  unfold State.raiseCheckout
  split
  · exact .refl s
  split
  · exact s.keeps_modLaunch _ fun _ => rfl
  · exact s.keeps_ctrlArrive ..

theorem State.keeps_raiseEntry0 (r : RecId) (arg : Word) : s.Keeps (s.raiseEntry0 r arg) := by
  unfold State.raiseEntry0
  split
  · exact .refl s
  dsimp only
  split
  · exact s.keeps_modLaunch _ fun _ => rfl
  · exact .after (State.keeps_raiseCheckout ..) (s.keeps_modLaunch _ fun _ => rfl)

theorem State.keeps_checkoutSequence (r : RecId) (arg : Word) : s.Keeps (s.checkoutSequence r arg) := by
  unfold State.checkoutSequence
  split
  · exact .refl s
  refine .of_ite ?_ ?_
  · exact .after (State.keeps_endLaunch ..) (s.keeps_modLaunch _ fun _ => rfl)
  · exact .after (State.keeps_raiseEntry0 ..) (.after (State.keeps_modBillets ..) (.after (State.keeps_modBillets ..)
      (s.keeps_modLaunch _ fun _ => rfl)))

theorem State.keeps_endStop (l : Launch) : s.Keeps (s.endStop l) := .of_ite (s.keeps_endLaunch ..) (s.keeps_checkoutSequence ..)

theorem State.keeps_endStops (cid : Nat) : s.Keeps (s.endStops cid) :=
  .of_ite (.refl s) (.foldl (fun s l => s.keeps_endStop l) _ s)

theorem State.keeps_endPageins (q g p : Nat) (st : Status) (d : Nat) : s.Keeps (s.endPageins q g p st d) :=
  .foldl (fun s _ => s.keeps_recordOutcome ..) _ s

theorem State.keeps_failLaunch (r : RecId) (st : Status) (d : Nat) : s.Keeps (s.failLaunch r st d) := by
  unfold State.failLaunch
  split
  · exact .refl s
  dsimp only
  split
  · exact .after (.foldl (fun s _ => s.keeps_endPageins ..) _ _) (s.keeps_endLaunchWith ..)
  · exact s.keeps_endLaunchWith ..

/-! ### Queues -/

theorem State.keeps_saveQueue (n : Nat) : s.Keeps (s.saveQueue n) := by
  unfold State.saveQueue
  split
  · exact .refl s
  · exact .after (State.keeps_modQueue ..) (.foldl (fun s _ => s.keeps_orElse (s.keepsEnd_sysWrite ..) fun t => .refl t) _ s)

theorem State.keeps_leaveTable (n : Nat) : s.Keeps (s.leaveTable n) :=
  .of_kept (by rw [State.kept, State.kept, State.leaveTable, List.length_map])

theorem State.keeps_saveTable (sd : Nat) : s.Keeps (s.saveTable sd) :=
  .foldl (fun s n => .after (State.keeps_leaveTable ..) (s.keeps_saveQueue n)) _ s

theorem State.keeps_cplWrite (cid : Nat) (r : RecId) (va : Nat) (bs : List Byte) : s.Keeps (s.cplWrite cid r va bs) :=
  s.keeps_orElse (s.keepsEnd_sysWrite ..) fun _ => State.keeps_writeRecord ..

theorem State.keeps_finishRec (r : RecId) (q : VQueue) (x : Rec) (st : Status) (fl : BitVec 5) (d : Nat) :
    s.Keeps (s.finishRec r q x st fl d) := by
  unfold State.finishRec
  dsimp only
  refine .of_ite (.after (State.keeps_sendMsix ..) ?_) ?_
  all_goals
    split
    · exact .after (State.keeps_modQueue ..) (.of_ite (s.keeps_cplWrite ..) (.refl s))
    · exact .after (State.keeps_cplWrite ..) (.after (State.keeps_modQueue ..) (.of_ite (s.keeps_cplWrite ..) (.refl s)))

theorem State.keeps_completeRec (r : RecId) : s.Keeps (s.completeRec r) := by
  unfold State.completeRec
  split
  · split
    · exact .refl s
    refine .of_ite (.refl s) ?_
    have hsent (f : VQueue → VQueue) (g : Rec → Rec) (p : Prop) [Decidable p] :
        s.Keeps (if p then s else (s.modQueue r.queue f).modRec r g) :=
      .of_ite (.refl s) (.after (State.keeps_modRec ..) (s.keeps_modQueue ..))
    dsimp only
    split
    · exact hsent ..
    · exact .of_ite (.after (State.keeps_finishRec ..) (hsent ..)) (hsent ..)
  · exact .refl s

/-! ### The end of a context's work -/

theorem State.keeps_giveBack (r : RecId) : s.Keeps (s.giveBack r) := by
  unfold State.giveBack
  split
  · exact .refl s
  · exact s.keeps_modCtx _ fun _ h => h

theorem State.keeps_dropLaunch (r : RecId) : s.Keeps (s.dropLaunch r) :=
  .after (State.keeps_filterLaunches ..) (.after (State.keeps_giveBack ..) (s.keeps_discardPages _))

theorem State.keeps_dropLaunches (rs : List RecId) : s.Keeps (s.dropLaunches rs) := by
  induction rs generalizing s with
  | nil => exact .refl s
  | cons r rs ih => exact (s.keeps_dropLaunch r).trans (ih _)

theorem Tbl.mem_del {α β : Type} [DecidableEq α] {k : α} {l : List (α × β)} {e : α × β} (h : e ∈ Tbl.del k l) : e ∈ l ∧ e.1 ≠ k := by
  simpa [Tbl.del] using h

theorem State.keeps_delQueue (n : Nat) : s.Keeps { s with queues := Tbl.del n s.queues } where
  __ := State.Keeps.refl s
  queues q hq := ⟨q, (Tbl.mem_del hq).1, rfl⟩

theorem State.keeps_destroyQueue (n : Nat) : s.Keeps (s.destroyQueue n) :=
  .after (State.keeps_delQueue ..) (s.keeps_leaveTable n)

theorem State.keeps_destroyQueues (ns : List Nat) : s.Keeps (s.destroyQueues ns) := by
  induction ns generalizing s with
  | nil => exact .refl s
  | cons n ns ih => exact (s.keeps_destroyQueue n).trans (ih _)

theorem State.keeps_mapSessions {f : Session → Session} (hf : ∀ x, (f x).fn = x.fn) (ks : List (Nat × Nat × Break)) :
    s.Keeps { s with sessions := s.sessions.map f, brkStore := ks } where
  __ := State.Keeps.refl s
  sessions x hx := by
    obtain ⟨y, hy, rfl⟩ := List.mem_map.mp hx
    exact ⟨y, hy, (hf y).symm⟩

theorem State.keeps_startZeroing (cid : Nat) : s.Keeps (s.startZeroing cid) := by
  unfold State.startZeroing
  refine .after (State.keeps_modCtx _ _ ?_) (.after (State.keeps_mapSessions _ ?_ _) (.after (State.keeps_destroyQueues ..)
    (s.keeps_dropLaunches _)))
  · exact fun _ _ => rfl
  · exact fun _ => rfl

theorem State.keeps_zeroAll (cs : List Nat) : s.Keeps (s.zeroAll cs) := by
  induction cs generalizing s with
  | nil => exact .refl s
  | cons c cs ih => exact (s.keeps_startZeroing c).trans (ih _)

theorem State.keeps_filterSessions (p : Session → Bool) : s.Keeps { s with sessions := s.sessions.filter p } where
  __ := State.Keeps.refl s
  sessions x hx := ⟨x, List.mem_of_mem_filter hx, rfl⟩

theorem State.keeps_endBreaks (g : Nat → Nat → Bool) : s.Keeps (s.endBreaks g) := .of_kept rfl

theorem State.keeps_dropSessions (p : Session → Bool) : s.Keeps (s.dropSessions p) :=
  .after (.foldl (fun s c => s.keeps_endStops c) _ _) (.after (State.keeps_filterSessions ..) (s.keeps_endBreaks _))

/-! ### D3hot -/

theorem State.keeps_faultAll (rs : List RecId) : s.Keeps (s.faultAll rs) := by
  induction rs generalizing s with
  | nil => exact .refl s
  | cons r rs ih => exact .after (ih _) (.after (State.keeps_failLaunch ..) (s.keeps_modLaunch _ fun _ => rfl))

theorem State.keeps_completeAll : s.Keeps s.completeAll := .foldl (fun s r => s.keeps_completeRec r) _ s

end

end Sys2Proof.Machine

/-! Settles O58: power states, resets, boot and firmware (R437, R446 to R450). -/

namespace Sys2Proof.Machine

open State

variable {s : State} {m : MbReq}

/-! ### SETPWR (R449) -/

section Setpwr
variable {code : Nat} {run : State → State × MbAns} (ht : s.Takes m 0x50) (hpf : m.pf0 = true) (he : m.endsAt 1 = true) (hc : m.arg 0 = code)
include ht hpf he hc

theorem State.setpwr_taken : s.setpwr m code run = (if s.powerBusy = true then (s.mbAccept m 0x50#16).mbFinish m.fn .busy []
    else (run (s.mbAccept m 0x50#16)).1.mbAnswer m.fn (run (s.mbAccept m 0x50#16)).2) := by
  have hargs : (m.arg 0 == code && m.endsAt 1) = true := by simp [hc, he]
  rw [State.setpwr, hpf, hargs, State.command_taken ht]
  rw [show (s.mbAccept m (BitVec.ofNat 16 0x50)).powerBusy = s.powerBusy from rfl]
  split <;> rfl

end Setpwr

section Power
variable (ht : s.Takes m 0x50) (hf : s.Fresh m) (hpf : m.pf0 = true) (he : m.endsAt 1 = true)
include ht hpf he

theorem exec_setpwrC0 (hc : m.arg 0 = 0) (hb : s.powerBusy = false) :
    (s.power = .c0 → s.Does (.setpwrC0 m) m 0x50 id []) ∧
    (s.power ≠ .c0 → exec (.setpwrC0 m) s = .next ((s.mbAccept m 0x50).startWake.modFunc m.fn fun f => { f with waits := some .wake })) := by
  have h : exec (.setpwrC0 m) s = .next _ := congrArg Host.Outcome.next ((State.setpwr_taken ht hpf he hc).trans (if_neg (by simp [hb])))
  have hp : (s.mbAccept m 0x50#16).power = s.power := rfl
  refine ⟨fun h0 => h.trans ?_, fun h0 => h.trans ?_⟩
  · rw [if_pos (by simp [hp, h0])]
    rfl
  · rw [if_neg (by simp [hp, h0])]
    rfl

theorem exec_setpwrC2 (hc : m.arg 0 = 2) (hb : s.powerBusy = false) : s.Does (.setpwrC2 m) m 0x50 State.enterC2 [] :=
  congrArg Host.Outcome.next ((State.setpwr_taken ht hpf he hc).trans (if_neg (by simp [hb])))

include hf

omit ht hpf he in
/-- A new SETPWR to C3 is not the one whose entry goes on. -/
theorem exec_setpwrC3 {t : State} (hs : s.setpwr m 3 (fun s => if s.power == .c3 then okay s
      else ({ (if s.power == .c0 then s else s.wake) with entering := true, enterReq := some m }, .wait .power)) = t) :
    exec (.setpwrC3 m) s = .next (if t.enterReq == some m then t.stepC3 else t) := by
  show execSetpwrC3 m s = _
  have hno : ¬ (s.enterReq == some m) = true := by simpa using hf.power
  rw [execSetpwrC3, if_neg hno, hs]

theorem exec_setpwrC3_stands (hc : m.arg 0 = 3) (hb : s.powerBusy = false) (hp : s.power = .c3) : s.Does (.setpwrC3 m) m 0x50 id [] := by
  have hno : ¬ (s.enterReq == some m) = true := by simpa using hf.power
  refine (exec_setpwrC3 (t := (s.mbAccept m 0x50#16).mbFinish m.fn .ok []) hf ((State.setpwr_taken ht hpf he hc).trans ((if_neg (by simp [hb])).trans ?_))).trans
    (congrArg _ (if_neg hno))
  rw [if_pos (by simp [show (s.mbAccept m 0x50#16).power = s.power from rfl, hp])]
  rfl

theorem exec_setpwrC3_enters (hc : m.arg 0 = 3) (hb : s.powerBusy = false) (hp : s.power = .c0) : exec (.setpwrC3 m) s =
    .next (({ s.mbAccept m 0x50 with entering := true, enterReq := some m }.modFunc m.fn fun f => { f with waits := some .power }).stepC3) := by
  refine (exec_setpwrC3 (t := { s.mbAccept m 0x50 with entering := true, enterReq := some m }.modFunc m.fn
    fun f => { f with waits := some .power }) hf ((State.setpwr_taken ht hpf he hc).trans ((if_neg (by simp [hb])).trans ?_))).trans
    (congrArg _ (if_pos (by simp)))
  have hp' : (s.mbAccept m 0x50#16).power = .c0 := hp
  rw [if_neg (by simp [hp']), if_pos (by simp [hp'])]
  rfl

theorem exec_setpwr_busy (hb : s.powerBusy = true) : ∀ i ∈ [Instr.setpwrC0 m, .setpwrC2 m, .setpwrC3 m],
    ∀ k, (i, k) ∈ [(Instr.setpwrC0 m, 0), (.setpwrC2 m, 2), (.setpwrC3 m, 3)] → m.arg 0 = k →
    exec i s = .next ((s.mbAccept m 0x50).mbFinish m.fn .busy []) := by
  intro i _ k hk hc
  have hno : ¬ (s.enterReq == some m) = true := by simpa using hf.power
  simp only [List.mem_cons, List.not_mem_nil, or_false, Prod.mk.injEq] at hk
  rcases hk with ⟨rfl, rfl⟩ | ⟨rfl, rfl⟩ | ⟨rfl, rfl⟩
  · exact congrArg Host.Outcome.next ((State.setpwr_taken ht hpf he hc).trans (if_pos hb))
  · exact congrArg Host.Outcome.next ((State.setpwr_taken ht hpf he hc).trans (if_pos hb))
  · exact (exec_setpwrC3 hf ((State.setpwr_taken ht hpf he hc).trans (if_pos hb))).trans (congrArg _ (if_neg hno))

end Power

theorem exec_setpwrC3_goes_on (h : s.enterReq = some m) : exec (.setpwrC3 m) s = .next s.stepC3 := by
  show execSetpwrC3 m s = _
  simp only [execSetpwrC3, h, beq_self_eq_true, if_true]

/-! ### Wakes (R448, R450) -/

theorem exec_powerWake (h : s.power = .c2 ∨ s.power = .c3) :
    (∀ t, s.wakeAt = some t → (t ≤ s.ns → exec .powerWake s = .next s.wake) ∧ (s.ns < t → exec .powerWake s = .next s)) ∧
    (s.wakeAt = none → s.wakeCalled = true → exec .powerWake s = .next { s with
      wakeAt := some (s.ns + if s.power = .c2 then 15000 else 600000), wakeAsked := false }) ∧
    (s.wakeAt = none → s.wakeCalled = false → exec .powerWake s = .next s) := by
  have hon : (s.power == .c2 || s.power == .c3) = true := by simpa using h
  have hx : exec .powerWake s = execPowerWake s := rfl
  refine ⟨fun t ha => ⟨fun hle => ?_, fun hlt => ?_⟩, fun ha hc => ?_, fun ha hc => ?_⟩
  · simp only [hx, execPowerWake, hon, if_true, ha, if_pos hle]
  · simp only [hx, execPowerWake, hon, if_true, ha, if_neg (Nat.not_le.mpr hlt)]
  · simp only [hx, execPowerWake, hon, if_true, ha, hc, State.startWake, Option.isSome_none, Bool.false_eq_true, if_false, wakeLatency]
  · simp only [hx, execPowerWake, hon, if_true, ha, hc, Bool.false_eq_true, if_false]

theorem exec_powerWake_idle (h : s.power ≠ .c2 ∧ s.power ≠ .c3) : exec .powerWake s = .next s :=
  congrArg Host.Outcome.next (if_neg (by simpa using h))

/-! ### D3hot (R448) -/

/-- The two flushes leave no line in either side's caches. -/
theorem State.flushL2_both {t : State} (h : t.sides.length = 2) : ∀ d ∈ ((t.flushL2 0).flushL2 1).sides, d.l2 = [] ∧ d.rdc = [] := by
  obtain ⟨a, b, hs⟩ := List.length_eq_two.mp h
  intro d hd
  simp only [State.flushL2, State.modSide, hs, modNth, List.mem_cons, List.not_mem_nil, or_false] at hd
  rcases hd with rfl | rfl <;> exact ⟨rfl, rfl⟩

/-- What comes before the flushes of D3hot. -/
def State.d3hotSaved (s : State) : State := ((s.faultAll (s.launches.map Launch.id)).completeAll.saveTable 0).saveTable 1

theorem State.keeps_d3hotSaved (s : State) : s.Keeps s.d3hotSaved :=
  .after (State.keeps_saveTable ..) (.after (State.keeps_saveTable ..) (.after (State.keeps_completeAll _) (s.keeps_faultAll _)))

theorem exec_d3hotEntry (hp : s.power = .c0 ∨ s.power = .c2 ∨ s.power = .c3) (hb : s.boot = .running) :
    ∃ t, exec .d3hotEntry s = .next t ∧ t.power = .d3hot ∧ t.billets = [] ∧ t.scr = [] ∧ t.flits = [] ∧ t.late = [] ∧ t.tlb = [] ∧
      (s.sides.length = 2 → ∀ d ∈ t.sides, d.knocks = [] ∧ d.l2 = [] ∧ d.rdc = []) ∧
      t.dtb = s.dtb ∧ t.faultLog = s.faultLog ∧ t.flash = s.flash ∧ t.minSvn = s.minSvn ∧ t.keyHash = s.keyHash := by
  have hgo : ((s.power == .c0 || s.power == .c2 || s.power == .c3) && s.boot == .running) = true := by
    rcases hp with h | h | h <;> simp [h, hb]
  obtain ⟨hdev, hlen, -⟩ := State.Keeps.after ((State.keeps_flushL2 (s.d3hotSaved.flushL2 0) 1).after (State.keeps_flushL2 _ 0)) s.keeps_d3hotSaved
  simp only [Prod.mk.injEq] at hdev
  obtain ⟨hdtb, hlog, hflash, hsvn, hkey, -⟩ := hdev
  refine ⟨_, congrArg Host.Outcome.next (if_pos hgo), rfl, rfl, rfl, rfl, rfl, rfl, fun h2 d hd => ?_, hdtb, hlog, hflash, hsvn, hkey⟩
  obtain ⟨e, he, rfl⟩ := List.mem_map.mp hd
  exact ⟨rfl, State.flushL2_both (s.keeps_d3hotSaved.sides.trans h2) e he⟩

/-! ### Resets (R340, R371, R441, R450) -/

theorem exec_functionLevelReset {fn : Nat} (hp : s.power = .c0 ∨ s.power = .c2 ∨ s.power = .c3 ∨ s.power = .d3hot)
    (hb : s.boot = .running ∨ (s.boot = .recovery ∧ fn = 0)) :
    exec (.functionLevelReset fn) s = .next (s.resetFns (s.resetSet fn)).askWake := by
  refine congrArg Host.Outcome.next (if_pos ?_)
  have hon : (s.power == .c0 || s.power == .c2 || s.power == .c3 || s.power == .d3hot) = true := by
    rcases hp with h | h | h | h <;> simp [h]
  rw [State.resetReaches, hon]
  rcases hb with h | ⟨h, h0⟩ <;> simp [*]

theorem exec_functionLevelReset_unheard {fn : Nat} (hb : s.boot = .notBooted ∨ (s.boot = .recovery ∧ fn ≠ 0)) :
    exec (.functionLevelReset fn) s = .next s := by
  refine congrArg Host.Outcome.next (if_neg ?_)
  rw [State.resetReaches]
  rcases hb with h | ⟨h, h0⟩ <;> simp [*]

theorem State.zeroing_startZeroing (s : State) (c : Nat) : ((s.startZeroing c).ctx c).zeroing = true := by
  unfold State.startZeroing
  dsimp only
  rw [State.ctx_modCtx]

/-- Every context of the list is being zeroed. -/
theorem State.zeroing_zeroAll {cs : List Nat} {c : Nat} (h : c ∈ cs) (s : State) : ((s.zeroAll cs).ctx c).zeroing = true := by
  induction cs generalizing s with
  | nil => cases h
  | cons d cs ih =>
    rcases List.mem_cons.mp h with rfl | h
    · exact (State.keeps_zeroAll _ cs).zeroing _ (s.zeroing_startZeroing _)
    · exact ih h _

/-- A launch that is dropped is not there any more. -/
theorem State.launches_dropLaunches {rs : List RecId} {r : RecId} (h : r ∈ rs) (s : State) : ∀ l ∈ (s.dropLaunches rs).launches, l.id ≠ r := by
  induction rs generalizing s with
  | nil => cases h
  | cons q rs ih =>
    rcases List.mem_cons.mp h with rfl | h
    · intro l hl e
      obtain ⟨k, hk, he⟩ := (State.keeps_dropLaunches (s.dropLaunch r) rs).launches l hl
      exact of_decide_eq_true (List.mem_filter.mp hk).2 (he.trans e)
    · exact ih h _

theorem State.queues_destroyQueues {ns : List Nat} {n : Nat} (h : n ∈ ns) (s : State) : ∀ q ∈ (s.destroyQueues ns).queues, q.1 ≠ n := by
  induction ns generalizing s with
  | nil => cases h
  | cons k ns ih =>
    rcases List.mem_cons.mp h with rfl | h
    · intro q hq e
      obtain ⟨p, hp, he⟩ := (State.keeps_destroyQueues (s.destroyQueue n) ns).queues q hq
      exact (Tbl.mem_del hp).2 (he.trans e)
    · exact ih h _

/-- The queues that are named by a property go. -/
theorem State.queues_destroyWhere (p : Nat → Bool) (s : State) :
    ∀ q ∈ (s.destroyQueues ((s.queues.filter fun e => p e.1).map Prod.fst)).queues, p q.1 = false := by
  intro q hq
  obtain ⟨e, he, hk⟩ := (s.keeps_destroyQueues _).queues q hq
  refine Bool.eq_false_iff.mpr fun hp => ?_
  exact State.queues_destroyQueues (List.mem_map.mpr ⟨e, List.mem_filter.mpr ⟨he, by rwa [hk]⟩, hk⟩) s q hq rfl

/-- So do the launches of such queues. -/
theorem State.launches_dropWhere (p : Nat → Bool) (s : State) :
    ∀ l ∈ (s.dropLaunches ((s.launches.filter fun (l : Launch) => p l.id.queue).map Launch.id)).launches, p l.id.queue = false := by
  intro l hl
  obtain ⟨k, hk, he⟩ := (s.keeps_dropLaunches _).launches l hl
  refine Bool.eq_false_iff.mpr fun hp => ?_
  exact State.launches_dropLaunches (List.mem_map.mpr ⟨k, List.mem_filter.mpr ⟨hk, by rwa [he]⟩, he⟩) s l hl rfl

/-! A teardown discards pages and writes nothing below the local stores. -/

theorem State.mem_discardPages (s : State) (bs : List Nat) : (s.discardPages bs).mem = s.mem := by
  induction bs generalizing s with
  | nil => rfl
  | cons b bs ih =>
    refine (ih _).trans ?_
    unfold State.discardPage State.freeBillet
    dsimp only
    split <;> rfl

theorem State.mem_dropLaunches (s : State) (rs : List RecId) : (s.dropLaunches rs).mem = s.mem := by
  induction rs generalizing s with
  | nil => rfl
  | cons r rs ih =>
    refine (ih _).trans (Eq.trans ?_ (s.mem_discardPages (s.billetsOf r)))
    unfold State.dropLaunch State.giveBack
    dsimp only
    split <;> rfl

theorem State.mem_destroyQueues (s : State) (ns : List Nat) : (s.destroyQueues ns).mem = s.mem := by
  induction ns generalizing s with
  | nil => rfl
  | cons n ns ih => exact ih _

theorem State.mem_zeroAll (s : State) (cs : List Nat) : (s.zeroAll cs).mem = s.mem := by
  induction cs generalizing s with
  | nil => rfl
  | cons c cs ih => exact (ih _).trans ((State.mem_destroyQueues ..).trans (s.mem_dropLaunches _))

/-- With no session to go no stop ends. -/
theorem State.mem_dropSessions {s : State} {p : Session → Bool} (h : ∀ x ∈ s.sessions, p x = false) : (s.dropSessions p).mem = s.mem := by
  have hnone : s.sessions.filter p = [] := List.filter_eq_nil_iff.mpr fun x hx => Bool.eq_false_iff.mp (h x hx)
  unfold State.dropSessions
  rw [hnone]
  rfl

/-- The reset of a function up to its sessions. -/
def State.resetWork (s : State) (fn : Nat) : State :=
  let f := s.func fn
  let mine (n : Nat) : Bool := decide (f.qbase ≤ n) && decide (n < f.qbase + f.qcount)
  let s := s.zeroAll (s.ownedBy fn)
  let s := s.dropLaunches ((s.launches.filter fun (l : Launch) => mine l.id.queue).map Launch.id)
  s.destroyQueues ((s.queues.filter fun p => mine p.1).map Prod.fst)

theorem State.keeps_resetWork (s : State) (fn : Nat) : s.Keeps (s.resetWork fn) :=
  .after (State.keeps_destroyQueues ..) (.after (State.keeps_dropLaunches ..) (s.keeps_zeroAll _))

/-- The commands that wait and the function's own state change last. -/
theorem State.keeps_resetEnd (s : State) (g : List (MbReq × Nat)) (fn : Nat) (f : Func → Func) :
    s.Keeps (({ s with goWaits := g } : State).modFunc fn f) := .of_kept rfl

/-- The rest of a reset changes no launch, queue, session or memory, and leaves the function as it is after reset. -/
theorem State.resetFn_eq (s : State) (fn : Nat) : ∃ g b, s.resetFn fn =
    ({ (s.resetWork fn).dropSessions fun x => x.fn == fn with goWaits := g } : State).modFunc fn fun _ => { resetting := b } := by
  rw [State.resetFn, State.resetWork]
  exact ⟨_, _, rfl⟩

theorem State.resetFn_rest (s u : State) (fn : Nat) (hu : (s.resetWork fn).dropSessions (fun x => x.fn == fn) = u) :
    (s.resetFn fn).queues = u.queues ∧ (s.resetFn fn).launches = u.launches ∧ (s.resetFn fn).sessions = u.sessions ∧
      (s.resetFn fn).mem = u.mem ∧ ∃ b, (s.resetFn fn).func fn = { resetting := b } := by
  obtain ⟨g, b, h⟩ := s.resetFn_eq fn
  rw [h, hu]
  exact ⟨rfl, rfl, rfl, rfl, b, State.func_modFunc ..⟩

theorem State.keeps_resetRest (s : State) (fn : Nat) : ((s.resetWork fn).dropSessions fun x => x.fn == fn).Keeps (s.resetFn fn) := by
  obtain ⟨g, b, h⟩ := s.resetFn_eq fn
  rw [h]
  exact State.keeps_resetEnd ..

theorem State.mem_resetWork (s : State) (fn : Nat) : (s.resetWork fn).mem = s.mem :=
  (State.mem_destroyQueues ..).trans ((State.mem_dropLaunches ..).trans (s.mem_zeroAll _))

theorem State.sessions_dropSessions (p : Session → Bool) (s : State) :
    ∀ x ∈ (s.dropSessions p).sessions, ∃ y ∈ s.sessions, p y = false ∧ y.fn = x.fn := by
  intro x hx
  rw [State.dropSessions] at hx
  obtain ⟨y, hy, he⟩ := (State.Keeps.foldl (fun s c => s.keeps_endStops c) _ _).sessions x hx
  obtain ⟨hm, hp⟩ := List.mem_filter.mp hy
  exact ⟨y, hm, by simpa using hp, he⟩

theorem State.keeps_resetFn (s : State) (fn : Nat) : s.Keeps (s.resetFn fn) :=
  (s.keeps_resetRest fn).after (.after (State.keeps_dropSessions ..) (s.keeps_resetWork fn))

theorem State.mem_ownedBy {fn c : Nat} (hv : (s.ctx c).valid = true) (hf : (s.ctx c).func.toNat = fn) : c ∈ s.ownedBy fn := by
  cases hg : Tbl.get c s.contexts with
  | none => simp [State.ctx, hg] at hv
  | some x =>
    have hx : s.ctx c = x := by rw [State.ctx, hg]; rfl
    rw [hx] at hv hf
    exact List.mem_map.mpr ⟨(c, x), List.mem_filter.mpr ⟨Tbl.mem_of_get hg, by simp [hv, hf]⟩, rfl⟩

section Reset
variable (fn : Nat)

theorem State.mine_false {b n k : Nat} (h : (decide (b ≤ k) && decide (k < b + n)) = false) : k < b ∨ b + n ≤ k := by
  simp only [Bool.and_eq_false_iff, decide_eq_false_iff_not] at h
  omega

theorem State.queues_resetWork (s : State) : ∀ q ∈ (s.resetWork fn).queues,
    q.1 < (s.func fn).qbase ∨ (s.func fn).qbase + (s.func fn).qcount ≤ q.1 := by
  intro q hq
  rw [State.resetWork] at hq
  exact State.mine_false (State.queues_destroyWhere (fun n => decide ((s.func fn).qbase ≤ n) && decide (n < (s.func fn).qbase + (s.func fn).qcount))
    _ q hq)

theorem State.launches_resetWork (s : State) : ∀ l ∈ (s.resetWork fn).launches,
    l.id.queue < (s.func fn).qbase ∨ (s.func fn).qbase + (s.func fn).qcount ≤ l.id.queue := by
  intro l hl
  rw [State.resetWork] at hl
  obtain ⟨k, hk, he⟩ := (State.keeps_destroyQueues _ _).launches l hl
  rw [← he]
  exact State.mine_false (State.launches_dropWhere
    (fun n => decide ((s.func fn).qbase ≤ n) && decide (n < (s.func fn).qbase + (s.func fn).qcount)) _ k hk)

/-- What a reset leaves of its function, and what it keeps of the device. -/
theorem State.resetFn_effect (s : State) :
    let t := s.resetFn fn
    let f := s.func fn
    (∀ c, (s.ctx c).valid = true → (s.ctx c).func.toNat = fn → (t.ctx c).zeroing = true) ∧
    (∀ q ∈ t.queues, q.1 < f.qbase ∨ f.qbase + f.qcount ≤ q.1) ∧ (∀ l ∈ t.launches, l.id.queue < f.qbase ∨ f.qbase + f.qcount ≤ l.id.queue) ∧
    (∀ x ∈ t.sessions, x.fn ≠ fn) ∧ (t.func fn).state = .idle ∧ (t.func fn).qcount = 0 ∧
    ((s.sessions.any fun x => x.fn == fn) = false → t.mem = s.mem) ∧ t.dtb = s.dtb ∧ t.faultLog = s.faultLog ∧ t.flash = s.flash ∧
    t.power = s.power := by
  intro t f
  have hdrop : (s.resetWork fn).Keeps ((s.resetWork fn).dropSessions fun x => x.fn == fn) := State.keeps_dropSessions ..
  obtain ⟨hqs, hls, hss, hms, b, hb⟩ := s.resetFn_rest _ fn rfl
  have hdev := (s.keeps_resetFn fn).device
  simp only [Prod.mk.injEq] at hdev
  obtain ⟨hdtb, hlog, hflash, -, -, hpow⟩ := hdev
  refine ⟨fun c hv hc => ?_, fun q hq => ?_, fun l hl => ?_, fun x hx => ?_, ?_, ?_, fun hx => ?_, hdtb, hlog, hflash, hpow⟩
  · have hz := State.zeroing_zeroAll (State.mem_ownedBy hv hc) s
    have hrest : (s.zeroAll (s.ownedBy fn)).Keeps t :=
      (s.keeps_resetRest fn).after (hdrop.after (.after (State.keeps_destroyQueues ..) (State.keeps_dropLaunches ..)))
    exact hrest.zeroing c hz
  · obtain ⟨p, hp, he⟩ := hdrop.queues q (hqs ▸ hq)
    rw [← he]
    exact State.queues_resetWork fn s p hp
  · obtain ⟨k, hk, he⟩ := hdrop.launches l (hls ▸ hl)
    rw [← he]
    exact State.launches_resetWork fn s k hk
  · obtain ⟨y, -, hy, he⟩ := State.sessions_dropSessions (fun x : Session => x.fn == fn) _ x (hss ▸ hx)
    rw [← he]
    simpa using hy
  · rw [hb]
  · rw [hb]
  · have hno : ∀ x ∈ (s.resetWork fn).sessions, (x.fn == fn) = false := fun x hm => by
      obtain ⟨y, hy, he⟩ := (s.keeps_resetWork fn).sessions x hm
      rw [← he]
      exact Bool.eq_false_iff.mpr (List.any_eq_false.mp hx y hy)
    exact hms.trans ((State.mem_dropSessions hno).trans (s.mem_resetWork fn))

end Reset

theorem mem_insertBy {α : Type} (key : α → Nat) (x y : α) (l : List α) : y ∈ insertBy key x l ↔ y = x ∨ y ∈ l := by
  induction l with
  | nil => simp [insertBy]
  | cons z l ih =>
    rw [insertBy]
    split
    · rw [List.mem_cons, ih, List.mem_cons]
      tauto
    · rw [List.mem_cons]

theorem mem_uniq {x : Nat} {l : List Nat} (h : x ∈ l) : x ∈ uniq l := by
  have hgo (l acc : List Nat) (h : x ∈ l ∨ x ∈ acc) :
      x ∈ l.foldl (fun acc x => if acc.contains x then acc else insertBy id x acc) acc := by
    induction l generalizing acc with
    | nil => simpa using h
    | cons y l ih =>
      refine ih _ ?_
      rw [List.mem_cons] at h
      dsimp only
      split
      next hc =>
        rcases h with (rfl | h) | h
        · exact .inr (by simpa using hc)
        · exact .inl h
        · exact .inr h
      · rw [mem_insertBy]
        tauto
  exact hgo l [] (.inl h)

/-- PF0's reset reaches every function that has state. -/
theorem State.mem_resetSet {fn : Nat} (hn : fn ≤ 512) (h : (s.funcs.any fun p => p.1 == fn) = true) : fn ∈ s.resetSet 0 := by
  obtain ⟨p, hp, he⟩ := List.any_eq_true.mp h
  refine List.mem_filter.mpr ⟨mem_uniq (List.mem_cons_of_mem _ (List.mem_append_left _ ?_)), decide_eq_true hn⟩
  exact List.mem_map.mpr ⟨p, hp, beq_iff_eq.mp he⟩

/-! ### Main power, boot and firmware (R445, R446, R448) -/

theorem exec_mainPowerRemoved (s : State) :
    ∃ t, exec .mainPowerRemoved s = .next t ∧ t.power = .d3cold ∧ t.boot = .notBooted ∧ t.billets = [] ∧ t.launches = [] ∧ t.queues = [] ∧
    t.contexts = [] ∧ t.funcs = [] ∧ t.sessions = [] ∧ t.scr = [] ∧ t.flits = [] ∧
    t.mem = s.mem.filter (fun c => decide (Config.hostBase ≤ c.1)) ∧
    t.flash = s.flash ∧ t.keyHash = s.keyHash ∧ t.minSvn = s.minSvn ∧ t.withdrawn = s.withdrawn ∧ t.torn = (s.torn || s.writing.isSome) ∧
    t.sides = s.sides.map Side.repairs ∧
    (s.aux = true → t.dtb = s.dtb ∧ t.faultLog = s.faultLog) ∧ (s.aux = false → t.dtb = {} ∧ t.faultLog = []) := by
  have hx : exec .mainPowerRemoved s = .next (({ s.coldReset with power := .d3cold } : State).auxPower s.aux) := rfl
  have hpow (on : Bool) : ({ s.coldReset with power := .d3cold, aux := on } : State).powered = on := by simp [State.powered]
  cases ha : s.aux with
  | true =>
    rw [ha, State.auxPower] at hx
    refine ⟨_, hx.trans (congrArg _ (if_pos (hpow true))), rfl, rfl, rfl, rfl, rfl, rfl, rfl, rfl, rfl, rfl, rfl, rfl, rfl, rfl, rfl, rfl, rfl,
      fun _ => ⟨rfl, rfl⟩, fun h => by cases h⟩
  | false =>
    rw [ha, State.auxPower] at hx
    refine ⟨_, hx.trans (congrArg _ (if_neg (by rw [hpow false]; exact Bool.false_ne_true))), rfl, rfl, rfl, rfl, rfl, rfl, rfl, rfl, rfl, rfl,
      rfl, rfl, rfl, rfl, rfl, rfl, rfl, (fun h => by cases h), fun _ => ⟨rfl, rfl⟩⟩

theorem exec_fwcommit_starts (ht : s.Takes m 0x61) (hf : s.Fresh m) (hpf : m.pf0 = true) (he : m.endsAt 1 = true) (hw : s.writing = none)
    (hsize : m.arg 0 ≤ 8 * 2 ^ 20) (himg : fwSize (s.staged (m.arg 0)) = m.arg 0) (hok : s.fwVerifies (s.staged (m.arg 0)) = true) :
    exec (.fwcommit m) s = .next (({ s.mbAccept m 0x61 with writing := some (s.staged (m.arg 0), m) } : State).modFunc m.fn fun f =>
      { f with waits := some .flash }) := by
  refine exec_of_wait hf.fwcommit ht hpf he (if_pos ?_)
  have hst : (s.mbAccept m (BitVec.ofNat 16 0x61)).staged (m.arg 0) = s.staged (m.arg 0) := rfl
  have hv : (s.mbAccept m (BitVec.ofNat 16 0x61)).fwVerifies (s.staged (m.arg 0)) = true := hok
  have hwr : (s.mbAccept m (BitVec.ofNat 16 0x61)).writing = none := hw
  rw [hst, hv, hwr, himg, decide_eq_true hsize]
  simp

theorem exec_fwcommit_refused (ht : s.Takes m 0x61) (hf : s.Fresh m) (hpf : m.pf0 = true) (he : m.endsAt 1 = true)
    (hno : s.fwVerifies (s.staged (m.arg 0)) = false) :
    exec (.fwcommit m) s = .next ((s.mbAccept m 0x61).mbFinish m.fn .refused []) := by
  refine exec_of_answer hf.fwcommit ht hpf he (if_neg ?_)
  have hst : (s.mbAccept m (BitVec.ofNat 16 0x61)).staged (m.arg 0) = s.staged (m.arg 0) := rfl
  have hv : (s.mbAccept m (BitVec.ofNat 16 0x61)).fwVerifies (s.staged (m.arg 0)) = false := hno
  rw [hst, hv, Bool.and_false]
  exact Bool.false_ne_true

theorem exec_fwcommit_written {img : List Byte} (hw : s.writing = some (img, m)) (hc : s.power ≠ .d3cold) (hs : s.power ≠ .shutdown) :
    exec (.fwcommit m) s = .next (s.fwWritten img) := by
  show execFwcommit m s = _
  simp only [execFwcommit, hw, if_true]
  rw [if_neg (by simp [hc, hs])]

theorem exec_powerOnBoot (cold : s.boot = .notBooted ∨ s.power = .d3cold ∨ s.power = .shutdown) :
    exec .powerOnBoot s = .next { (s.coldReset.applyRepairs.setDesks).bootImage with power := .c0 } :=
  congrArg Host.Outcome.next (if_pos cold)

/-- Settles O58: each command, wake, reset and boot step takes the branch its conditions name; what D3hot and a reset keep of the device is
what the end of work keeps (State.Keeps). -/
theorem powerChanges : Obligations.PowerChanges := by
  intro s m fn boots piece cold
  refine ⟨fun ht hf hpf he hb => ⟨fun h0 => (exec_setpwrC0 ht hpf he h0 hb).1, fun h0 => (exec_setpwrC0 ht hpf he h0 hb).2,
      fun h2 => exec_setpwrC2 ht hpf he h2 hb, fun h3 => exec_setpwrC3_stands ht hf hpf he h3 hb,
      fun h3 => exec_setpwrC3_enters ht hf hpf he h3 hb⟩,
    exec_setpwrC3_goes_on, fun ht hf hpf he hb => exec_setpwr_busy ht hf hpf he hb, exec_powerWake, exec_powerWake_idle, exec_d3hotEntry,
    fun hb => congrArg Host.Outcome.next (if_neg (by simp [hb])), fun hp hb => ⟨fun h => ?_, fun h => ?_⟩, exec_functionLevelReset_unheard,
    State.resetFn_effect fn s, fun n hn h => State.mem_resetSet hn h, fun h => congrArg Host.Outcome.next (if_pos (by simp [h])),
    fun h => congrArg Host.Outcome.next (if_neg (by simp [h])), exec_mainPowerRemoved s, fun hc ht hv => ?_, fun hc hv => ?_,
    fun hc => congrArg Host.Outcome.next (if_neg hc), fun ht hpf hfit hz => ?_, exec_fwcommit_starts, fun img hw hc hs => ⟨fun hb => ?_, fun hb => ?_⟩,
    exec_fwcommit_refused⟩
  · rw [exec_functionLevelReset hp hb, State.resetSet, if_neg h]
    rfl
  · rw [exec_functionLevelReset hp hb, h]
  · rw [exec_powerOnBoot hc, State.bootImage, if_pos (by simp only [Bool.and_eq_true, Bool.not_eq_true']; exact ⟨ht, hv⟩)]
  · rw [exec_powerOnBoot hc, State.bootImage, if_neg (by
      simp only [Bool.and_eq_true, Bool.not_eq_true', not_and, Bool.not_eq_true]
      exact fun h => hv.resolve_left (by rw [h]; exact Bool.false_ne_true))]
  · exact does_of_run rfl ht hpf (by rw [hfit, hz]; rfl) rfl
  · exact (exec_fwcommit_written hw hc hs).trans (congrArg _ (if_neg hb))
  · exact (exec_fwcommit_written hw hc hs).trans (congrArg _ (if_pos hb))

end Sys2Proof.Machine

/-! What operations on billets, queues, launches and functions leave alone: both memories (frames for the invariant of O6). -/

namespace Sys2Proof.Machine

open State

/-- A fold whose steps leave both memories alone. -/
theorem State.foldl_store {α : Type} {f : State → α → State} (hf : ∀ s x, (f s x).mem = s.mem ∧ (f s x).scr = s.scr) (l : List α) (s : State) :
    (l.foldl f s).mem = s.mem ∧ (l.foldl f s).scr = s.scr := by
  induction l generalizing s with
  | nil => exact ⟨rfl, rfl⟩
  | cons x l ih =>
    obtain ⟨hm, hs⟩ := hf s x
    obtain ⟨km, ks⟩ := ih (f s x)
    exact ⟨km.trans hm, ks.trans hs⟩

/-! ### Access -/

@[simp] theorem State.draw_store (s : State) : s.draw.2.mem = s.mem ∧ s.draw.2.scr = s.scr := ⟨rfl, rfl⟩

/-! ### Memory -/

@[simp] theorem State.l1Writes_store (s : State) (b pa : Nat) (bs : List Byte) :
    (s.l1Writes b pa bs).mem = s.mem ∧ (s.l1Writes b pa bs).scr = s.scr := ⟨rfl, rfl⟩

@[simp] theorem State.acquireSide_store (s : State) (side : Nat) :
    (s.acquireSide side).mem = s.mem ∧ (s.acquireSide side).scr = s.scr := ⟨rfl, rfl⟩

@[simp] theorem State.acquireCaches_store (s : State) (b : Nat) (sc : Scope) :
    (s.acquireCaches b sc).mem = s.mem ∧ (s.acquireCaches b sc).scr = s.scr := by
  unfold State.acquireCaches
  (repeat' split) <;> simp

/-! ### Translate -/

@[simp] theorem State.tlbPut_store (s : State) (p : TlbPlace) (e : TlbEntry) :
    (s.tlbPut p e).mem = s.mem ∧ (s.tlbPut p e).scr = s.scr := by
  unfold State.tlbPut
  dsimp only
  split <;> simp

@[simp] theorem State.tlbFill_store (s : State) (b level : Nat) (e : TlbEntry) :
    (s.tlbFill b level e).mem = s.mem ∧ (s.tlbFill b level e).scr = s.scr := by
  unfold State.tlbFill
  dsimp only
  (repeat' split) <;> simp

@[simp] theorem State.tlbOff_store (s : State) (off : Nat → Nat → Bool) :
    (s.tlbOff off).mem = s.mem ∧ (s.tlbOff off).scr = s.scr := ⟨rfl, rfl⟩

/-! ### Ops -/

@[simp] theorem State.logRecord_store (s : State) (f : FaultInfo) :
    (s.logRecord f).mem = s.mem ∧ (s.logRecord f).scr = s.scr := ⟨rfl, rfl⟩

@[simp] theorem State.ctrlArrive_store (s : State) (b e : Nat) (t : Token) :
    (s.ctrlArrive b e t).mem = s.mem ∧ (s.ctrlArrive b e t).scr = s.scr := ⟨rfl, rfl⟩

@[simp] theorem State.raiseCheckout_store (s : State) (r : RecId) (e : Nat) (arg : Word) :
    (s.raiseCheckout r e arg).mem = s.mem ∧ (s.raiseCheckout r e arg).scr = s.scr := by
  unfold State.raiseCheckout
  (repeat' split) <;> simp

@[simp] theorem State.raiseEach_store (s : State) (r : RecId) (l : List (Nat × Word)) :
    (s.raiseEach r l).mem = s.mem ∧ (s.raiseEach r l).scr = s.scr := by
  induction l generalizing s with
  | nil => exact ⟨rfl, rfl⟩
  | cons x l ih => simp [State.raiseEach, ih]

@[simp] theorem State.raiseKept_store (s : State) (r : RecId) :
    (s.raiseKept r).mem = s.mem ∧ (s.raiseKept r).scr = s.scr := by
  unfold State.raiseKept
  split <;> simp

@[simp] theorem State.noteRecord_store (s : State) (r : RecId) (f : FaultInfo) :
    (s.noteRecord r f).mem = s.mem ∧ (s.noteRecord r f).scr = s.scr := by
  unfold State.noteRecord
  dsimp only
  (repeat' split) <;> simp

@[simp] theorem State.freeze_store (s : State) (bs : List Nat) (why : Freeze) :
    (s.freeze bs why).mem = s.mem ∧ (s.freeze bs why).scr = s.scr := ⟨rfl, rfl⟩

@[simp] theorem State.unfreeze_store (s : State) (bs : List Nat) (why : List Freeze) :
    (s.unfreeze bs why).mem = s.mem ∧ (s.unfreeze bs why).scr = s.scr := ⟨rfl, rfl⟩

@[simp] theorem State.recordOutcome_store (s : State) (r : RecId) (st : Status) (fl : BitVec 5) (detail : Nat) :
    (s.recordOutcome r st fl detail).mem = s.mem ∧ (s.recordOutcome r st fl detail).scr = s.scr := by simp [State.recordOutcome]

@[simp] theorem State.raiseEntry0_store (s : State) (r : RecId) (arg : Word) :
    (s.raiseEntry0 r arg).mem = s.mem ∧ (s.raiseEntry0 r arg).scr = s.scr := by
  unfold State.raiseEntry0
  dsimp only
  (repeat' split) <;> simp

@[simp] theorem State.raiseWaiting_store (s : State) (r : RecId) :
    (s.raiseWaiting r).mem = s.mem ∧ (s.raiseWaiting r).scr = s.scr := by
  unfold State.raiseWaiting
  split <;> simp

@[simp] theorem State.trap_store (s : State) (n : NodeAddr) (cls : Nat) (tag : Tag) (detail addr : Nat) :
    (s.trap n cls tag detail addr).mem = s.mem ∧ (s.trap n cls tag detail addr).scr = s.scr := ⟨(s.sameStores_trap ..).1, (s.sameStores_trap ..).2.1⟩

@[simp] theorem State.freezeEnd_store (s : State) (side : Nat) (bs : List Nat) (why : Freeze) :
    (s.freezeEnd side bs why).mem = s.mem ∧ (s.freezeEnd side bs why).scr = s.scr := ⟨rfl, rfl⟩

@[simp] theorem State.stopLaunch_store (s : State) (l : Launch) (report : Option StopReport) :
    (s.stopLaunch l report).mem = s.mem ∧ (s.stopLaunch l report).scr = s.scr := by
  unfold State.stopLaunch
  split <;> exact ⟨rfl, rfl⟩

@[simp] theorem State.debugStop_store (s : State) (r : RecId) :
    (s.debugStop r).mem = s.mem ∧ (s.debugStop r).scr = s.scr := by
  unfold State.debugStop
  split <;> simp

@[simp] theorem State.takeStop_store (s : State) (side : Nat) (r : RecId) (b : Nat) (report : StopReport) :
    (s.takeStop side r b report).mem = s.mem ∧ (s.takeStop side r b report).scr = s.scr := by
  unfold State.takeStop
  (repeat' split) <;> simp

@[simp] theorem State.resumeLaunch_store (s : State) (r : RecId) :
    (s.resumeLaunch r).mem = s.mem ∧ (s.resumeLaunch r).scr = s.scr := by
  unfold State.resumeLaunch
  split <;> exact ⟨rfl, rfl⟩

@[simp] theorem State.ueBillet_store (s : State) (b code addr : Nat) (tile : Nat) (slot : Nat) (tag : Option Tag) :
    (s.ueBillet b code addr tile slot tag).mem = s.mem ∧ (s.ueBillet b code addr tile slot tag).scr = s.scr := by
  unfold State.ueBillet
  dsimp only
  (repeat' split) <;> simp

/-! ### Deliver -/

@[simp] theorem State.acceptPort_store (s : State) (n : NodeAddr) (p : Port) (tok : Token) (enc : Enc) :
    (s.acceptPort n p tok enc).mem = s.mem ∧ (s.acceptPort n p tok enc).scr = s.scr := ⟨(s.sameStores_acceptPort ..).1, (s.sameStores_acceptPort ..).2.1⟩

@[simp] theorem State.csrShadow_store (s : State) (a : TileAddr) (idx : Nat) :
    (s.csrShadow a idx).mem = s.mem ∧ (s.csrShadow a idx).scr = s.scr := by
  unfold State.csrShadow
  split <;> exact ⟨rfl, rfl⟩

@[simp] theorem State.csrApply_store (s : State) (a : TileAddr) (idx : Nat) (op : CsrOp) (v : Word) (guard : Bool) (eff : Nat) :
    (s.csrApply a idx op v guard eff).mem = s.mem ∧ (s.csrApply a idx op v guard eff).scr = s.scr := by
  unfold State.csrApply
  split <;> simp

@[simp] theorem State.offerOut_store (s : State) (a : TileAddr) (blk due : Nat) (o : Out) :
    (s.offerOut a blk due o).mem = s.mem ∧ (s.offerOut a blk due o).scr = s.scr := ⟨(s.sameStores_offerOut ..).1, (s.sameStores_offerOut ..).2.1⟩

@[simp] theorem State.csrFlight_store (s : State) (a : TileAddr) (f : Flight) :
    (s.csrFlight a f).mem = s.mem ∧ (s.csrFlight a f).scr = s.scr := by
  unfold State.csrFlight
  (repeat' split) <;> simp

@[simp] theorem State.csrEnd_store (s : State) (a : TileAddr) : (s.csrEnd a).mem = s.mem ∧ (s.csrEnd a).scr = s.scr :=
  State.foldl_store (fun s f => s.csrFlight_store a f) _ s

@[simp] theorem State.offerFlight_store (s : State) (a : TileAddr) (f : Flight) (rest : List Flight) :
    (s.offerFlight a f rest).mem = s.mem ∧ (s.offerFlight a f rest).scr = s.scr := ⟨(s.sameStores_offerFlight ..).1, (s.sameStores_offerFlight ..).2.1⟩

@[simp] theorem State.deliver_store (s : State) (a : TileAddr) (id : Nat) (tag : Tag) (p : Payload) :
    (s.deliver a id tag p).mem = s.mem ∧ (s.deliver a id tag p).scr = s.scr := ⟨(s.sameStores_deliver ..).1, (s.sameStores_deliver ..).2.1⟩

@[simp] theorem State.breakHit_store (s : State) (b : Nat) (k : Break) :
    (s.breakHit b k).mem = s.mem ∧ (s.breakHit b k).scr = s.scr := by
  unfold State.breakHit
  split <;> exact ⟨rfl, rfl⟩

@[simp] theorem State.deliverHead_store (s : State) (a : TileAddr) (ch : Nat) (c : InChan) (tok : Token) (rest : List Token) :
    (s.deliverHead a ch c tok rest).mem = s.mem ∧ (s.deliverHead a ch c tok rest).scr = s.scr := by
  unfold State.deliverHead
  dsimp only
  (repeat' split) <;> simp

/-! ### MemNodes -/

@[simp] theorem State.modCaravan_store (s : State) (b k : Nat) (f : Caravan → Caravan) :
    (s.modCaravan b k f).mem = s.mem ∧ (s.modCaravan b k f).scr = s.scr := by
  unfold State.modCaravan
  split <;> exact ⟨rfl, rfl⟩

/-! ### MemEvents -/

@[simp] theorem State.placeOf_store (s : State) (a : TileAddr) (acc : Acc) :
    (s.placeOf a acc).mem = s.mem ∧ (s.placeOf a acc).scr = s.scr := ⟨(s.sameStores_placeOf ..).1, (s.sameStores_placeOf ..).2.1⟩

@[simp] theorem State.finish_store (s : State) (a : TileAddr) (acc : Acc) (p : Payload) :
    (s.finish a acc p).mem = s.mem ∧ (s.finish a acc p).scr = s.scr := by
  unfold State.finish
  split <;> simp

@[simp] theorem State.trapAccess_store (s : State) (a : TileAddr) (acc : Acc) (cls lane addr : Nat) :
    (s.trapAccess a acc cls lane addr).mem = s.mem ∧ (s.trapAccess a acc cls lane addr).scr = s.scr := by simp [State.trapAccess]

@[simp] theorem State.setHead_store (s : State) (a : TileAddr) (acc : Acc) :
    (s.setHead a acc).mem = s.mem ∧ (s.setHead a acc).scr = s.scr := ⟨rfl, rfl⟩

@[simp] theorem State.popPort_store (s : State) (a : TileAddr) :
    (s.popPort a).mem = s.mem ∧ (s.popPort a).scr = s.scr := ⟨rfl, rfl⟩

@[simp] theorem State.noteXlate_store (s : State) (p : Resident) (n : NodeAddr) (tag : Tag) (lane : Nat) (write : Bool) (va : Nat) :
    (s.noteXlate p n tag lane write va).mem = s.mem ∧ (s.noteXlate p n tag lane write va).scr = s.scr := by
  unfold State.noteXlate
  split <;> simp

@[simp] theorem State.holdAccess_store (s : State) (a : TileAddr) (acc : Acc) (p : Resident) (va lane : Nat) :
    (s.holdAccess a acc p va lane).mem = s.mem ∧ (s.holdAccess a acc p va lane).scr = s.scr := by simp [State.holdAccess]

theorem State.toUnit_store {s t : State} {a : TileAddr} {acc : Acc} (h : s.toUnit a acc = some t) : t.mem = s.mem ∧ t.scr = s.scr := by
  unfold State.toUnit at h
  dsimp only at h
  split at h
  · cases h
  · cases h
    exact ⟨rfl, rfl⟩

@[simp] theorem State.portDone_store (s : State) (a : TileAddr) (acc : Acc) :
    (s.portDone a acc).mem = s.mem ∧ (s.portDone a acc).scr = s.scr := by
  have hunit : ∀ t, (match (s.popPort a).toUnit a acc with
      | some s => s
      | none => s.setHead a acc) = t → t.mem = s.mem ∧ t.scr = s.scr := by
    intro t ht
    split at ht
    next u hu =>
      subst ht
      obtain ⟨hm, hs⟩ := State.toUnit_store hu
      exact ⟨hm, hs⟩
    · subst ht
      exact ⟨rfl, rfl⟩
  unfold State.portDone
  split
  · exact ⟨rfl, rfl⟩
  split
  · exact hunit _ rfl
  · exact hunit _ rfl
  · exact ⟨rfl, rfl⟩

@[simp] theorem State.abortAccess_store (s : State) (a : TileAddr) (acc : Acc) :
    (s.abortAccess a acc).mem = s.mem ∧ (s.abortAccess a acc).scr = s.scr := by
  unfold State.abortAccess
  (repeat' split) <;> simp

@[simp] theorem State.badLine_store (s : State) (pa : Nat) :
    (s.badLine pa).mem = s.mem ∧ (s.badLine pa).scr = s.scr := ⟨rfl, rfl⟩

@[simp] theorem State.performChk_store (s : State) (a : TileAddr) (acc : Acc) (f : ChkFlag) :
    (s.performChk a acc f).mem = s.mem ∧ (s.performChk a acc f).scr = s.scr := by
  unfold State.performChk
  split <;> simp

@[simp] theorem State.performHalt_store (s : State) (b : Nat) :
    (s.performHalt b).mem = s.mem ∧ (s.performHalt b).scr = s.scr := by
  unfold State.performHalt
  split <;> exact ⟨rfl, rfl⟩

@[simp] theorem State.sparseDone_store (s : State) (o : SparseOp) (p : Payload) :
    (s.sparseDone o p).mem = s.mem ∧ (s.sparseDone o p).scr = s.scr := by
  unfold State.sparseDone
  (repeat' split) <;> simp

@[simp] theorem State.sparseAll_store (s : State) (p : SparseOp → Payload) (l : List SparseOp) :
    (s.sparseAll p l).mem = s.mem ∧ (s.sparseAll p l).scr = s.scr := by
  induction l generalizing s with
  | nil => exact ⟨rfl, rfl⟩
  | cons x l ih => simp [State.sparseAll, ih]

@[simp] theorem State.opFlags_store (s : State) (o : SparseOp) (fl : Flags) :
    (s.opFlags o fl).mem = s.mem ∧ (s.opFlags o fl).scr = s.scr := ⟨rfl, rfl⟩

@[simp] theorem State.applySpacc_store (s : State) (b m c : Nat) (os : List SparseOp) :
    (s.applySpacc b m c os).mem = s.mem ∧ (s.applySpacc b m c os).scr = s.scr := by
  unfold State.applySpacc
  dsimp only [State.modBillet_mem, State.modBillet_scr]
  exact State.foldl_store (fun s p => s.opFlags_store ..) _ s

/-! ### CopyEvents -/

@[simp] theorem State.copyDone_store (s : State) (b c : Nat) (k : Copy) :
    (s.copyDone b c k).mem = s.mem ∧ (s.copyDone b c k).scr = s.scr := ⟨rfl, rfl⟩

/-! ### Geometry -/

@[simp] theorem State.modEdge_store (s : State) (r : RecId) (id : Nat) (f : Edge → Edge) :
    (s.modEdge r id f).mem = s.mem ∧ (s.modEdge r id f).scr = s.scr := ⟨rfl, rfl⟩

/-! ### Fabric -/

@[simp] theorem State.storePut_store (s : State) (l : Launch) (e : Edge) (seq : BitVec 16) (k : EdgeTok) :
    (s.storePut l e seq k).mem = s.mem ∧ (s.storePut l e seq k).scr = s.scr := by
  unfold State.storePut
  dsimp only
  split <;> simp

@[simp] theorem State.sendFlit_store (s : State) (f : Flit) :
    (s.sendFlit f).mem = s.mem ∧ (s.sendFlit f).scr = s.scr := ⟨rfl, rfl⟩

@[simp] theorem State.sendEdge_store (s : State) (a : TileAddr) (ch : Nat) (r : Route) (l : Launch) (e : Edge) (tok : Token) :
    (s.sendEdge a ch r l e tok).mem = s.mem ∧ (s.sendEdge a ch r l e tok).scr = s.scr := ⟨rfl, rfl⟩

@[simp] theorem State.sendRoute_store (s : State) (a : TileAddr) (ch : Nat) (p : Resident) (r : Route) (tok : Token) :
    (s.sendRoute a ch p r tok).mem = s.mem ∧ (s.sendRoute a ch p r tok).scr = s.scr := by
  unfold State.sendRoute
  dsimp only
  (repeat' split) <;> simp

theorem State.injectTok_store {s t : State} {a : TileAddr} {ch : Nat} {c : OutChan} {p : Resident} {k : PoolTok}
    (h : s.injectTok a ch c p k = some t) : t.mem = s.mem ∧ t.scr = s.scr := by
  obtain ⟨⟨d, r⟩, -, rfl⟩ := Option.map_eq_some_iff.mp h
  simp

@[simp] theorem State.fifoFill_store (s : State) (a : TileAddr) (ch m : Nat) :
    (s.fifoFill a ch m).mem = s.mem ∧ (s.fifoFill a ch m).scr = s.scr := by
  unfold State.fifoFill
  dsimp only
  (repeat' split) <;> simp

@[simp] theorem State.injectFifo_store (s : State) (a : TileAddr) (ch m : Nat) (c : OutChan) (p : Resident) (may : Bool) :
    (s.injectFifo a ch m c p may).mem = s.mem ∧ (s.injectFifo a ch m c p may).scr = s.scr := by
  unfold State.injectFifo
  dsimp only
  rw [(State.fifoFill_store ..).1, (State.fifoFill_store ..).2]
  split
  · exact ⟨rfl, rfl⟩
  split
  · exact ⟨rfl, rfl⟩
  next h =>
    split at h
    · obtain ⟨hm, hs⟩ := State.injectTok_store h
      exact ⟨hm, hs⟩
    · cases h

@[simp] theorem State.injectPool_store (s : State) (a : TileAddr) (ch : Nat) (c : OutChan) (p : Resident) :
    (s.injectPool a ch c p).mem = s.mem ∧ (s.injectPool a ch c p).scr = s.scr := by
  unfold State.injectPool
  split
  · exact ⟨rfl, rfl⟩
  split
  · exact ⟨rfl, rfl⟩
  next h =>
    obtain ⟨hm, hs⟩ := State.injectTok_store h
    exact ⟨hm, hs⟩

@[simp] theorem State.setView_store (s : State) (k : SignalTo) (v : Bool) :
    (s.setView k v).mem = s.mem ∧ (s.setView k v).scr = s.scr := by
  unfold State.setView
  split <;> exact ⟨rfl, rfl⟩

@[simp] theorem State.dropFlit_store (s : State) (k : Nat) :
    (s.dropFlit k).mem = s.mem ∧ (s.dropFlit k).scr = s.scr := ⟨rfl, rfl⟩

@[simp] theorem State.arriveCtrl_store (s : State) (b e : Nat) (tok : Token) (src : Option (TileAddr × Nat)) :
    (s.arriveCtrl b e tok src).mem = s.mem ∧ (s.arriveCtrl b e tok src).scr = s.scr := ⟨rfl, rfl⟩

@[simp] theorem State.enqueue_store (s : State) (b tile ch : Nat) (tok : Token) :
    (s.enqueue b tile ch tok).mem = s.mem ∧ (s.enqueue b tile ch tok).scr = s.scr := ⟨rfl, rfl⟩

@[simp] theorem State.takeFlit_store (s : State) (f : Flit) (b tile ch : Nat) (counts : Bool) :
    (s.takeFlit f b tile ch counts).mem = s.mem ∧ (s.takeFlit f b tile ch counts).scr = s.scr := by
  unfold State.takeFlit
  dsimp only
  (repeat' split) <;> simp

@[simp] theorem State.ingress_store (s : State) (k : Nat) (f : Flit) :
    (s.ingress k f).mem = s.mem ∧ (s.ingress k f).scr = s.scr := by
  unfold State.ingress
  (repeat' split) <;> simp

@[simp] theorem State.guardDropped_store (s : State) (k : Nat) (f : Flit) (nb : Nat) :
    (s.guardDropped k f nb).mem = s.mem ∧ (s.guardDropped k f nb).scr = s.scr := by
  unfold State.guardDropped
  dsimp only
  (repeat' split) <;> simp

@[simp] theorem State.sendIn_store (s : State) (from_ : Nat) (time : Nat) (l : Launch) (e : Edge) (seq : BitVec 16) (k : EdgeTok) :
    (s.sendIn from_ time l e seq k).mem = s.mem ∧ (s.sendIn from_ time l e seq k).scr = s.scr := ⟨rfl, rfl⟩

@[simp] theorem State.redeliver_store (s : State) (side : Nat) (f : Flit) (rest : List Flit) :
    (s.redeliver side f rest).mem = s.mem ∧ (s.redeliver side f rest).scr = s.scr := by
  unfold State.redeliver
  (repeat' split) <;> simp

@[simp] theorem State.assertProducer_store (s : State) (l : Launch) (e : Edge) :
    (s.assertProducer l e).mem = s.mem ∧ (s.assertProducer l e).scr = s.scr := by
  unfold State.assertProducer
  split <;> simp

@[simp] theorem State.edgeSettled_store (s : State) (l : Launch) (e : Edge) :
    (s.edgeSettled l e).mem = s.mem ∧ (s.edgeSettled l e).scr = s.scr := by
  unfold State.edgeSettled
  (repeat' split) <;> simp

@[simp] theorem State.drainTok_store (s : State) (l : Launch) (e : Edge) (k : EdgeTok) (rest : List EdgeTok) :
    (s.drainTok l e k rest).mem = s.mem ∧ (s.drainTok l e k rest).scr = s.scr := by
  unfold State.drainTok
  (repeat' split) <;> simp

/-! ### Control -/

@[simp] theorem State.ctrlAccepted_store (s : State) (src : Option (TileAddr × Nat)) :
    (s.ctrlAccepted src).mem = s.mem ∧ (s.ctrlAccepted src).scr = s.scr := by
  unfold State.ctrlAccepted
  split <;> exact ⟨rfl, rfl⟩

/-! ### Queues -/

@[simp] theorem State.modRec_store (s : State) (r : RecId) (f : Rec → Rec) :
    (s.modRec r f).mem = s.mem ∧ (s.modRec r f).scr = s.scr := by simp [State.modRec]

@[simp] theorem State.outcome_store (s : State) (r : RecId) (st : Status) (detail : Nat) :
    (s.outcome r st detail).mem = s.mem ∧ (s.outcome r st detail).scr = s.scr := by simp [State.outcome]

@[simp] theorem State.refuseLaunch_store (s : State) (r : RecId) (st : Status) (detail : Nat) :
    (s.refuseLaunch r st detail).mem = s.mem ∧ (s.refuseLaunch r st detail).scr = s.scr := by simp [State.refuseLaunch]

@[simp] theorem State.permRecord_store (s : State) (cid : Nat) (r : RecId) (va : Nat) :
    (s.permRecord cid r va).mem = s.mem ∧ (s.permRecord cid r va).scr = s.scr := ⟨rfl, rfl⟩

@[simp] theorem State.addKnock_store (s : State) (n side : Nat) :
    (s.addKnock n side).mem = s.mem ∧ (s.addKnock n side).scr = s.scr := by simp [State.addKnock]

@[simp] theorem State.askWake_store (s : State) :
    s.askWake.mem = s.mem ∧ s.askWake.scr = s.scr := by
  unfold State.askWake
  split <;> exact ⟨rfl, rfl⟩

@[simp] theorem State.leaveTable_store (s : State) (n : Nat) :
    (s.leaveTable n).mem = s.mem ∧ (s.leaveTable n).scr = s.scr := ⟨rfl, rfl⟩

@[simp] theorem State.addRec_store (s : State) (n : Nat) (x : Rec) :
    (s.addRec n x).mem = s.mem ∧ (s.addRec n x).scr = s.scr := by simp [State.addRec]

/-! ### Records -/

@[simp] theorem State.permRec_store (s : State) (cid : Nat) (r : RecId) (va : Nat) :
    (s.permRec cid r va).mem = s.mem ∧ (s.permRec cid r va).scr = s.scr := by simp [State.permRec]

@[simp] theorem State.copied_store (s : State) (r : RecId) (x : Rec) (n : Nat) :
    (s.copied r x n).mem = s.mem ∧ (s.copied r x n).scr = s.scr := by
  unfold State.copied
  split <;> simp

@[simp] theorem State.waitmemRead_store (s : State) (r : RecId) (side : Nat) (x : Rec) (bs : List Byte) :
    (s.waitmemRead r side x bs).mem = s.mem ∧ (s.waitmemRead r side x bs).scr = s.scr := by
  unfold State.waitmemRead
  split <;> simp

/-! ### Steward -/

@[simp] theorem State.tune_store (s : State) (b : Nat) :
    (s.tune b).mem = s.mem ∧ (s.tune b).scr = s.scr := by
  unfold State.tune
  dsimp only
  split <;> simp

@[simp] theorem State.partEdge_store (s : State) (l : Launch) (b : Nat) (e : Edge) :
    (s.partEdge l b e).mem = s.mem ∧ (s.partEdge l b e).scr = s.scr := by
  unfold State.partEdge
  dsimp only
  (repeat' split) <;> simp

@[simp] theorem State.partEdges_store (s : State) (k : Launch) (b : Nat) (l : List Edge) :
    (s.partEdges k b l).mem = s.mem ∧ (s.partEdges k b l).scr = s.scr := by
  induction l generalizing s with
  | nil => exact ⟨rfl, rfl⟩
  | cons x l ih => simp [State.partEdges, ih]

@[simp] theorem State.wakeLaunch_store (s : State) (b : Nat) (r : RecId) :
    (s.wakeLaunch b r).mem = s.mem ∧ (s.wakeLaunch b r).scr = s.scr := by
  unfold State.wakeLaunch
  (repeat' split) <;> simp

/-! ### Launching -/

@[simp] theorem State.endPageins_store (s : State) (queue gdesc page : Nat) (st : Status) (detail : Nat) :
    (s.endPageins queue gdesc page st detail).mem = s.mem ∧ (s.endPageins queue gdesc page st detail).scr = s.scr :=
  State.foldl_store (fun s r => s.outcome_store r st detail) _ s

@[simp] theorem State.raiseFault_store (s : State) (r : RecId) (page : Nat) :
    (s.raiseFault r page).mem = s.mem ∧ (s.raiseFault r page).scr = s.scr := ⟨rfl, rfl⟩

@[simp] theorem State.injectArg_store (s : State) (l : Launch) (a : ArgRec) (rest : List ArgRec) (b : Nat) :
    (s.injectArg l a rest b).mem = s.mem ∧ (s.injectArg l a rest b).scr = s.scr := ⟨rfl, rfl⟩

/-! ### Pager -/

@[simp] theorem State.wantEvict_store (s : State) (b : Nat) :
    (s.wantEvict b).mem = s.mem ∧ (s.wantEvict b).scr = s.scr := ⟨rfl, rfl⟩

@[simp] theorem State.wantEvicts_store (s : State) (l : List Nat) :
    (s.wantEvicts l).mem = s.mem ∧ (s.wantEvicts l).scr = s.scr := by
  induction l generalizing s with
  | nil => exact ⟨rfl, rfl⟩
  | cons x l ih => simp [State.wantEvicts, ih]

@[simp] theorem State.startLoad_store (s : State) (r : RecId) (k b : Nat) :
    (s.startLoad r k b).mem = s.mem ∧ (s.startLoad r k b).scr = s.scr := by
  unfold State.startLoad
  split <;> exact ⟨rfl, rfl⟩

theorem State.reserve_store {s t : State} {l : Launch} {k : Nat} {ws : List Word} (h : s.reserve l k ws = some t) :
    t.mem = s.mem ∧ t.scr = s.scr := by
  unfold State.reserve at h
  dsimp only at h
  split at h
  · cases h
    exact ⟨rfl, rfl⟩
  · cases h

theorem State.reserveFault_store {s t : State} {l : Launch} {k : Nat} {ws : List Word} (h : s.reserveFault l k ws = some t) :
    t.mem = s.mem ∧ t.scr = s.scr := by
  unfold State.reserveFault at h
  split at h
  · cases h
    exact ⟨rfl, rfl⟩
  · exact State.reserve_store h

@[simp] theorem State.evictFor_store (s : State) (v : Nat) (p : Resident) :
    (s.evictFor v p).mem = s.mem ∧ (s.evictFor v p).scr = s.scr := ⟨rfl, rfl⟩

theorem State.takeBillet_store {s t : State} {l : Launch} {k : Nat} {ws : List Word} (h : s.takeBillet l k ws = some t) :
    t.mem = s.mem ∧ t.scr = s.scr := by
  have hown : ∀ {o : Option Nat} {r : Resident}, o.map (fun v => s.evictFor v r) = some t → t.mem = s.mem ∧ t.scr = s.scr := by
    intro o r h
    obtain ⟨v, -, rfl⟩ := Option.map_eq_some_iff.mp h
    exact s.evictFor_store v r
  unfold State.takeBillet at h
  dsimp only at h
  split at h
  · cases h
  split at h
  · exact hown h
  split at h
  · cases h
    exact State.startLoad_store ..
  split at h
  · cases h
    exact s.evictFor_store ..
  · exact hown h

@[simp] theorem State.reservedFor_store (s : State) (r : RecId) (k : Nat) :
    (s.reservedFor r k).mem = s.mem ∧ (s.reservedFor r k).scr = s.scr := by
  unfold State.reservedFor
  generalize ho : (s.launch? r).bind _ = o
  cases o with
  | none => exact ⟨rfl, rfl⟩
  | some t =>
    obtain ⟨l, -, hl⟩ := Option.bind_eq_some_iff.mp ho
    obtain ⟨g, -, hg⟩ := Option.bind_eq_some_iff.mp hl
    exact State.reserveFault_store hg

@[simp] theorem State.shrink_store (s : State) (cid : Nat) :
    (s.shrink cid).mem = s.mem ∧ (s.shrink cid).scr = s.scr := by simp [State.shrink]

@[simp] theorem State.shrinkAll_store (s : State) : s.shrinkAll.mem = s.mem ∧ s.shrinkAll.scr = s.scr :=
  State.foldl_store (fun s c => s.shrink_store c) _ s

/-! ### Evict -/

@[simp] theorem State.edgeLeaves_store (s : State) (r : RecId) (b : Nat) (e : Edge) :
    (s.edgeLeaves r b e).mem = s.mem ∧ (s.edgeLeaves r b e).scr = s.scr := by
  unfold State.edgeLeaves
  dsimp only
  (repeat' split) <;> simp

@[simp] theorem State.edgesLeave_store (s : State) (r : RecId) (b : Nat) (l : List Edge) :
    (s.edgesLeave r b l).mem = s.mem ∧ (s.edgesLeave r b l).scr = s.scr := by
  induction l generalizing s with
  | nil => exact ⟨rfl, rfl⟩
  | cons x l ih => simp [State.edgesLeave, ih]

@[simp] theorem State.voidDrains_store (s : State) (r : RecId) (ids : List Nat) :
    (s.voidDrains r ids).mem = s.mem ∧ (s.voidDrains r ids).scr = s.scr := ⟨rfl, rfl⟩

@[simp] theorem State.startEvict_store (s : State) (b : Nat) (p : Resident) (e : Evict) :
    (s.startEvict b p e).mem = s.mem ∧ (s.startEvict b p e).scr = s.scr := by
  unfold State.startEvict
  dsimp only
  split <;> simp

theorem State.reservePinned_store {s t : State} {p : Resident} (h : s.reservePinned p = some t) : t.mem = s.mem ∧ t.scr = s.scr := by
  unfold State.reservePinned at h
  split at h
  · cases h
    exact ⟨rfl, rfl⟩
  split at h
  · cases h
    exact ⟨rfl, rfl⟩
  split at h
  · cases h
    exact ⟨rfl, rfl⟩
  · exact State.reserve_store h

@[simp] theorem State.loadMoved_store (s : State) (p : Resident) (t : Nat) :
    (s.loadMoved p t).mem = s.mem ∧ (s.loadMoved p t).scr = s.scr := by
  unfold State.loadMoved
  (repeat' split) <;> simp

@[simp] theorem State.loadNext_store (s : State) (b : Nat) (n : Resident) :
    (s.loadNext b n).mem = s.mem ∧ (s.loadNext b n).scr = s.scr := by
  unfold State.loadNext
  dsimp only
  (repeat' split) <;> simp

@[simp] theorem State.afterFree_store (s : State) (b : Nat) (p : Option Resident) (e : Evict) :
    (s.afterFree b p e).mem = s.mem ∧ (s.afterFree b p e).scr = s.scr := by
  unfold State.afterFree
  (repeat' split) <;> simp

/-! ### Mailbox -/

@[simp] theorem State.mbFinish_store (s : State) (fn : Nat) (res : MbResult) (outs : List (Nat × Word)) :
    (s.mbFinish fn res outs).mem = s.mem ∧ (s.mbFinish fn res outs).scr = s.scr := ⟨rfl, rfl⟩

@[simp] theorem State.mbWrite_store (s : State) (m : MbReq) (op : BitVec 16) :
    (s.mbWrite m op).mem = s.mem ∧ (s.mbWrite m op).scr = s.scr := ⟨rfl, rfl⟩

@[simp] theorem State.mbAccept_store (s : State) (m : MbReq) (op : BitVec 16) :
    (s.mbAccept m op).mem = s.mem ∧ (s.mbAccept m op).scr = s.scr := ⟨rfl, rfl⟩

@[simp] theorem State.mbAnswer_store (s : State) (fn : Nat) (l : MbAns) :
    (s.mbAnswer fn l).mem = s.mem ∧ (s.mbAnswer fn l).scr = s.scr := by
  unfold State.mbAnswer
  split <;> simp

theorem State.applyCommand_store (s : State) (m : MbReq) (may args : Bool) {run : State → State × MbAns}
    (hr : ∀ s, (run s).1.mem = s.mem ∧ (run s).1.scr = s.scr) :
    (s.applyCommand m may args run).mem = s.mem ∧ (s.applyCommand m may args run).scr = s.scr := by
  unfold State.applyCommand
  split
  · exact ⟨rfl, rfl⟩
  split
  · exact ⟨rfl, rfl⟩
  · simp [hr]

theorem State.command_store (s : State) (m : MbReq) (op : Nat) (may args : Bool) {run : State → State × MbAns}
    (hr : ∀ s, (run s).1.mem = s.mem ∧ (run s).1.scr = s.scr) :
    (s.command m op may args run).mem = s.mem ∧ (s.command m op may args run).scr = s.scr := by
  unfold State.command
  dsimp only
  split
  · split
    · exact State.applyCommand_store _ _ _ _ hr
    · exact ⟨rfl, rfl⟩
  split
  · exact ⟨rfl, rfl⟩
  split
  · exact ⟨rfl, rfl⟩
  split
  · exact State.applyCommand_store _ _ _ _ hr
  · exact ⟨rfl, rfl⟩

@[simp] theorem State.placeSlots_store (s : State) :
    s.placeSlots.mem = s.mem ∧ s.placeSlots.scr = s.scr := ⟨rfl, rfl⟩

@[simp] theorem State.writeCtx_store (s : State) (cid n : Nat) : (s.writeCtx cid n).1.mem = s.mem ∧ (s.writeCtx cid n).1.scr = s.scr := by
  unfold State.writeCtx okay refusal
  dsimp only
  split <;> simp

@[simp] theorem State.waitsDone_store (s : State) (w : MbWait) :
    (s.waitsDone w).mem = s.mem ∧ (s.waitsDone w).scr = s.scr := ⟨rfl, rfl⟩

@[simp] theorem State.ackInval_store (s : State) (fn die cid : Nat) (range : Option (Nat × Nat)) :
    (s.ackInval fn die cid range).mem = s.mem ∧ (s.ackInval fn die cid range).scr = s.scr := ⟨rfl, rfl⟩

@[simp] theorem State.commandDone_store (s : State) (fn : Nat) :
    (s.commandDone fn).mem = s.mem ∧ (s.commandDone fn).scr = s.scr := ⟨rfl, rfl⟩

@[simp] theorem State.wakePages_store (s : State) (cid g : Nat) (abort : Bool) :
    (s.wakePages cid g abort).mem = s.mem ∧ (s.wakePages cid g abort).scr = s.scr := ⟨rfl, rfl⟩

@[simp] theorem State.answered_store (s : State) (cid g : Nat) :
    (s.answered cid g).mem = s.mem ∧ (s.answered cid g).scr = s.scr := ⟨rfl, rfl⟩

@[simp] theorem State.abortRecs_store (s : State) (cid g : Nat) : (s.abortRecs cid g).mem = s.mem ∧ (s.abortRecs cid g).scr = s.scr :=
  State.foldl_store (fun s p => s.permRec_store cid p.1 p.2) _ s

@[simp] theorem State.rebalance_store (s : State) (m : MbReq) : (s.rebalance m).mem = s.mem ∧ (s.rebalance m).scr = s.scr := by
  refine s.command_store _ _ _ _ fun s => ?_
  dsimp only
  split
  · exact ⟨rfl, rfl⟩
  · split <;> exact ⟨rfl, rfl⟩

@[simp] theorem State.permit_store (s : State) (id cid : Nat) :
    (s.permit id cid).mem = s.mem ∧ (s.permit id cid).scr = s.scr := ⟨rfl, rfl⟩

/-! ### Stack -/

@[simp] theorem State.recordTo_store (s : State) (f : FaultInfo) (l : List Nat) :
    (s.recordTo f l).mem = s.mem ∧ (s.recordTo f l).scr = s.scr := by
  induction l generalizing s with
  | nil => exact ⟨rfl, rfl⟩
  | cons x l ih => simp [State.recordTo, ih]

@[simp] theorem State.copyTo_store (s : State) (f : FaultInfo) (l : List Nat) :
    (s.copyTo f l).mem = s.mem ∧ (s.copyTo f l).scr = s.scr := by
  induction l generalizing s with
  | nil => exact ⟨rfl, rfl⟩
  | cons x l ih => simp [State.copyTo, ih]

@[simp] theorem State.fabricTo_store (s : State) (cause side : Nat) (cids : List Nat) :
    (s.fabricTo cause side cids).mem = s.mem ∧ (s.fabricTo cause side cids).scr = s.scr := by simp [State.fabricTo]

@[simp] theorem State.startStep_store (s : State) (side next : Nat) :
    (s.startStep side next).mem = s.mem ∧ (s.startStep side next).scr = s.scr := ⟨rfl, rfl⟩

@[simp] theorem State.stepDown_store (s : State) (side : Nat) :
    (s.stepDown side).mem = s.mem ∧ (s.stepDown side).scr = s.scr := by
  unfold State.stepDown
  dsimp only
  split <;> simp

@[simp] theorem State.setClock_store (s : State) (side c : Nat) :
    (s.setClock side c).mem = s.mem ∧ (s.setClock side c).scr = s.scr := ⟨rfl, rfl⟩

@[simp] theorem State.resumeStep_store (s : State) (side : Nat) :
    (s.resumeStep side).mem = s.mem ∧ (s.resumeStep side).scr = s.scr := by
  unfold State.resumeStep
  (repeat' split) <;> simp

@[simp] theorem State.pinnedOut_store (s : State) (b : Nat) (p : Resident) (away : Bool) :
    (s.pinnedOut b p away).mem = s.mem ∧ (s.pinnedOut b p away).scr = s.scr := by
  unfold State.pinnedOut
  (repeat' split) <;> simp

@[simp] theorem State.wantOut_store (s : State) (b : Nat) (away : Bool) :
    (s.wantOut b away).mem = s.mem ∧ (s.wantOut b away).scr = s.scr := by
  unfold State.wantOut
  split
  · split
    · split
      · exact ⟨rfl, rfl⟩
      · exact s.pinnedOut_store ..
    · exact s.wantEvict_store ..
  · exact ⟨rfl, rfl⟩

@[simp] theorem State.wantOuts_store (s : State) (l : List Nat) :
    (s.wantOuts l).mem = s.mem ∧ (s.wantOuts l).scr = s.scr := by
  induction l generalizing s with
  | nil => exact ⟨rfl, rfl⟩
  | cons x l ih => simp [State.wantOuts, ih]

@[simp] theorem State.setrole_store (s : State) (m : MbReq) : (s.setrole m).mem = s.mem ∧ (s.setrole m).scr = s.scr := by
  refine s.command_store _ _ _ _ fun s => ?_
  dsimp only
  split
  · exact ⟨rfl, rfl⟩
  split
  · exact ⟨rfl, rfl⟩
  · split <;> exact ⟨rfl, rfl⟩

@[simp] theorem State.moveQueues_store (s : State) : s.moveQueues.mem = s.mem ∧ s.moveQueues.scr = s.scr :=
  State.foldl_store (fun s n => by simp) _ s

@[simp] theorem State.retire_store (s : State) (b : Nat) :
    (s.retire b).mem = s.mem ∧ (s.retire b).scr = s.scr := by
  unfold State.retire
  dsimp only
  split <;> simp

/-! ### Firmware -/

@[simp] theorem State.applyRepairs_store (s : State) :
    s.applyRepairs.mem = s.mem ∧ s.applyRepairs.scr = s.scr := by
  unfold State.applyRepairs
  split <;> exact ⟨rfl, rfl⟩

@[simp] theorem State.setDesks_store (s : State) :
    s.setDesks.mem = s.mem ∧ s.setDesks.scr = s.scr := ⟨rfl, rfl⟩

@[simp] theorem State.bootImage_store (s : State) :
    s.bootImage.mem = s.mem ∧ s.bootImage.scr = s.scr := by
  unfold State.bootImage
  split <;> exact ⟨rfl, rfl⟩

@[simp] theorem State.withoutAux_store (s : State) :
    s.withoutAux.mem = s.mem ∧ s.withoutAux.scr = s.scr := ⟨rfl, rfl⟩

@[simp] theorem State.auxPower_store (s : State) (on : Bool) :
    (s.auxPower on).mem = s.mem ∧ (s.auxPower on).scr = s.scr := by
  unfold State.auxPower
  dsimp only
  split <;> simp

@[simp] theorem State.fwCommit_store (s : State) (m : MbReq) : (s.fwCommit m).1.mem = s.mem ∧ (s.fwCommit m).1.scr = s.scr := by
  unfold State.fwCommit
  dsimp only
  split <;> exact ⟨rfl, rfl⟩

/-! ### Sessions -/

@[simp] theorem State.endBreaks_store (s : State) (gone : Nat → Nat → Bool) :
    (s.endBreaks gone).mem = s.mem ∧ (s.endBreaks gone).scr = s.scr := ⟨rfl, rfl⟩

@[simp] theorem State.modSession_store (s : State) (id : Nat) (f : Session → Session) :
    (s.modSession id f).mem = s.mem ∧ (s.modSession id f).scr = s.scr := ⟨rfl, rfl⟩

@[simp] theorem State.say_store (s : State) (a : DebugAnswer) :
    (s.say a).mem = s.mem ∧ (s.say a).scr = s.scr := ⟨rfl, rfl⟩

/-! ### Cycle -/

@[simp] theorem State.csrEnds_store (s : State) (side : Nat) : (s.csrEnds side).mem = s.mem ∧ (s.csrEnds side).scr = s.scr :=
  State.foldl_store (fun s b => State.foldl_store (fun s t => s.csrEnd_store ⟨b, t⟩) _ s) _ s

@[simp] theorem State.countBillets_store (s : State) (side : Nat) :
    (s.countBillets side).mem = s.mem ∧ (s.countBillets side).scr = s.scr := ⟨rfl, rfl⟩

@[simp] theorem State.endBillets_store (s : State) (side : Nat) :
    (s.endBillets side).mem = s.mem ∧ (s.endBillets side).scr = s.scr := by simp [State.endBillets]

@[simp] theorem State.endSignals_store (s : State) (side : Nat) :
    (s.endSignals side).mem = s.mem ∧ (s.endSignals side).scr = s.scr := ⟨rfl, rfl⟩

@[simp] theorem State.endEdge_store (s : State) (side : Nat) (l : Launch) (e : Edge) :
    (s.endEdge side l e).mem = s.mem ∧ (s.endEdge side l e).scr = s.scr := by
  unfold State.endEdge
  (repeat' split) <;> simp

@[simp] theorem State.endEdges_store (s : State) (side : Nat) : (s.endEdges side).mem = s.mem ∧ (s.endEdges side).scr = s.scr :=
  State.foldl_store (fun s p => s.endEdge_store side p.1 p.2) _ s

@[simp] theorem State.endTime_store (s : State) :
    s.endTime.mem = s.mem ∧ s.endTime.scr = s.scr := ⟨rfl, rfl⟩

@[simp] theorem State.holdFrozen_store (s : State) (side : Nat) :
    (s.holdFrozen side).mem = s.mem ∧ (s.holdFrozen side).scr = s.scr := ⟨rfl, rfl⟩

@[simp] theorem State.passFc_store (s : State) (side : Nat) :
    (s.passFc side).mem = s.mem ∧ (s.passFc side).scr = s.scr := ⟨rfl, rfl⟩

@[simp] theorem State.passFreezes_store (s : State) (side : Nat) :
    (s.passFreezes side).mem = s.mem ∧ (s.passFreezes side).scr = s.scr := ⟨rfl, rfl⟩

/-! ### Matrix -/

@[simp] theorem State.popRing_store (s : State) (b r : Nat) (g : Ring) :
    (s.popRing b r g).mem = s.mem ∧ (s.popRing b r g).scr = s.scr := ⟨rfl, rfl⟩

@[simp] theorem State.readOne_store (s : State) (a : TileAddr) (x : XX) (p : MPair) (r : Nat) :
    (s.readOne a x p r).mem = s.mem ∧ (s.readOne a x p r).scr = s.scr := by
  unfold State.readOne
  dsimp only
  (repeat' split) <;> simp

@[simp] theorem State.readPair_store (s : State) (a : TileAddr) (x : XX) (p : MPair) :
    (s.readPair a x p).mem = s.mem ∧ (s.readPair a x p).scr = s.scr := by
  unfold State.readPair
  split <;> simp

@[simp] theorem State.readsDue_store (s : State) (a : TileAddr) (now : Nat) (l : List MPair) :
    (s.readsDue a now l).mem = s.mem ∧ (s.readsDue a now l).scr = s.scr := by
  induction l generalizing s with
  | nil => exact ⟨rfl, rfl⟩
  | cons p l ih =>
    rw [State.readsDue]
    (repeat' split) <;> simp [ih]

@[simp] theorem State.applyPair_store (s : State) (a : TileAddr) (p : MPair) :
    (s.applyPair a p).mem = s.mem ∧ (s.applyPair a p).scr = s.scr := by
  unfold State.applyPair
  (repeat' split) <;> simp

@[simp] theorem State.sendRow_store (s : State) (n : NodeAddr) (g : GNode) (d : Drain) (ch : Nat) :
    (s.sendRow n g d ch).mem = s.mem ∧ (s.sendRow n g d ch).scr = s.scr := by
  unfold State.sendRow
  dsimp only
  (repeat' split) <;> simp

@[simp] theorem State.sendNow_store (s : State) (n : NodeAddr) (tag : Tag) (p : Payload) (l : List Target) :
    (s.sendNow n tag p l).mem = s.mem ∧ (s.sendNow n tag p l).scr = s.scr := by
  induction l generalizing s with
  | nil => exact ⟨rfl, rfl⟩
  | cons x l ih => simp [State.sendNow, ih]

@[simp] theorem State.flushNext_store (s : State) (n : NodeAddr) (g : GNode) (rm : Round) (f : Flush) :
    (s.flushNext n g rm f).mem = s.mem ∧ (s.flushNext n g rm f).scr = s.scr := by
  unfold State.flushNext
  dsimp only
  (repeat' split) <;> simp

/-! ### Debug -/

@[simp] theorem State.passBreak_store (s : State) (r : RecId) :
    (s.passBreak r).mem = s.mem ∧ (s.passBreak r).scr = s.scr := by
  unfold State.passBreak
  (repeat' split) <;> simp

@[simp] theorem State.endStep_store (s old : State) (n : NodeAddr) :
    (s.endStep old n).mem = s.mem ∧ (s.endStep old n).scr = s.scr := ⟨rfl, rfl⟩

theorem State.discardAt_store {s t : State} {n : NodeAddr} (h : s.discardAt n = some t) : t.mem = s.mem ∧ t.scr = s.scr := by
  unfold State.discardAt at h
  dsimp only at h
  split at h
  · cases h
    exact ⟨rfl, rfl⟩
  · obtain ⟨f, -, rfl⟩ := Option.map_eq_some_iff.mp h
    exact ⟨rfl, rfl⟩

@[simp] theorem State.modBreaks_store (s : State) (cid page idx : Nat) (new : Option Break) :
    (s.modBreaks cid page idx new).mem = s.mem ∧ (s.modBreaks cid page idx new).scr = s.scr := ⟨rfl, rfl⟩

@[simp] theorem State.setViews_store (s : State) (v : Bool) (l : List SignalTo) :
    (s.setViews v l).mem = s.mem ∧ (s.setViews v l).scr = s.scr := by
  induction l generalizing s with
  | nil => exact ⟨rfl, rfl⟩
  | cons x l ih => simp [State.setViews, ih]

@[simp] theorem State.overrideRoute_store (s : State) (b k dest tile ch : Nat) :
    (s.overrideRoute b k dest tile ch).mem = s.mem ∧ (s.overrideRoute b k dest tile ch).scr = s.scr := by simp [State.overrideRoute]

/-! ### Links -/

@[simp] theorem State.linkRequest_store (s : State) (l : LinkId) (q : LinkReq) :
    (s.linkRequest l q).mem = s.mem ∧ (s.linkRequest l q).scr = s.scr := by
  unfold State.linkRequest
  split <;> exact ⟨rfl, rfl⟩

@[simp] theorem State.linkRecords_store (s : State) (l : LinkId) (port : Nat) :
    (s.linkRecords l port).mem = s.mem ∧ (s.linkRecords l port).scr = s.scr := by
  unfold State.linkRecords
  split <;> simp

/-! ### Integrity -/

@[simp] theorem State.ueAccess_store (s : State) (a : TileAddr) (acc : Acc) (pa : Nat) :
    (s.ueAccess a acc pa).mem = s.mem ∧ (s.ueAccess a acc pa).scr = s.scr := by
  unfold State.ueAccess
  dsimp only
  split <;> simp

@[simp] theorem State.ueLine_store (s : State) (a : TileAddr) (pa : Nat) :
    (s.ueLine a pa).mem = s.mem ∧ (s.ueLine a pa).scr = s.scr := by
  unfold State.ueLine
  (repeat' split) <;> simp

@[simp] theorem State.ueScrub_store (s : State) (pa : Nat) :
    (s.ueScrub pa).mem = s.mem ∧ (s.ueScrub pa).scr = s.scr := ⟨rfl, rfl⟩

@[simp] theorem State.ueInnkeeper_store (s : State) (side : Nat) :
    (s.ueInnkeeper side).mem = s.mem ∧ (s.ueInnkeeper side).scr = s.scr := ⟨rfl, rfl⟩

/-! ### Power -/

@[simp] theorem State.knockAll_store (s : State) (l : List (Nat × VQueue)) :
    (s.knockAll l).mem = s.mem ∧ (s.knockAll l).scr = s.scr := by
  induction l generalizing s with
  | nil => exact ⟨rfl, rfl⟩
  | cons x l ih =>
    rw [State.knockAll]
    split <;> simp [ih]

@[simp] theorem State.startWake_store (s : State) :
    s.startWake.mem = s.mem ∧ s.startWake.scr = s.scr := by
  unfold State.startWake
  split <;> exact ⟨rfl, rfl⟩

@[simp] theorem State.readyFns_store (s : State) :
    s.readyFns.mem = s.mem ∧ s.readyFns.scr = s.scr := ⟨rfl, rfl⟩

end Sys2Proof.Machine

/-! The memories stay in canonical form (log entry 12): accesses, walks, records and the end of an fc. -/

namespace Sys2Proof.Machine

open State

section
variable {s : State}

theorem State.MemoryOk.same {t : State} (e : t.mem = s.mem ∧ t.scr = s.scr) (h : s.MemoryOk) : t.MemoryOk := by
  obtain ⟨hm, hs⟩ := h
  exact ⟨by rw [e.1, hm], by rw [e.2, hs]⟩

theorem State.MemoryOk.ite {p : Prop} [Decidable p] {t u : State} (h : t.MemoryOk) (k : u.MemoryOk) : (if p then t else u).MemoryOk := by
  split
  · exact h
  · exact k

theorem State.MemoryOk.foldl {α : Type} {f : State → α → State} (hf : ∀ s x, s.MemoryOk → (f s x).MemoryOk) (l : List α) {s : State}
    (h : s.MemoryOk) : (l.foldl f s).MemoryOk := by
  induction l generalizing s with
  | nil => exact h
  | cons x l ih => exact ih (hf _ _ h)

/-! ### Caches and paths -/

theorem State.fillSide_memoryOk (cid sd pa n : Nat) (h : s.MemoryOk) : (s.fillSide cid sd pa n).MemoryOk := by
  unfold State.fillSide
  split
  · exact (State.keeps_takeL2 ..).memory h
  split
  · exact h
  · exact (State.keeps_replaceRdc ..).memory ((State.keeps_modSide ..).memory ((State.keeps_takeL2 ..).memory h))

theorem State.replaceL1_memoryOk (b line : Nat) (h : s.MemoryOk) : (s.replaceL1 b line).MemoryOk := by
  unfold State.replaceL1
  dsimp only
  split
  · exact h
  split
  · exact h
  · exact (State.keeps_modBillet ..).memory ((State.keeps_putBack ..).memory (s.keeps_draw.memory h))

theorem State.fillL1_memoryOk (b pa : Nat) (h : s.MemoryOk) : (s.fillL1 b pa).MemoryOk :=
  State.replaceL1_memoryOk _ _ ((State.keeps_modBillet ..).memory (State.fillSide_memoryOk _ _ _ _ h))

theorem State.skipL1_memoryOk (b line : Nat) (home : Bool) (h : s.MemoryOk) : (s.skipL1 b line home).MemoryOk := by
  unfold State.skipL1
  dsimp only
  split
  · exact h
  · exact (State.keeps_modBillet ..).memory (.ite ((State.keeps_putHome ..).memory h) ((State.keeps_putBack ..).memory h))

theorem State.skipRdc_memoryOk (sd line : Nat) (h : s.MemoryOk) : (s.skipRdc sd line).MemoryOk := by
  unfold State.skipRdc
  dsimp only
  split
  · exact h
  · exact (State.keeps_modSide ..).memory ((State.keeps_putHome ..).memory h)

theorem State.skips_memoryOk (b : Nat) (p : Path) (line : Nat) (h : s.MemoryOk) : (s.skips b p line).MemoryOk := by
  cases p with
  | l1 => exact h
  | side => exact State.skipL1_memoryOk _ _ _ h
  | device => exact State.skipL1_memoryOk _ _ _ (State.skipRdc_memoryOk _ _ h)

theorem State.globalRead_memoryOk (b : Nat) (p : Path) (pa n : Nat) (h : s.MemoryOk) : (s.globalRead b p pa n).2.MemoryOk := by
  have hs := State.skips_memoryOk b p (lineOf pa) h
  cases p with
  | device => exact (State.keeps_takeL2 ..).memory hs
  | side => exact State.fillSide_memoryOk _ _ _ _ hs
  | l1 => exact .ite ((State.keeps_modBillet ..).memory hs) (State.fillL1_memoryOk _ _ hs)

theorem State.sideWrites_memoryOk (cid sd pa : Nat) (bs : List Byte) (h : s.MemoryOk) : (s.sideWrites cid sd pa bs).MemoryOk := by
  induction bs generalizing s pa with
  | nil => exact h
  | cons b bs ih => exact ih _ ((State.keeps_sideWrite ..).memory h)

theorem State.globalWrite_memoryOk (b : Nat) (p : Path) (pa : Nat) (bs : List Byte) (h : s.MemoryOk) : (s.globalWrite b p pa bs).MemoryOk := by
  have hs := State.skips_memoryOk b p (lineOf pa) h
  cases p with
  | device => exact (State.keeps_homeWrites ..).memory hs
  | side => exact State.sideWrites_memoryOk _ _ _ _ hs
  | l1 => exact State.replaceL1_memoryOk _ _ (.same (State.l1Writes_store ..) hs)

theorem State.flushSide_memoryOk (sd : Nat) (h : s.MemoryOk) : (s.flushSide sd).MemoryOk :=
  (State.keeps_flushL2 ..).memory ((State.keeps_drainRdc ..).memory h)

theorem State.readLoc_memoryOk (b : Nat) (sc : Scope) (atom : Bool) (l : Loc) (n : Nat) (h : s.MemoryOk) : (s.readLoc b sc atom l n).2.MemoryOk := by
  cases l with
  | scr k => exact h
  | glb pa u => exact State.globalRead_memoryOk _ _ _ _ h

theorem State.writeLoc_memoryOk (b : Nat) (sc : Scope) (atom : Bool) (l : Loc) (bs : List Byte) (h : s.MemoryOk) :
    (s.writeLoc b sc atom l bs).MemoryOk := by
  cases l with
  | scr k => exact ⟨h.1, Memory.wf_writes _ _ h.2⟩
  | glb pa u => exact State.globalWrite_memoryOk _ _ _ _ h

/-! ### Walks and the device's own accesses -/

theorem State.walkAt_memoryOk {b cid va : Nat} {w : Bool} {l : Leaf} {t : State} (e : s.walkAt b cid va w = some (l, t)) (h : s.MemoryOk) :
    t.MemoryOk := by
  obtain ⟨⟨l', t'⟩, he, hk⟩ := Option.map_eq_some_iff.mp e
  cases hk
  exact .same (State.tlbFill_store ..) ((s.keeps_translate he).memory h)

theorem State.translateAt_memoryOk {b cid va : Nat} {w : Bool} {l : Leaf} {t : State} (e : s.translateAt b cid va w = some (l, t))
    (h : s.MemoryOk) : t.MemoryOk := by
  unfold State.translateAt at e
  split at e
  · split at e
    · exact State.walkAt_memoryOk e h
    · cases e
      exact .same (State.tlbFill_store ..) h
  · exact State.walkAt_memoryOk e h

/-- However an operation ends that may fail, the memories are in canonical form. -/
def EndsOk {ε α : Type} (st : α → State) : Except (State × ε) α → Prop
  | .ok x => (st x).MemoryOk
  | .error e => e.1.MemoryOk

theorem State.sysRead1_memoryOk (cid va n : Nat) (cfg : Bool) (h : s.MemoryOk) : EndsOk Prod.snd (s.sysRead1 cid va n cfg) := by
  unfold State.sysRead1
  split
  · exact h
  next e =>
    have k := (s.keeps_translate e).memory h
    split
    · exact k
    split
    · exact k
    · exact (State.keeps_takeL2 ..).memory k

theorem State.sysRead_memoryOk (cid va n : Nat) (cfg : Bool) (h : s.MemoryOk) : EndsOk Prod.snd (s.sysRead cid va n cfg) := by
  unfold State.sysRead
  have k := State.sysRead1_memoryOk cid va (firstPart va n) cfg h
  dsimp only
  split <;> rename_i e <;> rw [e] at k
  · exact k
  split
  · exact k
  have k' := State.sysRead1_memoryOk cid (va + firstPart va n) (n - firstPart va n) cfg k
  split <;> rename_i e' <;> rw [e'] at k'
  · exact k'
  · exact k'

theorem State.sysReads_memoryOk (cid va : Nat) (cfg : Bool) (n : Nat) (h : s.MemoryOk) : EndsOk Prod.snd (s.sysReads cid va cfg n) := by
  induction n generalizing s va with
  | zero => exact h
  | succ n ih =>
    unfold State.sysReads
    have k := State.sysRead1_memoryOk cid va 64 cfg h
    split <;> rename_i e <;> rw [e] at k
    · exact k
    have k' := ih (va + 64) k
    split <;> rename_i e' <;> rw [e'] at k'
    · exact k'
    · exact k'

theorem State.KeepsEnd.ok {α : Type} {st : α → State} {r : Except SysEnd α} (k : s.KeepsEnd st r) (h : s.MemoryOk) : EndsOk st r := by
  cases r with
  | ok x => exact State.Keeps.memory k h
  | error e => exact State.Keeps.memory k h

theorem State.sysMay_memoryOk (cid va : Nat) (h : s.MemoryOk) : EndsOk Prod.snd (s.sysMay cid va) := (s.keepsEnd_sysMay ..).ok h

theorem State.sysWrite_memoryOk (cid va : Nat) (bs : List Byte) (h : s.MemoryOk) : EndsOk id (s.sysWrite cid va bs) := (s.keepsEnd_sysWrite ..).ok h

/-! ### Fault records -/

theorem State.countLost_memoryOk (cid : Nat) (h : s.MemoryOk) : (s.countLost cid).MemoryOk := by
  unfold State.countLost
  dsimp only
  split
  · exact h
  next q _ =>
    generalize hw : State.sysWrite _ cid (q.va + 8) _ = r
    have k : EndsOk id r := hw ▸ State.sysWrite_memoryOk _ _ _ (by exact h)
    cases r with
    | ok t => exact k
    | error e => exact k

theorem State.putRecord_memoryOk (f : FaultInfo) (h : s.MemoryOk) : (s.putRecord f).MemoryOk := by
  unfold State.putRecord
  split
  · exact State.countLost_memoryOk _ h
  next q _ =>
  have k1 := State.sysRead_memoryOk f.cid (q.va + 4) 4 false h
  split <;> rename_i e1 <;> rw [e1] at k1
  · exact State.countLost_memoryOk _ k1
  split
  · exact State.countLost_memoryOk _ k1
  dsimp only
  split
  next e2 => exact State.countLost_memoryOk _ (e2 ▸ State.sysWrite_memoryOk _ _ _ k1 :)
  next s1 e2 =>
    have k2 : s1.MemoryOk := (e2 ▸ State.sysWrite_memoryOk _ _ _ k1 :)
    split
    next e3 => exact State.countLost_memoryOk _ (e3 ▸ State.sysWrite_memoryOk _ _ _ k2 :)
    next s2 e3 =>
      have k3 : s2.MemoryOk := (e3 ▸ State.sysWrite_memoryOk _ _ _ k2 :)
      exact (State.keeps_sendMsix ..).memory k3

theorem State.putAll_memoryOk (fs : List FaultInfo) (h : s.MemoryOk) : (s.putAll fs).MemoryOk := by
  induction fs generalizing s with
  | nil => exact h
  | cons f fs ih => exact ih (.ite (State.putRecord_memoryOk _ h) h)

theorem State.putRecords_memoryOk (h : s.MemoryOk) : s.putRecords.MemoryOk := State.putAll_memoryOk _ (by exact h)

/-! ### What takes effect at the end of an fc -/

theorem State.launchTrapped_memoryOk (l : Launch) (b : Nat) (arg : Word) (h : s.MemoryOk) : (s.launchTrapped l b arg).MemoryOk := by
  unfold State.launchTrapped
  dsimp only
  split
  · exact .ite h ((State.keeps_endLaunch ..).memory h)
  · exact .ite h ((State.keeps_checkoutSequence ..).memory h)
  · exact .ite ((State.keeps_endLaunch ..).memory h) h
  · exact h

theorem State.takeTrap_memoryOk (sd : Nat) (r : RecId) (b : Nat) (h : s.MemoryOk) : (s.takeTrap sd r b).MemoryOk := by
  unfold State.takeTrap
  split
  · exact h
  · exact State.launchTrapped_memoryOk _ _ _ (.same (State.freezeEnd_store ..) h)

theorem State.takeUe_memoryOk (sd : Nat) (r : RecId) (b : Nat) (h : s.MemoryOk) : (s.takeUe sd r b).MemoryOk := by
  unfold State.takeUe
  split
  · exact h
  · exact State.launchTrapped_memoryOk _ _ _ (.same (State.freezeEnd_store ..) h)

theorem State.launchSideLost_memoryOk (r : RecId) (h : s.MemoryOk) : (s.launchSideLost r).MemoryOk := by
  unfold State.launchSideLost
  split
  · exact h
  · exact .ite (.ite h ((State.keeps_checkoutSequence ..).memory h)) ((State.keeps_endLaunch ..).memory h)

theorem State.remoteLost_memoryOk (b : Nat) (h : s.MemoryOk) : (s.remoteLost b).MemoryOk := by
  unfold State.remoteLost
  split
  · exact h
  · exact State.launchSideLost_memoryOk _ (.same (State.freeze_store ..) h)

theorem State.takeChk_memoryOk (r : RecId) (f : BitVec 3) (w : Word) (h : s.MemoryOk) : (s.takeChk r f w).MemoryOk := by
  unfold State.takeChk
  split
  · exact h
  next l _ =>
    have k (l' : Launch) (g : Launch → Launch) : (if l.chk.isNone then (s.modLaunch l.id g).writeResult l' else s).MemoryOk :=
      .ite ((State.keeps_writeResult ..).memory h) h
    exact .ite ((State.keeps_endLaunch ..).memory (k ..)) (k ..)

theorem State.takeHalt_memoryOk (r : RecId) (h : s.MemoryOk) : (s.takeHalt r).MemoryOk := by
  unfold State.takeHalt
  split
  · exact h
  · exact .ite ((State.keeps_endLaunch ..).memory h) h

theorem State.takeEvent_memoryOk (sd : Nat) (e : DueEvent) (h : s.MemoryOk) : (s.takeEvent sd e).MemoryOk := by
  cases e with
  | trap r b => exact State.takeTrap_memoryOk _ _ _ h
  | ue r b => exact State.takeUe_memoryOk _ _ _ h
  | chk r f w => exact State.takeChk_memoryOk _ _ _ h
  | halt r => exact State.takeHalt_memoryOk _ h
  | stop r b k => exact .same (s.takeStop_store sd r b k) h

theorem State.takeEvents_memoryOk (sd : Nat) (es : List DueEvent) (h : s.MemoryOk) : (s.takeEvents sd es).MemoryOk := by
  induction es generalizing s with
  | nil => exact h
  | cons e es ih => exact ih (State.takeEvent_memoryOk _ _ h)

theorem State.settle_memoryOk (sd : Nat) (h : s.MemoryOk) : (s.settle sd).MemoryOk := State.takeEvents_memoryOk _ _ (State.putRecords_memoryOk h)

end

end Sys2Proof.Machine

/-! The memories stay in canonical form: accesses, releases, copies, queues, records, and what a page's load places. -/

namespace Sys2Proof.Machine

open State

section
variable {s : State}

/-! ### Accesses -/

theorem State.bindLoc_memoryOk (b : Nat) (sc : Scope) (l : Loc) (n : Nat) (h : s.MemoryOk) : (s.bindLoc b sc l n).2.MemoryOk := by
  cases l with
  | scr k => exact h
  | glb pa u => exact State.globalRead_memoryOk _ _ _ _ h

theorem State.performLane_memoryOk (b : Nat) (acc : Acc) (h : s.MemoryOk) : (s.performLane b acc).2.MemoryOk := by
  unfold State.performLane
  split
  · exact h
  dsimp only
  split
  · exact State.bindLoc_memoryOk _ _ _ _ h
  · exact State.bindLoc_memoryOk _ _ _ _ h
  · exact State.writeLoc_memoryOk _ _ _ _ _ h
  · exact h

theorem State.performLanes_memoryOk (b : Nat) (before : List Acc) (n : Nat) (acc : Acc) (h : s.MemoryOk) :
    (s.performLanes b before n acc).2.MemoryOk := by
  induction n generalizing s acc with
  | zero => exact h
  | succ n ih =>
    unfold State.performLanes
    split
    · exact h
    · exact ih _ (State.performLane_memoryOk _ _ h)

theorem State.performSome_memoryOk (b : Nat) (before : List Acc) (acc : Acc) (h : s.MemoryOk) : (s.performSome b before acc).2.MemoryOk :=
  State.performLanes_memoryOk _ _ _ _ (s.keeps_draw.memory h)

/-- Where an offset is placed, or not, the walk has left the memories in canonical form. -/
def Placed.Ok : Placed → Prop
  | .ok _ s | .perm _ s | .lost s => s.MemoryOk
  | .held _ => True

theorem State.locate_memoryOk (b cid : Nat) (sp : Space) (win off : Nat) (w : Bool) (h : s.MemoryOk) : (s.locate b cid sp win off w).Ok := by
  unfold State.locate
  dsimp only
  split
  · split <;> exact h
  · split <;> exact h
  · split
    · split
      · exact h
      · trivial
    next e =>
      have k := State.translateAt_memoryOk e h
      split
      · exact k
      · split <;> exact k

theorem State.portLanes_memoryOk (b cid : Nat) (acc : Acc) (l : List (Nat × Nat)) (h : s.MemoryOk) : (s.portLanes b cid acc l).1.MemoryOk := by
  induction l generalizing s acc with
  | nil => exact h
  | cons x l ih =>
    unfold State.portLanes
    dsimp only
    split
    · exact h
    have k := State.locate_memoryOk b cid acc.instr.place.1 acc.instr.place.2.1 x.2 acc.instr.writes h
    split <;> rename_i e <;> rw [e] at k
    · exact h
    · exact k
    · exact k
    · exact ih _ k

theorem State.prefetch_memoryOk (b cid : Nat) (n : MNode) (off : Nat) (h : s.MemoryOk) : (s.prefetch b cid n off).MemoryOk := by
  unfold State.prefetch
  dsimp only
  split
  · exact h
  have k := State.locate_memoryOk b cid .glb n.xm.win.toNat (off / 64 * 64) false h
  split
  next e =>
    rw [e] at k
    exact .ite k (.ite (State.fillL1_memoryOk _ _ k) (State.fillSide_memoryOk _ _ _ _ k))
  · exact h

theorem State.portAccess_memoryOk (a : TileAddr) (h : s.MemoryOk) : (s.portAccess a).MemoryOk := by
  unfold State.portAccess
  split
  next acc _ p _ _ =>
    split
    · exact h
    split
    · exact State.prefetch_memoryOk _ _ _ _ (.same (s.popPort_store a) h)
    have k := State.portLanes_memoryOk a.b p.cid acc acc.todo h
    split <;> rename_i e <;> rw [e] at k
    · exact .same (State.portDone_store ..) k
    · exact .same (State.holdAccess_store ..) k
    · exact .ite (.same (State.trapAccess_store ..) (.same (State.popPort_store ..) k)) (.same (State.setHead_store ..) k)
    · exact State.remoteLost_memoryOk _ k
  · exact h

theorem State.performAcc_memoryOk (a : TileAddr) (acc : Acc) (h : s.MemoryOk) : (s.performAcc a acc).MemoryOk := by
  have hfin {t : State} (p : Payload) (k : t.MemoryOk) : (t.finish a acc p).MemoryOk := .same (t.finish_store a acc p) k
  have hrep : (match acc.reply with
      | some p => s.finish a acc p
      | none => s).MemoryOk := by
    split
    · exact hfin _ h
    · exact h
  unfold State.performAcc
  dsimp only
  split
  · exact hfin _ (State.writeLoc_memoryOk _ _ _ _ _ h)
  · exact hrep
  · exact hrep
  · split
    · exact .ite (hfin _ h) h
    · exact .ite (hfin _ (State.readLoc_memoryOk _ _ _ _ _ h)) (State.readLoc_memoryOk _ _ _ _ _ h)
  · exact hfin _ (State.writeLoc_memoryOk _ _ _ _ _ h)
  · split
    · exact h
    · exact .same (State.modCaravan_store ..) h
  · exact h

theorem State.accessStep_memoryOk (a : TileAddr) (k : Nat) (before : List Acc) (acc : Acc) (h : s.MemoryOk) :
    (s.accessStep a k before acc).MemoryOk := by
  unfold State.accessStep
  split
  · have hs : (State.performSome (if acc.instr.order.releases then s.releaseCaches a.b acc.instr.scope else s) a.b before acc).2.MemoryOk :=
      State.performSome_memoryOk _ _ _ (.ite ((State.keeps_releaseCaches ..).memory h) h)
    exact .ite (.same (State.finish_store ..) hs) hs
  split
  · exact State.bindLoc_memoryOk _ _ _ _ h
  · exact State.performAcc_memoryOk _ _ h

theorem State.performRelease_memoryOk (b : Nat) (r : Release) {back : State} (h : s.MemoryOk) (hb : back.MemoryOk) :
    (s.performRelease b r back).MemoryOk := by
  have hunit : ((s.toUnit ⟨b, r.tile⟩ r.acc).getD back).MemoryOk := by
    cases hu : s.toUnit ⟨b, r.tile⟩ r.acc with
    | none => exact hb
    | some t => exact .same (State.toUnit_store hu) h
  unfold State.performRelease
  dsimp only
  split
  · exact hunit
  · exact hunit
  · exact .same (State.finish_store ..) h
  · exact .same (State.finish_store ..) h
  · exact .same (State.performChk_store ..) h
  · exact .same (State.performHalt_store ..) h
  · have hs := State.performSome_memoryOk b [] r.acc h
    exact .ite (.same (State.finish_store ..) hs) hs
  · exact State.performAcc_memoryOk _ _ h

/-! ### Atomics -/

theorem State.skipAll_memoryOk (os : List SparseOp) (h : s.MemoryOk) : (s.skipAll os).MemoryOk := by
  induction os generalizing s with
  | nil => exact h
  | cons o os ih => exact ih (.ite h (State.readLoc_memoryOk _ _ _ _ _ h))

theorem State.putAtHome_memoryOk (cid : Nat) (l : Loc) (bs : List Byte) (h : s.MemoryOk) : (s.putAtHome cid l bs).MemoryOk := by
  cases l with
  | scr k => exact ⟨h.1, Memory.wf_writes _ _ h.2⟩
  | glb pa u => exact (State.keeps_homeWrites ..).memory h

theorem State.applyAtoms_memoryOk (o : SparseOp) (op : AtomOp) (vec : Bool) (os : List SparseOp) (h : s.MemoryOk) :
    (s.applyAtoms o op vec os).MemoryOk :=
  .same (State.sparseAll_store ..) (State.putAtHome_memoryOk _ _ _ (State.skipAll_memoryOk _ h))

/-! ### Copies -/

theorem State.readLocs_memoryOk (b : Nat) (sc : Scope) (ls : List Loc) (h : s.MemoryOk) : (s.readLocs b sc ls).2.MemoryOk := by
  induction ls generalizing s with
  | nil => exact h
  | cons l ls ih => exact ih (State.readLoc_memoryOk _ _ _ _ _ h)

theorem State.writeLocs_memoryOk (b : Nat) (sc : Scope) (ls : List (Loc × Byte)) (h : s.MemoryOk) : (s.writeLocs b sc ls).MemoryOk := by
  induction ls generalizing s with
  | nil => exact h
  | cons l ls ih => exact ih (State.writeLoc_memoryOk _ _ _ _ _ h)

theorem State.placeByte_memoryOk (b cid : Nat) (sp : Space) (win : Nat) (off : Int) (w : Bool) (h : s.MemoryOk) :
    EndsOk Prod.snd (s.placeByte b cid sp win off w) := by
  unfold State.placeByte
  dsimp only
  split
  · exact h
  have k := State.locate_memoryOk b cid sp win off.toNat w h
  split <;> rename_i e <;> rw [e] at k
  · exact k
  · exact h
  · exact k
  · exact k

theorem State.placeBytes_memoryOk (b cid : Nat) (sp : Space) (win : Nat) (w : Bool) (l : List Int) (h : s.MemoryOk) :
    EndsOk Prod.snd (s.placeBytes b cid sp win w l) := by
  induction l generalizing s with
  | nil => exact h
  | cons off l ih =>
    unfold State.placeBytes
    have k := State.placeByte_memoryOk b cid sp win off w h
    split <;> rename_i e <;> rw [e] at k
    · exact k
    have k' := ih k
    split <;> rename_i e' <;> rw [e'] at k'
    · exact k'
    · exact k'

theorem State.copyStops_memoryOk (b c : Nat) (k : Copy) (p : Resident) (e : CopyStop) (h : s.MemoryOk) : (s.copyStops b c k p e).MemoryOk := by
  cases e with
  | held va w => exact .same (State.noteXlate_store ..) h
  | trap cls addr sp => exact .same (State.trap_store ..) h
  | lost => exact State.remoteLost_memoryOk _ h
  | bad pa => exact .same (State.ueBillet_store ..) h

theorem State.copyDest_memoryOk (b cid : Nat) (k : Copy) (ks : List Nat) (h : s.MemoryOk) : EndsOk Prod.snd (s.copyDest b cid k ks) := by
  unfold State.copyDest
  split
  · exact h
  · exact State.placeBytes_memoryOk _ _ _ _ _ _ h

theorem State.copySource_memoryOk (b cid : Nat) (k : Copy) (ks : List Nat) (h : s.MemoryOk) : EndsOk Prod.snd (s.copySource b cid k ks) := by
  unfold State.copySource
  split
  · exact h
  dsimp only
  have hp := State.placeBytes_memoryOk b cid (copySpace k.desc 0 2).1 (copySpace k.desc 0 2).2 false (ks.map k.src) h
  split <;> rename_i e <;> rw [e] at hp
  · exact hp
  split
  · exact hp
  · exact State.readLocs_memoryOk _ _ _ hp

theorem State.moveGranule_memoryOk (b c : Nat) (k : Copy) (p : Resident) (h : s.MemoryOk) : (s.moveGranule b c k p).MemoryOk := by
  unfold State.moveGranule
  have h1 := State.copyDest_memoryOk b p.cid k k.piece h
  dsimp only
  split <;> rename_i e1 <;> rw [e1] at h1
  · exact State.copyStops_memoryOk _ _ _ _ _ h1
  rename_i t
  have h2 := State.copySource_memoryOk (s := t) b p.cid k k.piece h1
  split <;> rename_i e2 <;> rw [e2] at h2
  · exact State.copyStops_memoryOk _ _ _ _ _ h2
  · exact State.writeLocs_memoryOk b k.scope _ h2

theorem State.copySignal_memoryOk (b c : Nat) (k : Copy) (p : Resident) (h : s.MemoryOk) : (s.copySignal b c k p).MemoryOk := by
  unfold State.copySignal
  dsimp only
  split
  · exact State.copyStops_memoryOk _ _ _ _ _ h
  have h1 := State.locate_memoryOk b p.cid (copySpace k.desc 16 18).1 (copySpace k.desc 16 18).2 (dw k.desc 8).toNat true h
  split <;> rename_i e1 <;> rw [e1] at h1
  · exact State.copyStops_memoryOk _ _ _ _ _ h
  · exact State.copyStops_memoryOk _ _ _ _ _ h1
  · exact State.remoteLost_memoryOk _ h1
  · exact .same (State.copyDone_store ..) (State.writeLoc_memoryOk _ _ _ _ _ ((State.keeps_releaseCaches ..).memory h1))

/-! ### Queues and records -/

theorem State.loadQueue_memoryOk (n sd i : Nat) (h : s.MemoryOk) : (s.loadQueue n sd i).MemoryOk := by
  unfold State.loadQueue
  split
  · exact h
  next q _ =>
  dsimp only
  have k := State.sysReads_memoryOk q.cid q.saveVa false 8 h
  split <;> rename_i e <;> rw [e] at k
  · exact (State.keeps_modQueue ..).memory k
  · exact (State.keeps_modQueue ..).memory k

theorem State.serveKnock_memoryOk (sd n : Nat) (h : s.MemoryOk) : (s.serveKnock sd n).MemoryOk := by
  unfold State.serveKnock
  dsimp only
  split
  · exact h
  split
  · exact (State.keeps_modQueue ..).memory h
  split
  · exact State.loadQueue_memoryOk _ _ _ h
  split
  · exact h
  · exact State.loadQueue_memoryOk _ _ _ ((State.keeps_saveQueue ..).memory h)

theorem State.readSlot_memoryOk (n : Nat) (q : VQueue) (h : s.MemoryOk) : (s.readSlot n q).MemoryOk := by
  unfold State.readSlot
  dsimp only
  have k := State.sysRead_memoryOk q.cid (q.ringVa + 64 * (q.read.toNat % q.slots)) 64 false h
  split <;> rename_i e <;> rw [e] at k
  · exact .same (State.addRec_store ..) (.same (State.permRecord_store ..) k)
  · exact .same (State.addRec_store ..) k

theorem State.holdRec_memoryOk (cid : Nat) (r : RecId) (va : Nat) (w : Bool) (h : s.MemoryOk) : (s.holdRec cid r va w).MemoryOk := by
  have k : (s.modRec r fun x => { x with held := some va, wake := false }).MemoryOk := .same (State.modRec_store ..) h
  exact .ite k k

theorem State.recFails_memoryOk (cid : Nat) (r : RecId) (va n : Nat) (w : Bool) (e : SysFail) (h : s.MemoryOk) : (s.recFails cid r va n w e).MemoryOk := by
  cases e with
  | walk => exact State.holdRec_memoryOk _ _ _ _ h
  | perm => exact .same (State.permRec_store ..) h
  | lost => exact .same (State.outcome_store ..) h

theorem State.touchRec_memoryOk (r : RecId) (h : s.MemoryOk) : (s.touchRec r).MemoryOk := .same (State.modRec_store ..) h

theorem State.copyPut_memoryOk (r : RecId) (q : VQueue) (x : Rec) (bs : List Byte) (h : s.MemoryOk) : (s.copyPut r q x bs).MemoryOk := by
  unfold State.copyPut
  dsimp only
  split
  next e => exact State.recFails_memoryOk _ _ _ _ _ _ (e ▸ State.sysWrite_memoryOk _ _ _ h :)
  next e => exact .same (State.copied_store ..) (e ▸ State.sysWrite_memoryOk _ _ _ h :)

theorem State.copyStep_memoryOk (r : RecId) (q : VQueue) (x : Rec) (h : s.MemoryOk) : (s.copyStep r q x).MemoryOk := by
  unfold State.copyStep
  dsimp only
  split
  · exact State.copyPut_memoryOk _ _ _ _ h
  split
  next e => exact State.recFails_memoryOk _ _ _ _ _ _ (e ▸ State.sysRead_memoryOk _ _ _ _ h :)
  next e => exact State.copyPut_memoryOk _ _ _ _ (e ▸ State.sysRead_memoryOk _ _ _ _ h :)

theorem State.signalStep_memoryOk (r : RecId) (q : VQueue) (x : Rec) (h : s.MemoryOk) : (s.signalStep r q x).MemoryOk := by
  have hold : EndsOk Prod.snd (if x.w 8 = 2 then s.sysRead q.cid (x.d 4) 8 false else .ok ([], s)) := by
    split
    · exact State.sysRead_memoryOk _ _ _ _ h
    · exact h
  unfold State.signalStep
  dsimp only
  split <;> rename_i e <;> rw [e] at hold
  · exact State.recFails_memoryOk _ _ _ _ _ _ hold
  split
  next e' => exact State.recFails_memoryOk _ _ _ _ _ _ (e' ▸ State.sysWrite_memoryOk _ _ _ hold :)
  next e' => exact .same (State.outcome_store ..) (e' ▸ State.sysWrite_memoryOk _ _ _ hold :)

theorem State.waitmemStep_memoryOk (r : RecId) (q : VQueue) (x : Rec) (h : s.MemoryOk) : (s.waitmemStep r q x).MemoryOk := by
  unfold State.waitmemStep
  split
  next e => exact State.recFails_memoryOk _ _ _ _ _ _ (e ▸ State.sysRead_memoryOk _ _ _ _ h :)
  next e => exact .same (State.waitmemRead_store ..) (e ▸ State.sysRead_memoryOk _ _ _ _ h :)

/-! ### What a load places -/

theorem State.putScr_memoryOk (b : Nat) (cs : List Host.Cell) (h : s.MemoryOk) : (s.putScr b cs).MemoryOk := by
  induction cs generalizing s with
  | nil => exact h
  | cons c cs ih => exact ih ⟨h.1, Memory.wf_write _ _ h.2⟩

theorem State.putData_memoryOk (b : Nat) (img : List Byte) (rs : List DataRec) (h : s.MemoryOk) : (s.putData b img rs).MemoryOk := by
  induction rs generalizing s with
  | nil => exact h
  | cons r rs ih => exact ih ⟨h.1, Memory.wf_writes _ _ h.2⟩

end

end Sys2Proof.Machine

/-! The memories stay in canonical form: what the Front Desk reads (R335 to R337), launches, pages, roles, links and power. -/

namespace Sys2Proof.Machine

open State

/-! ### Readers -/

/-- A reader's walks leave the memories in canonical form. -/
structure Reader.Sound {α : Type} (m : Reader α) : Prop where
  run : ∀ s : State, s.MemoryOk → EndsOk Prod.snd (m s)

namespace Reader.Sound
variable {α β : Type}

theorem ret (a : α) : (Reader.ret a).Sound := ⟨fun _ h => h⟩

theorem andThen {m : Reader α} {f : α → Reader β} (hm : m.Sound) (hf : ∀ a, (f a).Sound) : (m.andThen f).Sound := by
  refine ⟨fun s h => ?_⟩
  have k := hm.run s h
  unfold Reader.andThen
  split <;> rename_i e <;> rw [e] at k
  · exact k
  · exact (hf _).run _ k

theorem require (ok : Bool) (code idx : Nat) : (Reader.require ok code idx).Sound := by
  refine ⟨fun s h => ?_⟩
  unfold Reader.require
  split <;> exact h

theorem each {f : Nat → α → Reader β} (hf : ∀ i a, (f i a).Sound) (l : List α) (i : Nat) : (Reader.each f i l).Sound := by
  induction l generalizing i with
  | nil => exact ret _
  | cons a l ih => exact andThen (hf i a) fun _ => andThen (ih _) fun _ => ret _

theorem ite {p : Prop} [Decidable p] {m n : Reader α} (hm : m.Sound) (hn : n.Sound) : (if p then m else n).Sound := by
  split
  · exact hm
  · exact hn

theorem onPage {f : VPage → Reader VPage} (hf : ∀ p, (f p).Sound) (k : Nat) (ps : List VPage) : (onPage k f ps).Sound :=
  each (fun _ _ => ite (hf _) (ret _)) _ _

theorem readRange (cid n va len : Nat) : (readRange cid n va len).Sound := by
  induction n generalizing va len with
  | zero => exact ret _
  | succ n ih =>
    refine ⟨fun s h => ?_⟩
    unfold Sys2Proof.Machine.readRange
    dsimp only
    split
    · exact h
    have k := State.sysRead1_memoryOk cid va (firstPart va len) true h
    split <;> rename_i e <;> rw [e] at k
    · exact k
    · exact (andThen (ih _ _) fun _ => ret _).run _ k

theorem readBytes (cid va n : Nat) : (readBytes cid va n).Sound := readRange ..

theorem readWords (cid va n : Nat) : (readWords cid va n).Sound := andThen (readBytes ..) fun _ => ret _

theorem readPage (cid table i : Nat) : (readPage cid table i).Sound := by
  refine ⟨fun s h => ?_⟩
  unfold Sys2Proof.Machine.readPage
  exact (andThen (readWords ..) fun _ => andThen (require ..) fun _ => andThen (readWords ..) fun _ => andThen (require ..) fun _ => ret _).run s h

theorem span (cid off n : Nat) (p : VPage) : (p.span cid off n).Sound := andThen (readWords ..) fun _ => ret _

theorem readForWindows (cid : Nat) (g : GPage) : (readForWindows cid g).Sound := andThen (span ..) fun _ => span ..

theorem readForCaps (cid : Nat) (p : VPage) : (p.readForCaps cid).Sound := andThen (span ..) fun _ => andThen (span ..) fun _ => span ..

theorem readOut (cid tile ch : Nat) (p : VPage) : (p.readOut cid tile ch).Sound := ite (ret _) (span ..)

theorem readIn (cid tile ch : Nat) (p : VPage) : (p.readIn cid tile ch).Sound := ite (ret _) (span ..)

theorem readForEdge (cid : Nat) (e : Edge) (ps : List VPage) : (readForEdge cid e ps).Sound := by
  refine andThen (onPage (fun p => andThen (readOut ..) fun p => ?_) ..) fun _ => onPage (fun _ => readIn ..) ..
  split
  · exact ite (span ..) (ret _)
  · exact ret _

theorem checkEdges (cid i : Nat) (ps : List VPage) (es : List Edge) (ws : List (List Word)) : (checkEdges cid i ps es ws).Sound := by
  induction ws generalizing i ps es with
  | nil => exact ret _
  | cons w ws ih => exact andThen (readForEdge ..) fun _ => andThen (require ..) fun _ => ih ..

theorem readArgs (cid : Nat) (ps : List VPage) (entry : Nat → Bool) (n va : Nat) (acc : List ArgRec) :
    (readArgs cid ps entry n va acc).Sound := by
  induction n generalizing ps va acc with
  | zero => exact ret _
  | succ n ih =>
    refine andThen (readWords ..) fun _ => andThen (readWords ..) fun _ => andThen (ite (onPage (fun _ => readIn ..) ..) (ret _)) fun _ =>
      andThen (require ..) fun _ => ih ..

theorem checkWindows (cid : Nat) (gs : List GPage) : (checkWindows cid gs).Sound :=
  each (fun _ _ => andThen (readForWindows ..) fun _ => andThen (require ..) fun _ => ret _) _ _

theorem checkCaps (cid : Nat) (ps : List VPage) : (checkCaps cid ps).Sound := by
  refine ⟨fun s h => ?_⟩
  unfold Sys2Proof.Machine.checkCaps
  exact (each (fun _ _ => andThen (readForCaps ..) fun _ => andThen (require ..) fun _ => ret _) _ _).run s h

theorem readHandlers (cid : Nat) (wanted : List Nat) (i : Nat) (p : VPage) : (VPage.readHandlers cid wanted i p).Sound := ite (span ..) (ret _)

theorem readBlocks (cid fin : Nat) (ns : List Nat) (off : Nat) (p : VPage) : (VPage.readBlocks cid fin ns off p).Sound := by
  induction ns generalizing off p with
  | nil => exact ret _
  | cons n ns ih => exact andThen (span ..) fun _ => ite (ret _) (andThen (span ..) fun _ => ih ..)

theorem readStations (cid : Nat) (ts : List Nat) (p : VPage) : (VPage.readStations cid ts p).Sound := by
  induction ts generalizing p with
  | nil => exact ret _
  | cons t ts ih => exact andThen (span ..) fun _ => andThen (readBlocks ..) fun _ => ih ..

theorem checkLimits (cid : Nat) {table : Reader (List (List Word))} (ht : table.Sound) (n i : Nat) (ps : List VPage) :
    (checkLimits cid table n i ps).Sound := by
  induction n generalizing i ps with
  | zero => exact ret _
  | succ n ih =>
    exact andThen (onPage (fun _ => andThen (andThen (span ..) fun _ => andThen (require ..) fun _ => ret _) fun _ =>
        andThen (andThen (readStations ..) fun _ => andThen (require ..) fun _ => ret _) fun _ => span ..) ..) fun _ =>
      andThen (ite ht (ret _)) fun _ => andThen (each (fun _ _ => readHandlers ..) _ _) fun _ => andThen (require ..) fun _ => ih ..

theorem readHead (cid g : Nat) : (readHead cid g).Sound := andThen (readWords ..) fun _ => andThen (require ..) fun _ => ret _

theorem checkGraph (cid g : Nat) : (checkGraph cid g).Sound := by
  unfold Sys2Proof.Machine.checkGraph
  have htable (h : List Word) : (Reader.each (fun i (_ : Nat) => Sys2Proof.Machine.readWords cid (g + iw h 28 + 16 * i) 4) 0
      (List.range (fld (iw h 8) 0 13))).Sound := each (fun _ _ => readWords ..) _ _
  refine andThen (readHead ..) fun h => andThen (each (fun _ _ => readPage ..) _ _) fun _ => andThen (require ..) fun _ =>
    andThen (checkWindows ..) fun _ => andThen (checkCaps ..) fun _ => andThen (checkLimits _ (htable h) ..) fun _ =>
    andThen (htable h) fun _ => andThen (checkEdges ..) fun _ => andThen (readWords ..) fun _ =>
    andThen (each (fun _ _ => require ..) _ _) fun _ => andThen ?_ fun _ => ret _
  split
  · exact require ..
  · exact ret _

theorem checkArgs (cid a : Nat) (g : Graph) (ps : List VPage) : (checkArgs cid a g ps).Sound :=
  ite (ret _) (andThen (readWords ..) fun _ => andThen (require ..) fun _ => readArgs ..)

theorem checkDeadline (d b : Nat) : (checkDeadline d b).Sound := ⟨fun s h => (require ..).run s h⟩

theorem validate (cid g a d b : Nat) : (validate cid g a d b).Sound := by
  unfold Sys2Proof.Machine.validate
  exact andThen (checkGraph ..) fun _ => andThen (checkArgs ..) fun _ => andThen (checkDeadline ..) fun _ => ret _

theorem checkPagein (cid g k : Nat) : (checkPagein cid g k).Sound :=
  andThen (checkGraph ..) fun _ => andThen (require ..) fun _ => ret _

end Reader.Sound

section
variable {s : State}

/-! ### Launches and pages -/

theorem State.aimEdges_memoryOk (r : RecId) (k b : Nat) (h : s.MemoryOk) : (s.aimEdges r k b).MemoryOk :=
  h

theorem State.takeHeld_memoryOk (r : RecId) (x : RecId × Nat × Option Nat) (h : s.MemoryOk) : (s.takeHeld r x).MemoryOk := by
  obtain ⟨old, k, place⟩ := x
  unfold State.takeHeld
  dsimp only
  split
  · exact h
  next l _ =>
    have hp : (s.endPageins old.queue l.gdesc k .ok 0).MemoryOk := .same (State.endPageins_store ..) h
    split
    · exact hp
    · exact .same (State.tune_store ..) (State.aimEdges_memoryOk _ _ _ hp)

theorem State.takeAll_memoryOk (r : RecId) (xs : List (RecId × Nat × Option Nat)) (h : s.MemoryOk) : (s.takeAll r xs).MemoryOk := by
  induction xs generalizing s with
  | nil => exact h
  | cons x xs ih => exact ih (State.takeHeld_memoryOk _ _ h)

theorem State.zeroResult_memoryOk (cid : Nat) (r : RecId) (va : Nat) (h : s.MemoryOk) : (s.zeroResult cid r va).MemoryOk := by
  unfold State.zeroResult
  split
  next e => exact (e ▸ State.sysWrite_memoryOk _ _ _ h :)
  next e => exact .same (State.permRecord_store ..) (e ▸ State.sysWrite_memoryOk _ _ _ h :)

theorem State.enrol_memoryOk (r : RecId) (q : VQueue) (x : Rec) (p : Plan) (h : s.MemoryOk) : (s.enrol r q x p).MemoryOk :=
  State.takeAll_memoryOk _ _ (by exact State.zeroResult_memoryOk _ _ _ h)

theorem State.launchPlanned_memoryOk (r : RecId) (q : VQueue) (x : Rec) (p : Plan) (h : s.MemoryOk) : (s.launchPlanned r q x p).MemoryOk :=
  .ite (State.enrol_memoryOk _ _ _ _ h) (.same (State.refuseLaunch_store ..) h)

theorem State.launchStep_memoryOk (r : RecId) (q : VQueue) (x : Rec) (h : s.MemoryOk) : (s.launchStep r q x).MemoryOk := by
  unfold State.launchStep
  have k := (Reader.Sound.validate q.cid (x.d 4) (x.d 11) (x.d 6) (x.w 8)).run _ (State.touchRec_memoryOk r h)
  split <;> rename_i e <;> rw [e] at k
  · exact .same (State.refuseLaunch_store ..) k
  · exact .same (State.refuseLaunch_store ..) (.same (State.permRecord_store ..) k)
  · exact .same (State.refuseLaunch_store ..) k
  · exact State.launchPlanned_memoryOk _ _ _ _ k

theorem State.holdPage_memoryOk (r : RecId) (q : VQueue) (x : Rec) (h : s.MemoryOk) : (s.holdPage r q x).MemoryOk := by
  unfold State.holdPage
  have k := (Reader.Sound.checkPagein q.cid (x.d 4) (x.w 6)).run s h
  dsimp only
  split <;> rename_i e <;> rw [e] at k
  · exact .same (State.outcome_store ..) k
  · exact .same (State.outcome_store ..) (.same (State.permRecord_store ..) k)
  · exact .same (State.outcome_store ..) k
  · exact .ite (.same (State.outcome_store ..) k) ((State.keeps_modRec ..).memory k)

theorem State.checkoutNow_memoryOk (l : Launch) (h : s.MemoryOk) : (s.checkoutNow l).MemoryOk := by
  unfold State.checkoutNow
  split
  · exact (State.keeps_endLaunch ..).memory h
  · exact (State.keeps_checkoutSequence ..).memory h
  · exact (State.keeps_endStop ..).memory h
  · exact h

theorem State.quotaFails_memoryOk (l : Launch) (k : Nat) (h : s.MemoryOk) : (s.quotaFails l k).MemoryOk :=
  (State.keeps_failLaunch ..).memory (.same (State.noteRecord_store ..) h)

theorem State.serveFault_memoryOk {r : RecId} {k : Nat} {t : State} (e : s.serveFault r k = some t) (h : s.MemoryOk) : t.MemoryOk := by
  obtain ⟨l, -, e⟩ := Option.bind_eq_some_iff.mp e
  obtain ⟨g, -, e⟩ := Option.bind_eq_some_iff.mp e
  dsimp only at e
  split at e
  · cases e
    exact State.quotaFails_memoryOk _ _ h
  next hr =>
    obtain ⟨l', -, e⟩ := Option.bind_eq_some_iff.mp e
    exact .same (State.takeBillet_store e) (.same (State.reserveFault_store hr) h)

theorem State.serveFirst_memoryOk (fs : List (Rank × RecId × Nat)) (h : s.MemoryOk) : (s.serveFirst fs).MemoryOk := by
  induction fs generalizing s with
  | nil => exact h
  | cons f fs ih =>
    unfold State.serveFirst
    cases e : s.serveFault f.2.1 f.2.2 with
    | none => exact ih (.same (State.reservedFor_store ..) h)
    | some t => exact State.serveFault_memoryOk e h

theorem State.loadFails_memoryOk (p : Resident) (f : FaultInfo) (st : Status) (d : Nat) (h : s.MemoryOk) : (s.loadFails p f st d).MemoryOk :=
  (State.keeps_failLaunch ..).memory h

theorem State.loadUe_memoryOk (b : Nat) (p : Resident) (h : s.MemoryOk) : (s.loadUe b p).MemoryOk :=
  State.loadFails_memoryOk _ _ _ _ (.same (State.logRecord_store ..) h)

theorem State.streamPage_memoryOk (b : Nat) (p : Resident) (g : GPage) (ps : PageState) (h : s.MemoryOk) :
    (s.streamPage b p g ps).MemoryOk := by
  unfold State.streamPage
  have k := (Reader.Sound.readBytes p.cid g.image g.size).run s h
  split <;> rename_i e <;> rw [e] at k
  · exact State.loadFails_memoryOk _ _ _ _ k
  · exact (State.keeps_failLaunch ..).memory k
  · exact k
  dsimp only
  split
  · exact State.loadFails_memoryOk _ _ _ _ k
  split
  · exact State.loadFails_memoryOk _ _ _ _ k
  · exact .ite (State.loadUe_memoryOk _ _ k) k

theorem State.pageLeaves_memoryOk (b : Nat) (p : Resident) (e : Evict) (v : Nat) (h : s.MemoryOk) : (s.pageLeaves b p e v).MemoryOk := by
  unfold State.pageLeaves
  split
  next n t ht =>
  have h0 : t.MemoryOk := (ht ▸ s.keeps_draw.memory h :)
  extract_lets rec_ s0 s1 s2 s3 s4 s5
  have h1 : s1.MemoryOk := (State.keeps_releaseCaches ..).memory h0
  have h2 : s2.MemoryOk := (State.keeps_modBillet ..).memory h1
  have h3 : s3.MemoryOk := .same ⟨rfl, rfl⟩ h2
  have h4 : s4.MemoryOk := .same ⟨rfl, rfl⟩ h3
  have h5 : s5.MemoryOk := (State.keeps_freeBillet ..).memory ((State.keeps_clearScr ..).memory h4)
  exact .ite h5 (.same (State.afterFree_store ..) h5)

theorem State.stewardDone_memoryOk (b : Nat) (p : Resident) (ld : Load) (h : s.MemoryOk) : (s.stewardDone b p ld).MemoryOk := by
  unfold State.stewardDone
  extract_lets ws ps armed x0 x1 x2 x3 x4 s1 s2 s3 s4 s5 s6 s7 s8 s9
  clear_value x4
  have h1 : s1.MemoryOk := .same ⟨rfl, rfl⟩ h
  clear_value s1
  have h2 : s2.MemoryOk := by
    unfold s2
    split
    · exact .same ⟨rfl, rfl⟩ (State.putScr_memoryOk _ _ h1)
    · exact State.putData_memoryOk _ _ _ h1
  clear_value s2
  have h3 : s3.MemoryOk := .same ⟨rfl, rfl⟩ h2
  clear_value s3
  have h4 : s4.MemoryOk := State.aimEdges_memoryOk _ _ _ h3
  clear_value s4
  have h5 : s5.MemoryOk := by
    unfold s5
    split
    · exact .same (State.partEdges_store ..) h4
    · exact h4
  clear_value s5
  have h6 : s6.MemoryOk := .same (State.tune_store ..) h5
  clear_value s6
  have h7 : s7.MemoryOk := .same (State.acquireCaches_store ..) h6
  clear_value s7
  have h8 : s8.MemoryOk := .ite (.same ⟨rfl, rfl⟩ h7) h7
  clear_value s8
  have h9 : s9.MemoryOk := .same (State.wakeLaunch_store ..) h8
  exact .ite (.same (State.raiseWaiting_store ..) (.same (State.raiseKept_store ..) h9)) h9

end

end Sys2Proof.Machine

/-! The memories stay in canonical form: roles, links, sites, errors, resets and power, and the accesses of a debugger. -/

namespace Sys2Proof.Machine

open State

section
variable {s : State}

/-! ### Wakes and queues -/

theorem State.faultHeader_memoryOk (cid va : Nat) (h : s.MemoryOk) : (s.faultHeader cid va).MemoryOk := by
  unfold State.faultHeader
  split
  next e => exact (e ▸ State.sysWrite_memoryOk _ _ _ h :)
  next e => exact (e ▸ State.sysWrite_memoryOk _ _ _ h :)

theorem State.wakeAll_memoryOk (cid g : Nat) (h : s.MemoryOk) : (s.wakeAll cid g).MemoryOk :=
  .same (s.wakePages_store cid g false) h

theorem State.reloadQueue_memoryOk (sd i n : Nat) (h : s.MemoryOk) : (s.reloadQueue sd i n).MemoryOk :=
  State.loadQueue_memoryOk _ _ _ ((State.keeps_modQueue ..).memory h)

theorem State.rebuildTable_memoryOk (sd : Nat) (h : s.MemoryOk) : (s.rebuildTable sd).MemoryOk := by
  refine .foldl (fun s p h => ?_) _ h
  split
  · exact State.reloadQueue_memoryOk _ _ _ h
  · exact h

theorem State.completeSide_memoryOk (sd : Nat) (h : s.MemoryOk) : (s.completeSide sd).MemoryOk :=
  .foldl (fun s r h => (s.keeps_completeRec r).memory h) _ h

/-! ### Roles -/

theorem State.clearScrs_memoryOk (bs : List Nat) (h : s.MemoryOk) : (s.clearScrs bs).MemoryOk := by
  induction bs generalizing s with
  | nil => exact h
  | cons b bs ih => exact ih ((State.keeps_clearScr ..).memory h)

theorem State.roleFlush_memoryOk (sd : Nat) (h : s.MemoryOk) : (s.roleFlush sd).MemoryOk :=
  State.clearScrs_memoryOk _ (State.flushSide_memoryOk _ h)

theorem State.finishRole_memoryOk (sd : Nat) (rs : List Role) (h : s.MemoryOk) : (s.finishRole sd rs).MemoryOk :=
  .same (State.waitsDone_store ..) (.same (State.fabricTo_store ..) (.same (State.tlbOff_store ..)
    ((State.keeps_modSide ..).memory (State.roleFlush_memoryOk _ h))))

theorem State.roleDrained_memoryOk (sd : Nat) (rs : List Role) (h : s.MemoryOk) : (s.roleDrained sd rs).MemoryOk :=
  .ite (State.finishRole_memoryOk _ _ h)
    ((State.keeps_modSide ..).memory (.same (State.startStep_store ..) (State.roleFlush_memoryOk _ h)))

theorem State.roleStep_memoryOk (sd : Nat) (h : s.MemoryOk) : (s.roleStep sd).MemoryOk := by
  unfold State.roleStep
  split
  · exact h
  split
  · split
    · exact State.finishRole_memoryOk _ _ (.same (State.setClock_store ..) h)
    · exact State.finishRole_memoryOk _ _ h
  · have k : (s.wantOuts (billetsIn sd (s.side sd).roleHit)).MemoryOk := .same (State.wantOuts_store ..) h
    exact .ite (State.roleDrained_memoryOk _ _ k) k

/-! ### Sides, layers and links that are lost -/

theorem State.failLaunches_memoryOk (ls : List Launch) (st : Status) (d : Nat) (h : s.MemoryOk) :
    (ls.foldl (fun s (l : Launch) => s.failLaunch l.id st d) s).MemoryOk :=
  .foldl (fun s _ h => (s.keeps_failLaunch ..).memory h) _ h

theorem State.remoteAll_memoryOk (bs : List Nat) (h : s.MemoryOk) : (s.remoteAll bs).MemoryOk := by
  induction bs generalizing s with
  | nil => exact h
  | cons b bs ih => exact ih (State.remoteLost_memoryOk _ h)

theorem State.sideLostAll_memoryOk (rs : List RecId) (h : s.MemoryOk) : (s.sideLostAll rs).MemoryOk := by
  induction rs generalizing s with
  | nil => exact h
  | cons r rs ih => exact ih (State.launchSideLost_memoryOk _ h)

theorem State.isolate_memoryOk (h : s.MemoryOk) : s.isolate.MemoryOk := by
  have hf : (s.freeze (s.billetsOn 1) .iso).MemoryOk := .same (State.freeze_store ..) h
  unfold State.isolate
  exact .ite h (State.remoteAll_memoryOk _ (.same (State.moveQueues_store ..) (State.sideLostAll_memoryOk _ (by exact hf))))

theorem State.cutLayers_memoryOk (sd layer port : Nat) (h : s.MemoryOk) : (s.cutLayers sd layer port).MemoryOk := by
  unfold State.cutLayers
  extract_lets above gone s1 s2 cut lost hurt s3 s4
  have h1 : s1.MemoryOk := .same (State.copyTo_store ..) h
  have h2 : s2.MemoryOk := State.failLaunches_memoryOk _ _ _ h1
  have h3 : s3.MemoryOk := .same (State.copyTo_store ..) h2
  exact .same (State.tlbOff_store ..) ((State.keeps_modSide ..).memory h3)

theorem State.spareNow_memoryOk (sd layer x y : Nat) (h : s.MemoryOk) : (s.spareNow sd layer x y).MemoryOk := by
  unfold State.spareNow
  extract_lets b s1
  have h1 : s1.MemoryOk := (State.keeps_modSide ..).memory h
  split
  · exact .same (State.fabricTo_store ..) ((State.keeps_modSide ..).memory h1)
  · exact .ite (.same (State.retire_store ..) h1)
      (.ite (State.isolate_memoryOk h1) ((State.keeps_modSide ..).memory (.same (State.logRecord_store ..) h1)))

theorem State.modLink_memoryOk (l : LinkId) (f : Link → Link) (h : s.MemoryOk) : (s.modLink l f).MemoryOk := h

theorem State.linkGone_memoryOk (l : LinkId) (h : s.MemoryOk) : (s.linkGone l).MemoryOk := by
  unfold State.linkGone
  split
  · exact .same (State.retire_store ..) (.same (State.wantOut_store ..) h)
  · exact State.cutLayers_memoryOk _ _ _ h
  · exact .ite (State.isolate_memoryOk h) h

theorem State.loseLink_memoryOk (l : LinkId) (h : s.MemoryOk) : (s.loseLink l).MemoryOk :=
  State.linkGone_memoryOk _ (State.modLink_memoryOk _ _ h)

theorem State.degrade_memoryOk (l : LinkId) (md : Nat) (h : s.MemoryOk) : (s.degrade l md).MemoryOk := by
  unfold State.degrade
  extract_lets s1 s2
  have h2 : s2.MemoryOk := .same (State.fabricTo_store ..) (.same (State.linkRecords_store ..) (State.modLink_memoryOk _ _ h))
  exact .ite (State.loseLink_memoryOk _ h2) h2

theorem State.repair_memoryOk (l : LinkId) (md : Nat) (h : s.MemoryOk) : (s.repair l md).MemoryOk :=
  .ite (.ite (State.degrade_memoryOk _ _ h) (State.modLink_memoryOk _ _ h))
    (.ite (State.loseLink_memoryOk _ (.same (State.linkRecords_store ..) h)) (State.modLink_memoryOk _ _ h))

theorem State.applyLink_memoryOk (l : LinkId) (q : LinkReq) (h : s.MemoryOk) : (s.applyLink l q).MemoryOk := by
  cases q with
  | retrain => exact h
  | repair md => exact State.repair_memoryOk _ _ h
  | width md => exact State.degrade_memoryOk _ _ h
  | freq rate => exact State.modLink_memoryOk _ _ h

theorem State.spareLink_memoryOk (l : LinkId) (h : s.MemoryOk) : (s.spareLink l).MemoryOk := by
  unfold State.spareLink
  dsimp only
  split
  · split
    · exact .same (State.linkRequest_store ..) h
    · exact h
  · exact .same (State.linkRequest_store ..) h

/-! ### Ways, aging and uncorrectable errors -/

theorem State.dropWay_memoryOk (sd way : Nat) (h : s.MemoryOk) : (s.dropWay sd way).MemoryOk :=
  .foldl (fun s _ h => (s.keeps_dropL2 ..).memory h) _ h

theorem State.aged_memoryOk (sd : Nat) (l : List AgingSite) (h : s.MemoryOk) : (s.aged sd l).MemoryOk := by
  induction l generalizing s with
  | nil => exact h
  | cons x l ih =>
    cases x with
    | site layer x y => exact ih ((State.keeps_modSide ..).memory h)
    | link l => exact ih (State.spareLink_memoryOk _ h)

theorem State.ueDesk_memoryOk (sd : Nat) (h : s.MemoryOk) : (s.ueDesk sd).MemoryOk := by
  unfold State.ueDesk
  extract_lets mine s1 s2 busy cut s3
  have h1 : s1.MemoryOk := .same (State.copyTo_store ..) h
  have h2 : s2.MemoryOk := State.failLaunches_memoryOk _ _ _ h1
  have h3 : s3.MemoryOk := .same ⟨rfl, rfl⟩ h2
  exact State.rebuildTable_memoryOk _ (State.completeSide_memoryOk _ h3)

/-! ### Resets and power -/

theorem State.coldReset_memoryOk (h : s.MemoryOk) : s.coldReset.MemoryOk := ⟨Memory.wf_filter _ h.1, rfl⟩

theorem State.fwWritten_memoryOk (img : List Byte) (h : s.MemoryOk) : (s.fwWritten img).MemoryOk := by
  unfold State.fwWritten
  extract_lets s1
  have h1 : s1.MemoryOk := .same (State.waitsDone_store ..) (by exact h)
  exact .ite (by exact State.coldReset_memoryOk h1) h1

theorem State.wake_memoryOk (h : s.MemoryOk) : s.wake.MemoryOk := by
  unfold State.wake
  extract_lets deep waits s1 s2
  have h1 : s1.MemoryOk := .same (State.unfreeze_store ..) h
  have h2 : s2.MemoryOk := .same (State.waitsDone_store ..) (by exact h1)
  exact .ite (.same (State.knockAll_store ..) (by exact h2)) h2

theorem State.enterC2_memoryOk (h : s.MemoryOk) : s.enterC2.MemoryOk := by
  unfold State.enterC2
  extract_lets s1 bs
  have h1 : s1.MemoryOk := .ite h (State.wake_memoryOk h)
  exact .same (s1.freeze_store bs .power) h1

theorem State.saveTables_memoryOk (h : s.MemoryOk) : ((s.saveTable 0).saveTable 1).MemoryOk :=
  (State.keeps_saveTable ..).memory ((State.keeps_saveTable ..).memory h)

theorem State.finishC3_memoryOk (h : s.MemoryOk) : s.finishC3.MemoryOk :=
  .same (State.waitsDone_store ..) (.same ⟨rfl, rfl⟩ (State.saveTables_memoryOk h))

theorem State.stepC3_memoryOk (h : s.MemoryOk) : s.stepC3.MemoryOk := by
  unfold State.stepC3
  extract_lets s1
  have h1 : s1.MemoryOk := .same (State.wantEvicts_store ..) h
  exact .ite (State.finishC3_memoryOk h1) h1

theorem State.d3hot_memoryOk (h : s.MemoryOk) : s.d3hot.MemoryOk := by
  unfold State.d3hot
  extract_lets s1 s2 s3
  have h1 : s1.MemoryOk := (State.keeps_completeAll ..).memory ((State.keeps_faultAll ..).memory h)
  have h2 : s2.MemoryOk := State.saveTables_memoryOk h1
  have h3 : s3.MemoryOk := (State.keeps_flushL2 ..).memory ((State.keeps_flushL2 ..).memory h2)
  clear_value s3
  exact ⟨h3.1, rfl⟩

theorem State.resetFns_memoryOk (fns : List Nat) (h : s.MemoryOk) : (s.resetFns fns).MemoryOk := by
  induction fns generalizing s with
  | nil => exact h
  | cons f fns ih => exact ih ((State.keeps_resetFn ..).memory h)

theorem State.zeroPages_memoryOk (cid : Nat) (h : s.MemoryOk) : (s.zeroPages cid).MemoryOk := ⟨Memory.wf_filter _ h.1, h.2⟩

/-! ### A debugger's accesses -/

/-- However the parts of a debugger's access end, the memories are in canonical form. -/
def PartsOk {α : Type} (st : α → State) : Except State α → Prop
  | .ok x => (st x).MemoryOk
  | .error t => t.MemoryOk

theorem State.readParts_memoryOk (cid : Nat) (l : List (Nat × Nat)) (h : s.MemoryOk) : PartsOk Prod.snd (s.readParts cid l) := by
  induction l generalizing s with
  | nil => exact h
  | cons x l ih =>
    unfold State.readParts
    have k := State.sysRead1_memoryOk cid x.1 x.2 false h
    split <;> rename_i e <;> rw [e] at k
    · exact k
    next t =>
      have k' := ih (s := t) k
      cases e' : t.readParts cid l <;> rw [e'] at k'
      · exact k'
      · exact k'

theorem State.mayParts_memoryOk (cid : Nat) (l : List (Nat × Nat)) (h : s.MemoryOk) : PartsOk id (s.mayParts cid l) := by
  induction l generalizing s with
  | nil => exact h
  | cons x l ih =>
    unfold State.mayParts
    have k := State.sysMay_memoryOk cid x.1 h
    split <;> rename_i e <;> rw [e] at k
    · exact k
    · exact ih k

theorem State.writeParts_memoryOk (cid : Nat) (l : List (Nat × Nat)) (bs : List Byte) (h : s.MemoryOk) : PartsOk id (s.writeParts cid l bs) := by
  induction l generalizing s bs with
  | nil => exact h
  | cons x l ih =>
    unfold State.writeParts
    split
    next e => exact (e ▸ (s.keepsEnd_sysWrite1 ..).ok h :)
    next e => exact ih _ (e ▸ (s.keepsEnd_sysWrite1 ..).ok h :)

end

end Sys2Proof.Machine

/-! The memories stay in canonical form: the event rows of tiles, channels, units, queues, records, launches and pages. -/

namespace Sys2Proof.Machine

open State

/-- An answer leaves the memories in canonical form. -/
def AnswerOk : Answer → Prop
  | .next t => t.MemoryOk
  | _ => True

section
variable {s : State}

theorem AnswerOk.next (h : s.MemoryOk) : AnswerOk (.next s) := h

theorem AnswerOk.afterOf {a : Answer} (k : AnswerOk a) (h : s.MemoryOk) : (afterOf a s).MemoryOk := by
  cases a with
  | next t => exact k
  | fault f => exact h
  | refused r => exact h

theorem State.runRec_memoryOk (r : RecId) (ty : Nat) {f : VQueue → Rec → State} (hf : ∀ q x, (f q x).MemoryOk) (h : s.MemoryOk) :
    (s.runRec r ty f).MemoryOk := by
  unfold State.runRec
  split
  · exact h
  · exact .ite (.same (State.outcome_store ..) h) (hf _ _)

/-! ### Results and accesses -/

theorem execPipelineResultOffer_memoryOk (a : TileAddr) (h : s.MemoryOk) : AnswerOk (execPipelineResultOffer a s) := by
  refine AnswerOk.next (.ite ?_ h)
  split
  · exact .same (State.offerFlight_store ..) h
  · exact h

theorem execChannelDelivery_memoryOk (a : TileAddr) (ch : Nat) (h : s.MemoryOk) : AnswerOk (execChannelDelivery a ch s) := by
  refine AnswerOk.next (.ite ?_ h)
  split
  · exact h
  split
  · exact h
  split
  · exact .same (State.breakHit_store ..) h
  · exact .same (State.deliverHead_store ..) h

theorem execMemoryPortAccess_memoryOk (a : TileAddr) (h : s.MemoryOk) : AnswerOk (execMemoryPortAccess a s) :=
  AnswerOk.next (.ite (State.portAccess_memoryOk _ h) h)

theorem execAccessRetry_memoryOk (a : TileAddr) (h : s.MemoryOk) : AnswerOk (execAccessRetry a s) := by
  refine AnswerOk.next (.ite ?_ h)
  split
  · exact .ite h (.ite (.same (State.abortAccess_store ..) h) (State.portAccess_memoryOk _ (.same (State.setHead_store ..) h)))
  · exact h

theorem execAccessComplete_memoryOk (a : TileAddr) (k : Nat) (h : s.MemoryOk) : AnswerOk (execAccessComplete a k s) := by
  refine AnswerOk.next ?_
  split
  · exact h
  · exact .ite h (State.accessStep_memoryOk _ _ _ _ h)

theorem execReleaseComplete_memoryOk (b k : Nat) (h : s.MemoryOk) : AnswerOk (execReleaseComplete b k s) := by
  refine AnswerOk.next (.ite ?_ h)
  split
  · exact h
  · exact .ite (State.performRelease_memoryOk _ _ ((State.keeps_modBillet ..).memory ((State.keeps_releaseCaches ..).memory h)) h) h

theorem execWatchReread_memoryOk (b u : Nat) (h : s.MemoryOk) : AnswerOk (execWatchReread b u s) := by
  refine AnswerOk.next (.ite ?_ h)
  split
  · exact h
  · exact .ite (.ite (.same (State.finish_store ..) (by exact h)) h) h

theorem execWaitSlotDeliver_memoryOk (a : TileAddr) (k : Nat) (h : s.MemoryOk) : AnswerOk (execWaitSlotDeliver a k s) := by
  refine AnswerOk.next (.ite ?_ h)
  split
  · exact h
  refine .ite (.same (State.deliver_store ..) ?_) h
  split
  · exact .same (State.acquireCaches_store ..) (by exact h)
  · exact h

theorem execSparseUpdateApply_memoryOk (g : List Nat) (h : s.MemoryOk) : AnswerOk (execSparseUpdateApply g s) := by
  refine AnswerOk.next (.ite ?_ h)
  split
  · exact h
  split
  · exact .same (State.sparseAll_store ..) (.same (State.applySpacc_store ..) (by exact h))
  · exact State.applyAtoms_memoryOk _ _ _ _ (by exact h)
  · exact h

theorem execCopyGranuleMove_memoryOk (b c : Nat) (h : s.MemoryOk) : AnswerOk (execCopyGranuleMove b c s) := by
  refine AnswerOk.next (.ite ?_ h)
  split
  · exact .ite (State.copyStops_memoryOk _ _ _ _ _ h) (State.moveGranule_memoryOk _ _ _ _ h)
  · exact h

theorem execCopyComplete_memoryOk (b c : Nat) (h : s.MemoryOk) : AnswerOk (execCopyComplete b c s) := by
  refine AnswerOk.next (.ite ?_ h)
  split
  · exact .ite h (.ite (State.copyStops_memoryOk _ _ _ _ _ h) (.ite (.same (State.copyDone_store ..) h) (State.copySignal_memoryOk _ _ _ _ h)))
  · exact h

theorem execRingTileFilled_memoryOk (b ring : Nat) (h : s.MemoryOk) : AnswerOk (execRingTileFilled b ring s) := by
  refine AnswerOk.next (.ite ?_ h)
  split
  · exact h
  refine .ite ?_ h
  dsimp only
  split
  · exact .ite h h
  · exact h

/-! ### Matrix work -/

theorem execMmaReadsComplete_memoryOk (a : TileAddr) (h : s.MemoryOk) : AnswerOk (execMmaReadsComplete a s) :=
  AnswerOk.next (.ite (.same (State.readsDue_store ..) h) h)

theorem execMmaStepApply_memoryOk (a : TileAddr) (h : s.MemoryOk) : AnswerOk (execMmaStepApply a s) := by
  refine AnswerOk.next (.ite ?_ h)
  split
  · exact .ite (.same (State.applyPair_store ..) h) h
  · exact h

theorem execMzeroComplete_memoryOk (a : TileAddr) (k : Nat) (h : s.MemoryOk) : AnswerOk (execMzeroComplete a k s) := by
  refine AnswerOk.next (.ite ?_ h)
  split
  · exact h
  · exact .ite (.same (State.deliver_store ..) (by exact h)) h

theorem execMdrainRow_memoryOk (n : NodeAddr) (h : s.MemoryOk) : AnswerOk (execMdrainRow n s) := by
  refine AnswerOk.next (.ite ?_ h)
  split
  · refine .ite ?_ h
    split
    · exact .same (State.sendRow_store ..) h
    · exact h
  · exact h

theorem execSpflushEntry_memoryOk (n : NodeAddr) (h : s.MemoryOk) : AnswerOk (execSpflushEntry n s) := by
  refine AnswerOk.next (.ite ?_ h)
  split
  · exact .ite h (.ite h (.same (State.flushNext_store ..) h))
  · exact h

/-! ### Channels, flits and control -/

theorem execOutputInject_memoryOk (a : TileAddr) (ch : Nat) (h : s.MemoryOk) : AnswerOk (execOutputInject a ch s) := by
  refine AnswerOk.next (.ite ?_ h)
  split
  · dsimp only
    split
    · exact .same (State.injectFifo_store ..) h
    · exact .ite (.same (State.injectPool_store ..) h) h
  · exact h

theorem execOffSignalViewUpdate_memoryOk (k : Nat) (h : s.MemoryOk) : AnswerOk (execOffSignalViewUpdate k s) := by
  refine AnswerOk.next ?_
  split
  · exact h
  · exact .ite (.same (State.setView_store ..) (by exact h)) h

theorem State.lateFlit_memoryOk (k : Nat) (f : Flit) (h : s.MemoryOk) :
    (if f.edge.isSome then { s.dropFlit k with late := s.late ++ [f] } else s.dropFlit k).MemoryOk := .ite h h

theorem execFlitIngress_memoryOk (k : Nat) (h : s.MemoryOk) : AnswerOk (execFlitIngress k s) := by
  refine AnswerOk.next ?_
  split
  · exact h
  · exact .ite h (.ite (State.lateFlit_memoryOk _ _ h) (.same (State.ingress_store ..) h))

theorem execBoundaryGuard_memoryOk (k nb : Nat) (h : s.MemoryOk) : AnswerOk (execBoundaryGuard k nb s) := by
  refine AnswerOk.next ?_
  split
  · exact h
  split
  · exact h
  · exact .ite h (.ite (State.lateFlit_memoryOk _ _ h) (.ite (.ite h h) (.same (State.guardDropped_store ..) h)))

theorem execFrontDeskRedeliver_memoryOk (sd : Nat) (h : s.MemoryOk) : AnswerOk (execFrontDeskRedeliver sd s) := by
  refine AnswerOk.next ?_
  split
  · exact h
  · exact .same (State.redeliver_store ..) h

theorem execWaystationDrain_memoryOk (r : RecId) (e : Nat) (h : s.MemoryOk) : AnswerOk (execWaystationDrain r e s) := by
  refine AnswerOk.next ?_
  split
  · exact h
  split
  · exact h
  refine .ite h ?_
  split
  · exact h
  refine .ite h ?_
  split
  · exact .ite (.same (State.edgeSettled_store ..) h) h
  · exact .ite h (.same (State.drainTok_store ..) h)

theorem execReturnQueueDeliver_memoryOk (a : TileAddr) (h : s.MemoryOk) : AnswerOk (execReturnQueueDeliver a s) := by
  refine AnswerOk.next (.ite ?_ h)
  split
  · exact h
  · exact .ite (.same (State.offerOut_store ..) (by exact h)) h

theorem execCtrlTokenArrive_memoryOk (b : Nat) (h : s.MemoryOk) : AnswerOk (execCtrlTokenArrive b s) := by
  refine AnswerOk.next (.ite h ?_)
  split
  · exact h
  · exact .same (State.ctrlAccepted_store ..) (by exact h)

theorem execFloatTileReassign_memoryOk (b f : Nat) (h : s.MemoryOk) : AnswerOk (execFloatTileReassign b f s) := by
  refine AnswerOk.next (.ite ?_ h)
  split
  · exact h
  split
  · exact h
  · exact .ite h h

/-! ### Queues and records -/

theorem execNotifyWrite_memoryOk (fn qn : Nat) (v : Word) (h : s.MemoryOk) : AnswerOk (execNotifyWrite fn qn v s) := by
  refine AnswerOk.next (.ite h ?_)
  split
  · exact h
  next q _ =>
    have hw : (s.setQueue ((s.func fn).qbase + qn) { q with tail := v, lastAct := s.ns, notifyNs := s.ns }).askWake.MemoryOk :=
      .same (State.askWake_store _) (by exact h)
    exact .ite h (.ite hw (.same (State.addKnock_store ..) hw))

theorem execKnockService_memoryOk (sd : Nat) (h : s.MemoryOk) : AnswerOk (execKnockService sd s) := by
  refine AnswerOk.next (.ite ?_ h)
  split
  · exact h
  · exact State.serveKnock_memoryOk _ _ h

theorem execSlotRead_memoryOk (q : Nat) (h : s.MemoryOk) : AnswerOk (execSlotRead q s) := by
  refine AnswerOk.next ?_
  split
  · exact h
  · exact .ite (State.readSlot_memoryOk _ _ h) h

theorem execDecrementDeliver_memoryOk (q : Nat) (h : s.MemoryOk) : AnswerOk (execDecrementDeliver q s) :=
  AnswerOk.next ((State.keeps_modQueue ..).memory h)

theorem execRecordComplete_memoryOk (r : RecId) (h : s.MemoryOk) : AnswerOk (execRecordComplete r s) := by
  refine AnswerOk.next ?_
  split
  · exact h
  · exact .ite ((State.keeps_completeRec ..).memory h) h

theorem execCopyRecord_memoryOk (r : RecId) (h : s.MemoryOk) : AnswerOk (execCopyRecord r s) :=
  AnswerOk.next (State.runRec_memoryOk _ _ (fun _ _ => .ite (State.copyStep_memoryOk _ _ _ (State.touchRec_memoryOk _ h)) h) h)

theorem execSignalRecord_memoryOk (r : RecId) (h : s.MemoryOk) : AnswerOk (execSignalRecord r s) :=
  AnswerOk.next (State.runRec_memoryOk _ _ (fun _ _ => .ite (State.signalStep_memoryOk _ _ _ (State.touchRec_memoryOk _ h)) h) h)

theorem execWaitmem_memoryOk (r : RecId) (h : s.MemoryOk) : AnswerOk (execWaitmem r s) :=
  AnswerOk.next (State.runRec_memoryOk _ _ (fun _ _ => .ite (State.waitmemStep_memoryOk _ _ _ (State.touchRec_memoryOk _ h)) h) h)

theorem execWaittl_memoryOk (r : RecId) (h : s.MemoryOk) : AnswerOk (execWaittl r s) := by
  have ht := State.touchRec_memoryOk r h
  refine AnswerOk.next (State.runRec_memoryOk _ _ (fun q x => ?_) h)
  dsimp only
  split
  · exact ht
  · exact .ite ht (.same (State.outcome_store ..) (.same (State.acquireSide_store ..) ht))

theorem execJoinRecord_memoryOk (r : RecId) (h : s.MemoryOk) : AnswerOk (execJoinRecord r s) :=
  AnswerOk.next (State.runRec_memoryOk _ _ (fun _ _ => .same (State.outcome_store ..) (State.touchRec_memoryOk _ h)) h)

theorem execTimegate_memoryOk (r : RecId) (h : s.MemoryOk) : AnswerOk (execTimegate r s) :=
  have ht := State.touchRec_memoryOk r h
  AnswerOk.next (State.runRec_memoryOk _ _ (fun _ _ => .ite (.same (State.outcome_store ..) ht) ht) h)

theorem execEvict_memoryOk (r : RecId) (h : s.MemoryOk) : AnswerOk (execEvict r s) :=
  AnswerOk.next (State.runRec_memoryOk _ _ (fun _ _ => .same (State.outcome_store ..) (by exact State.touchRec_memoryOk r h)) h)

theorem execLaunch_memoryOk (r : RecId) (h : s.MemoryOk) : AnswerOk (execLaunch r s) :=
  AnswerOk.next (State.runRec_memoryOk _ _ (fun _ _ => .ite (State.launchStep_memoryOk _ _ _ h) h) h)

theorem execPagein_memoryOk (r : RecId) (h : s.MemoryOk) : AnswerOk (execPagein r s) := by
  have ht := State.touchRec_memoryOk r h
  refine AnswerOk.next (State.runRec_memoryOk _ _ (fun q x => ?_) h)
  split
  · exact .ite (.same (State.outcome_store ..) ht) (.same (State.raiseFault_store ..) ht)
  · exact .ite (.same (State.outcome_store ..) h) (State.holdPage_memoryOk _ _ _ ht)

/-! ### Launches -/

theorem execLaunchGatesOpen_memoryOk (r : RecId) (h : s.MemoryOk) : AnswerOk (execLaunchGatesOpen r s) := by
  refine AnswerOk.next ?_
  split
  · exact h
  refine .ite h ?_
  split
  · exact .ite h h
  · exact h
  · exact h

theorem execArgumentTokenInject_memoryOk (r : RecId) (h : s.MemoryOk) : AnswerOk (execArgumentTokenInject r s) := by
  refine AnswerOk.next ?_
  split
  · exact h
  split
  · exact h
  split
  · exact h
  · exact .ite (.same (State.injectArg_store ..) h) h

theorem execCheckoutTimeReached_memoryOk (r : RecId) (h : s.MemoryOk) : AnswerOk (execCheckoutTimeReached r s) := by
  refine AnswerOk.next ?_
  split
  · exact h
  · exact .ite (State.checkoutNow_memoryOk _ h) h

theorem execDeadlineReached_memoryOk (r : RecId) (h : s.MemoryOk) : AnswerOk (execDeadlineReached r s) := by
  refine AnswerOk.next ?_
  split
  · exact h
  · have hf : (s.freeze (s.billetsOf r) .deadline).MemoryOk := .same (State.freeze_store ..) h
    exact .ite ((State.keeps_endLaunch ..).memory (by exact hf)) h

theorem execPageFault_memoryOk (r : RecId) (k : Nat) (h : s.MemoryOk) : AnswerOk (execPageFault r k s) := by
  refine AnswerOk.next ?_
  split
  · exact h
  · exact .ite (.same (State.raiseFault_store ..) h) h

theorem execPageFaultServe_memoryOk (sd : Nat) (h : s.MemoryOk) : AnswerOk (execPageFaultServe sd s) :=
  AnswerOk.next (.ite (State.serveFirst_memoryOk _ (.same (State.shrinkAll_store _) h)) h)

/-! ### Pages -/

theorem execPageLoad_memoryOk (b : Nat) (h : s.MemoryOk) : AnswerOk (execPageLoad b s) := by
  refine AnswerOk.next ?_
  split
  · split
    · exact h
    refine .ite ?_ h
    split
    · exact h
    · exact State.streamPage_memoryOk _ _ _ _ h
  · exact h

theorem execTileCrcAck_memoryOk (t : TileAddr) (good : Bool) (h : s.MemoryOk) : AnswerOk (execTileCrcAck t good s) := by
  refine AnswerOk.next ?_
  split
  · exact .ite (.ite h (.ite (State.loadUe_memoryOk _ _ h) h)) h
  · exact h

theorem execStewardRouteRecompute_memoryOk (b : Nat) (h : s.MemoryOk) : AnswerOk (execStewardRouteRecompute b s) :=
  AnswerOk.next (.ite (.same (State.tune_store ..) h) h)

theorem execStewardRoutesDone_memoryOk (b : Nat) (h : s.MemoryOk) : AnswerOk (execStewardRoutesDone b s) := by
  refine AnswerOk.next ?_
  split
  · exact .ite (State.stewardDone_memoryOk _ _ _ h) h
  · exact h

theorem execPageEvict_memoryOk (b : Nat) (h : s.MemoryOk) : AnswerOk (execPageEvict b s) := by
  refine AnswerOk.next ?_
  split
  · refine .ite ?_ h
    split
    next e => exact .same (State.startEvict_store ..) (.same (State.reservePinned_store e) h)
    · exact State.quotaFails_memoryOk _ _ h
    · exact h
  · exact h

theorem execDrainGateTimeout_memoryOk (b : Nat) (h : s.MemoryOk) : AnswerOk (execDrainGateTimeout b s) := by
  refine AnswerOk.next ?_
  split
  · exact h
  · exact .ite h h

theorem execTileTaskBoundary_memoryOk (b : Nat) (h : s.MemoryOk) : AnswerOk (execTileTaskBoundary b s) := by
  refine AnswerOk.next ?_
  split
  · exact .ite (State.pageLeaves_memoryOk _ _ _ _ h) h
  · exact h

theorem execEvictionBudgetExpire_memoryOk (b : Nat) (h : s.MemoryOk) : AnswerOk (execEvictionBudgetExpire b s) := by
  refine AnswerOk.next ?_
  split
  · exact .ite ((State.keeps_modBillet ..).memory (.same (State.freeze_store ..) h)) h
  · exact h

theorem execScanOutComplete_memoryOk (b : Nat) (h : s.MemoryOk) : AnswerOk (execScanOutComplete b s) := by
  refine AnswerOk.next ?_
  split
  next p e _ _ =>
    have hl := State.pageLeaves_memoryOk b p e 2 h
    exact .ite (.ite hl (.same (State.unfreeze_store ..) hl)) h
  · exact h

theorem execGenerationFlushComplete_memoryOk (b : Nat) (h : s.MemoryOk) : AnswerOk (execGenerationFlushComplete b s) := by
  refine AnswerOk.next ?_
  split
  · exact h
  · exact .ite (.same (State.afterFree_store ..) (by exact h)) h

end

end Sys2Proof.Machine

/-! The memories stay in canonical form: the event rows of the mailbox, the stack, the time base, power and the debugger. -/

namespace Sys2Proof.Machine

open State

section
variable {s : State}

/-! ### The mailbox -/

theorem State.applyCommand_memoryOk (m : MbReq) (may args : Bool) {run : State → State × MbAns}
    (hr : ∀ s, s.MemoryOk → (run s).1.MemoryOk) (h : s.MemoryOk) : (s.applyCommand m may args run).MemoryOk :=
  .ite (.same (State.mbFinish_store ..) h) (.ite (.same (State.mbFinish_store ..) h) (.same (State.mbAnswer_store ..) (hr _ h)))

theorem State.command_memoryOk (m : MbReq) (op : Nat) (may args : Bool) {run : State → State × MbAns}
    (hr : ∀ s, s.MemoryOk → (run s).1.MemoryOk) (h : s.MemoryOk) : (s.command m op may args run).MemoryOk := by
  have ha : (s.mbAccept m (BitVec.ofNat 16 op)).MemoryOk := .same (State.mbAccept_store ..) h
  exact .ite (.ite (State.applyCommand_memoryOk _ _ _ hr (by exact h)) h)
    (.ite h (.ite (.same (State.mbWrite_store ..) h) (.ite (State.applyCommand_memoryOk _ _ _ hr ha) ha)))

/-- What a command's work leaves of the state. -/
theorem ite_fst {p : Prop} [Decidable p] {x y : State × MbAns} (h : x.1.MemoryOk) (k : y.1.MemoryOk) : (if p then x else y).1.MemoryOk := by
  split
  · exact h
  · exact k

theorem execCtxwrite_memoryOk (m : MbReq) (h : s.MemoryOk) : AnswerOk (execCtxwrite m s) :=
  AnswerOk.next (State.command_memoryOk _ _ _ _ (fun _ h => ite_fst h (ite_fst ((State.keeps_startZeroing ..).memory h)
    (.same (State.writeCtx_store ..) h))) h)

theorem execCtxread_memoryOk (m : MbReq) (h : s.MemoryOk) : AnswerOk (execCtxread m s) :=
  AnswerOk.next (State.command_memoryOk _ _ _ _ (fun _ h => h) h)

theorem execQrange_memoryOk (m : MbReq) (h : s.MemoryOk) : AnswerOk (execQrange m s) :=
  AnswerOk.next (State.command_memoryOk _ _ _ _ (fun _ h => ite_fst h (ite_fst h h)) h)

theorem execQinstall_memoryOk (m : MbReq) (h : s.MemoryOk) : AnswerOk (execQinstall m s) :=
  AnswerOk.next (State.command_memoryOk _ _ _ _ (fun _ h => ite_fst h (ite_fst h h)) h)

theorem execQdestroy_memoryOk (m : MbReq) (h : s.MemoryOk) : AnswerOk (execQdestroy m s) := by
  refine AnswerOk.next (State.command_memoryOk _ _ _ _ (fun s h => ite_fst h ?_) h)
  split
  · exact h
  · exact ite_fst h (ite_fst h ((State.keeps_destroyQueue ..).memory h))

theorem execFqinstall_memoryOk (m : MbReq) (h : s.MemoryOk) : AnswerOk (execFqinstall m s) :=
  AnswerOk.next (State.command_memoryOk _ _ _ _ (fun _ h => ite_fst h (ite_fst h (State.faultHeader_memoryOk _ _ (by exact h)))) h)

theorem execInval_memoryOk (m : MbReq) (h : s.MemoryOk) : AnswerOk (execInval m s) :=
  AnswerOk.next (State.command_memoryOk _ _ _ _ (fun _ h => ite_fst h (ite_fst h h)) h)

theorem execInvalidationComplete_memoryOk (fn : Nat) (h : s.MemoryOk) : AnswerOk (execInvalidationComplete fn s) := by
  refine AnswerOk.next ?_
  split
  · exact .ite (.same (State.ackInval_store ..) h) (.ite (.same (State.commandDone_store ..) h) h)
  · exact h

theorem execFaultresume_memoryOk (m : MbReq) (h : s.MemoryOk) : AnswerOk (execFaultresume m s) :=
  AnswerOk.next (State.command_memoryOk _ _ _ _ (fun _ h => ite_fst h (.same (State.answered_store ..) (State.wakeAll_memoryOk _ _ h))) h)

theorem execFaultabort_memoryOk (m : MbReq) (h : s.MemoryOk) : AnswerOk (execFaultabort m s) :=
  AnswerOk.next (State.command_memoryOk _ _ _ _ (fun _ h => ite_fst h (.same (State.answered_store ..) (.same (State.abortRecs_store ..)
    (.same (State.wakePages_store ..) h)))) h)

theorem execRebalance_memoryOk (m : MbReq) (h : s.MemoryOk) : AnswerOk (execRebalance m s) := by
  refine AnswerOk.next ?_
  split
  · exact .ite (.same (State.waitsDone_store ..) h) h
  · exact .same (State.rebalance_store ..) h

theorem execDebugPermit_memoryOk (m : MbReq) (h : s.MemoryOk) : AnswerOk (execDebugPermit m s) :=
  AnswerOk.next (State.command_memoryOk _ _ _ _ (fun _ h => ite_fst h (ite_fst h (.same (State.permit_store ..) h))) h)

theorem execDtbread_memoryOk (m : MbReq) (h : s.MemoryOk) : AnswerOk (execDtbread m s) :=
  AnswerOk.next (State.command_memoryOk _ _ _ _ (fun _ h => h) h)

theorem execTsyncwrite_memoryOk (m : MbReq) (h : s.MemoryOk) : AnswerOk (execTsyncwrite m s) :=
  AnswerOk.next (State.command_memoryOk _ _ _ _ (fun _ h => h) h)

theorem execFaultlog_memoryOk (m : MbReq) (h : s.MemoryOk) : AnswerOk (execFaultlog m s) :=
  AnswerOk.next (State.command_memoryOk _ _ _ _ (fun _ h => ite_fst h h) h)

theorem execRegread_memoryOk (m : MbReq) (h : s.MemoryOk) : AnswerOk (execRegread m s) := by
  refine AnswerOk.next (State.command_memoryOk _ _ _ _ (fun s h => ?_) h)
  split <;> exact h

theorem execRegwrite_memoryOk (m : MbReq) (h : s.MemoryOk) : AnswerOk (execRegwrite m s) :=
  AnswerOk.next (State.command_memoryOk _ _ _ _ (fun _ h => ite_fst h h) h)

theorem execSetrole_memoryOk (m : MbReq) (h : s.MemoryOk) : AnswerOk (execSetrole m s) := by
  have hs : (if s.roleUnderWay m then s else s.setrole m).MemoryOk := .ite h (.same (State.setrole_store ..) h)
  exact AnswerOk.next (.ite (State.roleStep_memoryOk _ hs) hs)

theorem execFwwrite_memoryOk (m : MbReq) (h : s.MemoryOk) : AnswerOk (execFwwrite m s) :=
  AnswerOk.next (State.command_memoryOk _ _ _ _ (fun _ h => h) h)

theorem execFwcommit_memoryOk (m : MbReq) (h : s.MemoryOk) : AnswerOk (execFwcommit m s) := by
  have hc : (s.command m 0x0061 m.pf0 (m.endsAt 1) fun s => s.fwCommit m).MemoryOk :=
    State.command_memoryOk _ _ _ _ (fun _ h => .same (State.fwCommit_store ..) h) h
  refine AnswerOk.next ?_
  split
  · exact .ite (.ite h (State.fwWritten_memoryOk _ h)) hc
  · exact hc

theorem State.setpwr_memoryOk (m : MbReq) (code : Nat) {run : State → State × MbAns}
    (hr : ∀ s, s.MemoryOk → (run s).1.MemoryOk) (h : s.MemoryOk) : (s.setpwr m code run).MemoryOk :=
  State.command_memoryOk _ _ _ _ (fun _ h => ite_fst h (hr _ h)) h

theorem execSetpwrC0_memoryOk (m : MbReq) (h : s.MemoryOk) : AnswerOk (execSetpwrC0 m s) :=
  AnswerOk.next (State.setpwr_memoryOk _ _ (fun _ h => ite_fst h (.same (State.startWake_store _) h)) h)

theorem execSetpwrC2_memoryOk (m : MbReq) (h : s.MemoryOk) : AnswerOk (execSetpwrC2 m s) :=
  AnswerOk.next (State.setpwr_memoryOk _ _ (fun _ h => State.enterC2_memoryOk h) h)

theorem execSetpwrC3_memoryOk (m : MbReq) (h : s.MemoryOk) : AnswerOk (execSetpwrC3 m s) := by
  unfold execSetpwrC3
  refine AnswerOk.next ?_
  extract_lets t
  have ht : t.MemoryOk := by
    refine .ite h (State.setpwr_memoryOk _ _ (fun s h => ite_fst h ?_) h)
    have hw : (if s.power == .c0 then s else s.wake).MemoryOk := .ite h (State.wake_memoryOk h)
    exact hw
  exact .ite (State.stepC3_memoryOk ht) ht

/-! ### Clocks, links, sites and errors -/

theorem execThermalStepUp_memoryOk (sd : Nat) (h : s.MemoryOk) : AnswerOk (execThermalStepUp sd s) :=
  AnswerOk.next (.ite (.same (State.startStep_store ..) h) h)

theorem execThermalShutdown_memoryOk (h : s.MemoryOk) : AnswerOk (execThermalShutdown s) := by
  have hl : (s.logRecord { cls := Config.shutdownClass % 256 }).MemoryOk := .same (State.logRecord_store ..) h
  exact AnswerOk.next hl

theorem execSiteSpare_memoryOk (sd layer x y : Nat) (h : s.MemoryOk) : AnswerOk (execSiteSpare sd layer x y s) := by
  unfold execSiteSpare
  extract_lets b s1 s2
  have h2 : s2.MemoryOk := .same (State.wantOut_store ..) (by exact h)
  exact AnswerOk.next (.ite (.ite (State.spareNow_memoryOk _ _ _ _ h2) h2) h)

theorem execFlitCrcFail_memoryOk (l : LinkId) (h : s.MemoryOk) : AnswerOk (execFlitCrcFail l s) := by
  unfold execFlitCrcFail
  refine AnswerOk.next (.ite (State.modLink_memoryOk _ _ h) ?_)
  split
  next n t e =>
    have ht : t.MemoryOk := (e ▸ s.keeps_draw.memory h :)
    exact .same (State.linkRequest_store ..) (State.modLink_memoryOk _ _ ht)

theorem execLinkRetrain_memoryOk (l : LinkId) (h : s.MemoryOk) : AnswerOk (execLinkRetrain l s) :=
  AnswerOk.next (.same (State.linkRequest_store ..) h)

theorem execLaneRepair_memoryOk (l : LinkId) (md : Nat) (h : s.MemoryOk) : AnswerOk (execLaneRepair l md s) :=
  AnswerOk.next (.ite h (.same (State.linkRequest_store ..) h))

theorem execWidthChange_memoryOk (l : LinkId) (md : Nat) (h : s.MemoryOk) : AnswerOk (execWidthChange l md s) :=
  AnswerOk.next (.ite (.same (State.linkRequest_store ..) h) h)

theorem execFrequencyChange_memoryOk (l : LinkId) (rate : Nat) (h : s.MemoryOk) : AnswerOk (execFrequencyChange l rate s) :=
  AnswerOk.next (.same (State.linkRequest_store ..) h)

theorem execLinkRetrainDone_memoryOk (l : LinkId) (good : Bool) (h : s.MemoryOk) : AnswerOk (execLinkRetrainDone l good s) := by
  refine AnswerOk.next ?_
  split
  · exact h
  next q _ =>
    have hm := State.modLink_memoryOk (linkKey l) (fun k => { k with running := none, crcFails := 0 }) h
    exact State.modLink_memoryOk _ _ (.ite (State.applyLink_memoryOk _ _ hm) (State.loseLink_memoryOk _ (.same (State.linkRecords_store ..) hm)))

theorem execSramRemap_memoryOk (sd bank : Nat) (column : Bool) (h : s.MemoryOk) : AnswerOk (execSramRemap sd bank column s) := by
  refine AnswerOk.next ?_
  split
  · exact h
  · exact .ite h h

theorem execL2WayDisable_memoryOk (sd way : Nat) (h : s.MemoryOk) : AnswerOk (execL2WayDisable sd way s) :=
  AnswerOk.next (.ite ((State.keeps_modSide ..).memory (State.dropWay_memoryOk _ _ h)) h)

theorem execGddrPageRetire_memoryOk (page : Nat) (h : s.MemoryOk) : AnswerOk (execGddrPageRetire page s) := by
  have hl : (s.logRecord { cls := clsUe, detail := 8, addr := page * 65536 }).MemoryOk := .same (State.logRecord_store ..) h
  exact AnswerOk.next (.ite hl h)

theorem execAgingMonitorRead_memoryOk (sd : Nat) (low : List AgingSite) (h : s.MemoryOk) : AnswerOk (execAgingMonitorRead sd low s) :=
  AnswerOk.next (.ite (State.aged_memoryOk _ _ h) h)

theorem execUe_memoryOk (u : UeSite) (h : s.MemoryOk) : AnswerOk (execUe u s) := by
  refine AnswerOk.next ?_
  cases u with
  | billet b tile slot code => exact .same (s.ueBillet_store b code 0 tile slot none) h
  | line a pa => exact .same (s.ueLine_store a pa) h
  | scrub pa => exact .same (s.ueScrub_store pa) h
  | record r page => exact h
  | steward b => exact .same (s.ueBillet_store b 9 0 0x1F 0x1FF none) h
  | frontDesk sd => exact State.ueDesk_memoryOk sd h
  | innkeeper sd => exact .same (s.ueInnkeeper_store sd) h

theorem execInnkeeperRestart_memoryOk (sd : Nat) (h : s.MemoryOk) : AnswerOk (execInnkeeperRestart sd s) := by
  have hm : (s.modSide sd fun d => { d with innkeeperDown := false }).MemoryOk := (State.keeps_modSide ..).memory h
  exact AnswerOk.next (.ite (.same (State.resumeStep_store ..) (.same (State.unfreeze_store ..) hm)) h)

theorem execStallCounterUpdate_memoryOk (sd : Nat) (h : s.MemoryOk) : AnswerOk (execStallCounterUpdate sd s) := by
  unfold execStallCounterUpdate
  extract_lets s1 s2
  have h1 : s1.MemoryOk := .same (State.passFreezes_store ..) (.same (State.holdFrozen_store ..) (.same (State.endEdges_store ..)
    (.same (State.endSignals_store ..) (.same (State.endBillets_store ..) h))))
  have h2 : s2.MemoryOk := .ite (.same (State.endTime_store _) h1) h1
  exact AnswerOk.next (.same (State.passFc_store ..) h2)

/-! ### Attestation and time -/

theorem execSpdmSessionEnd_memoryOk (id : Nat) (h : s.MemoryOk) : AnswerOk (execSpdmSessionEnd id s) :=
  AnswerOk.next ((State.keeps_dropSessions ..).memory h)

theorem execSpdmGetMeasurements_memoryOk (fn : Nat) (h : s.MemoryOk) : AnswerOk (execSpdmGetMeasurements fn s) := by
  refine AnswerOk.next ?_
  split
  · exact h
  split
  · exact h
  · exact .ite h h

/-! ### Power -/

theorem execPowerOnBoot_memoryOk (h : s.MemoryOk) : AnswerOk (execPowerOnBoot s) := by
  have hb : s.coldReset.applyRepairs.setDesks.bootImage.MemoryOk :=
    .same (State.bootImage_store _) (.same (State.setDesks_store _) (.same (State.applyRepairs_store _) (State.coldReset_memoryOk h)))
  exact AnswerOk.next (.ite hb h)

theorem execMainPowerRemoved_memoryOk (h : s.MemoryOk) : AnswerOk (execMainPowerRemoved s) := by
  have hc : ({ s.coldReset with power := .d3cold } : State).MemoryOk := State.coldReset_memoryOk h
  exact AnswerOk.next (.same (State.auxPower_store ..) hc)

theorem execPowerWake_memoryOk (h : s.MemoryOk) : AnswerOk (execPowerWake s) := by
  refine AnswerOk.next (.ite ?_ h)
  split
  · exact .ite (State.wake_memoryOk h) h
  · exact .ite (.same (State.startWake_store _) h) h

theorem execFunctionLevelReset_memoryOk (fn : Nat) (h : s.MemoryOk) : AnswerOk (execFunctionLevelReset fn s) :=
  AnswerOk.next (.ite (.same (State.askWake_store _) (State.resetFns_memoryOk _ h)) h)

theorem State.modCtx_memoryOk (c : Nat) (f : Context → Context) (h : s.MemoryOk) : (s.modCtx c f).MemoryOk := h

theorem execZeroingComplete_memoryOk (cid : Nat) (h : s.MemoryOk) : AnswerOk (execZeroingComplete cid s) :=
  AnswerOk.next (.ite (.same (State.readyFns_store _) (.same (State.waitsDone_store ..)
    (State.modCtx_memoryOk _ _ (State.zeroPages_memoryOk _ h)))) h)

/-! ### The debugger -/

theorem State.debugCmd_memoryOk (d : DbgReq) (ok : Bool) {run : State → State} (hr : (run s).MemoryOk) (h : s.MemoryOk) :
    (s.debugCmd d ok run).MemoryOk := .ite hr (.same (State.say_store ..) h)

theorem execAttach_memoryOk (d : DbgReq) (h : s.MemoryOk) : AnswerOk (execAttach d s) :=
  AnswerOk.next (.ite (.same (State.say_store ..) (.same (State.modSession_store ..) h)) (.same (State.say_store ..) h))

theorem execDetach_memoryOk (d : DbgReq) (h : s.MemoryOk) : AnswerOk (execDetach d s) :=
  AnswerOk.next (.ite (.same (State.say_store ..) ((State.keeps_endStops ..).memory (.same (State.endBreaks_store ..)
    (.same (State.modSession_store ..) h)))) (.same (State.say_store ..) h))

theorem execStop_memoryOk (d : DbgReq) (r : RecId) (h : s.MemoryOk) : AnswerOk (execStop d r s) :=
  AnswerOk.next (State.debugCmd_memoryOk _ _ (.same (State.say_store ..) (.same (State.debugStop_store ..) h)) h)

theorem execResume_memoryOk (d : DbgReq) (r : RecId) (h : s.MemoryOk) : AnswerOk (execResume d r s) :=
  AnswerOk.next (State.debugCmd_memoryOk _ _ (.same (State.say_store ..) (.same (State.resumeLaunch_store ..)
    (.same (State.passBreak_store ..) h))) h)

theorem execDiscard_memoryOk (d : DbgReq) (r : RecId) (n : NodeAddr) (h : s.MemoryOk) : AnswerOk (execDiscard d r n s) := by
  refine AnswerOk.next (State.debugCmd_memoryOk _ _ ?_ h)
  split
  next e => exact .same (State.say_store ..) (.same (State.discardAt_store e) h)
  · exact .same (State.say_store ..) h

theorem execScanrd_memoryOk (d : DbgReq) (b off len : Nat) (h : s.MemoryOk) : AnswerOk (execScanrd d b off len s) :=
  AnswerOk.next (State.debugCmd_memoryOk _ _ (.same (State.say_store ..) h) h)

theorem execScanwr_memoryOk (d : DbgReq) (b off : Nat) (v : List Bool) (h : s.MemoryOk) : AnswerOk (execScanwr d b off v s) :=
  AnswerOk.next (State.debugCmd_memoryOk _ _ (.same (State.say_store ..) (by exact h)) h)

theorem execMemrd_memoryOk (d : DbgReq) (va len : Nat) (h : s.MemoryOk) : AnswerOk (execMemrd d va len s) := by
  refine AnswerOk.next (State.debugCmd_memoryOk _ _ ?_ h)
  have k := State.readParts_memoryOk d.cid (parts va len) h
  split <;> rename_i e <;> rw [e] at k
  · exact .same (State.say_store ..) k
  · exact .same (State.say_store ..) k

theorem execMemwr_memoryOk (d : DbgReq) (va : Nat) (bs : List Byte) (h : s.MemoryOk) : AnswerOk (execMemwr d va bs s) := by
  have k : PartsOk id ((s.mayParts d.cid (parts va bs.length)).bind fun s => s.writeParts d.cid (parts va bs.length) bs) := by
    have km := State.mayParts_memoryOk d.cid (parts va bs.length) h
    cases e : s.mayParts d.cid (parts va bs.length) with
    | error t => exact (e ▸ km :)
    | ok t => exact State.writeParts_memoryOk _ _ _ (e ▸ km :)
  refine AnswerOk.next (State.debugCmd_memoryOk _ _ ?_ h)
  split <;> rename_i e <;> rw [e] at k
  · exact .same (State.say_store ..) k
  · exact .same (State.say_store ..) k

theorem execBpset_memoryOk (d : DbgReq) (page idx : Nat) (v : BitVec 192) (h : s.MemoryOk) : AnswerOk (execBpset d page idx v s) :=
  AnswerOk.next (State.debugCmd_memoryOk _ _ (.same (State.say_store ..) (.same (State.modBreaks_store ..) h)) h)

theorem execBpclr_memoryOk (d : DbgReq) (page idx : Nat) (h : s.MemoryOk) : AnswerOk (execBpclr d page idx s) :=
  AnswerOk.next (State.debugCmd_memoryOk _ _ (.same (State.say_store ..) (.same (State.modBreaks_store ..) h)) h)

theorem execRoute_memoryOk (d : DbgReq) (r : RecId) (b route dest tile ch : Nat) (h : s.MemoryOk) :
    AnswerOk (execRoute d r b route dest tile ch s) :=
  AnswerOk.next (State.debugCmd_memoryOk _ _ (.same (State.say_store ..) (.same (State.overrideRoute_store ..) h)) h)

end

end Sys2Proof.Machine

/-! The memories stay in canonical form: the nodes, a step that a debugger asks for, every act, and the step itself. -/

namespace Sys2Proof.Machine

open State

section
variable {s : State}

/-! ### Nodes and single steps -/

/-- A node's issue changes no memory (R183). -/
theorem exec_node_memoryOk {i : Instr} (hn : i.isNode = true) (h : s.MemoryOk) : AnswerOk (exec i s) := by
  cases e : exec i s with
  | next t =>
    obtain ⟨ht, -⟩ := nodeFrame s t i hn e
    rw [ht]
    exact h
  | fault f => trivial
  | refused r => trivial

theorem isNode_eq (i : Instr) : i.isNode = (i.gParts.isSome || i.mParts.isSome || isMma i) := by
  unfold Instr.isNode encode
  cases i.gParts with
  | some p =>
    obtain ⟨op, m, n⟩ := p
    dsimp only
    cases n.xg <;> rfl
  | none =>
    cases i.mParts with
    | some p => rfl
    | none => cases i <;> rfl

/-- A firing that a debugger asks for is the node's own; an event does nothing there (R424). -/
theorem nodeStep_eq (i : Instr) (s : State) : nodeStep i s = if i.isNode = true then exec i s else .next s := by
  rw [isNode_eq]
  cases i <;> rfl

theorem nodeStep_memoryOk (i : Instr) (h : s.MemoryOk) : AnswerOk (nodeStep i s) := by
  rw [nodeStep_eq]
  split
  next hn => exact exec_node_memoryOk hn h
  · exact h

theorem State.offerAll_memoryOk (a : TileAddr) (n : Nat) (h : s.MemoryOk) : (State.offerAll a n s).MemoryOk := by
  induction n generalizing s with
  | zero => exact h
  | succ n ih => exact ih ((execPipelineResultOffer_memoryOk a h).afterOf h)

theorem State.stepFc_memoryOk (n : NodeAddr) (o : StepBase) (h : s.MemoryOk) : (s.stepFc n o).MemoryOk := by
  unfold State.stepFc
  extract_lets a s0 s1 s2 s3 s4 s5 s6 s7 s8 s9 s10 s11 s12 s13
  have h0 : s0.MemoryOk := (State.keeps_modSide ..).memory h
  have h1 : s1.MemoryOk := .same ⟨rfl, rfl⟩ h0
  have h2 : s2.MemoryOk := (execMemoryPortAccess_memoryOk a h1).afterOf h1
  have h3 : s3.MemoryOk := (execAccessRetry_memoryOk a h2).afterOf h2
  have h4 : s4.MemoryOk := (execAccessComplete_memoryOk a _ h3).afterOf h3
  have h5 : s5.MemoryOk := .ite ((execSparseUpdateApply_memoryOk _ h4).afterOf h4) h4
  have h6 : s6.MemoryOk := (execReleaseComplete_memoryOk _ _ h5).afterOf h5
  have h7 : s7.MemoryOk := (execWatchReread_memoryOk _ _ h6).afterOf h6
  have h8 : s8.MemoryOk := (execMmaReadsComplete_memoryOk a h7).afterOf h7
  have h9 : s9.MemoryOk := (execMmaStepApply_memoryOk a h8).afterOf h8
  have h10 : s10.MemoryOk := (execMdrainRow_memoryOk n h9).afterOf h9
  have h11 : s11.MemoryOk := (execSpflushEntry_memoryOk n h10).afterOf h10
  have h12 : s12.MemoryOk := (execMzeroComplete_memoryOk a _ h11).afterOf h11
  have h13 : s13.MemoryOk := (execWaitSlotDeliver_memoryOk a _ h12).afterOf h12
  exact State.offerAll_memoryOk _ _ h13

theorem State.runStep_memoryOk (n : NodeAddr) (o : StepBase) (k : Nat) (h : s.MemoryOk) : (State.runStep n o k s).MemoryOk := by
  induction k generalizing s with
  | zero => exact h
  | succ k ih => exact .ite h (ih (State.stepFc_memoryOk _ _ h))

theorem State.stepNode_memoryOk {n : NodeAddr} {i : Instr} {t : State} (e : s.stepNode n i = some t) (h : s.MemoryOk) : t.MemoryOk := by
  unfold State.stepNode at e
  extract_lets s' s0 s1 s2 at e
  have h0 : s0.MemoryOk := .same ⟨rfl, rfl⟩ h
  have h1 : s1.MemoryOk := (nodeStep_memoryOk i h0).afterOf h0
  have h2 : s2.MemoryOk := State.runStep_memoryOk _ _ _ (by exact h1)
  split at e
  · cases e
  · cases e
    exact .same (State.say_store ..) (.same (State.endStep_store ..) h2)

theorem execStep_memoryOk (d : DbgReq) (r : RecId) (n : NodeAddr) (h : s.MemoryOk) : AnswerOk (execStep d r n s) := by
  refine AnswerOk.next (State.debugCmd_memoryOk _ _ ?_ h)
  cases e : ((s.tile n.tileAddr).instrAt n.blk n.slot).bind fun i => (s.passBreak r).stepNode n i with
  | none => exact .same (State.say_store ..) h
  | some t =>
    obtain ⟨i, -, e⟩ := Option.bind_eq_some_iff.mp e
    exact State.stepNode_memoryOk e (.same (State.passBreak_store ..) h)

/-! ### Every row -/

theorem exec_event_memoryOk {i : Instr} (hn : i.isNode = false) (h : s.MemoryOk) : AnswerOk (exec i s) := by
  rw [isNode_eq] at hn
  cases i
  case pipelineResultOffer => exact execPipelineResultOffer_memoryOk _ h
  case channelDelivery => exact execChannelDelivery_memoryOk _ _ h
  case outputInject => exact execOutputInject_memoryOk _ _ h
  case offSignalViewUpdate => exact execOffSignalViewUpdate_memoryOk _ h
  case flitIngress => exact execFlitIngress_memoryOk _ h
  case boundaryGuard => exact execBoundaryGuard_memoryOk _ _ h
  case frontDeskRedeliver => exact execFrontDeskRedeliver_memoryOk _ h
  case memoryPortAccess => exact execMemoryPortAccess_memoryOk _ h
  case accessRetry => exact execAccessRetry_memoryOk _ h
  case accessComplete => exact execAccessComplete_memoryOk _ _ h
  case sparseUpdateApply => exact execSparseUpdateApply_memoryOk _ h
  case releaseComplete => exact execReleaseComplete_memoryOk _ _ h
  case watchReread => exact execWatchReread_memoryOk _ _ h
  case waitSlotDeliver => exact execWaitSlotDeliver_memoryOk _ _ h
  case copyGranuleMove => exact execCopyGranuleMove_memoryOk _ _ h
  case copyComplete => exact execCopyComplete_memoryOk _ _ h
  case ringTileFilled => exact execRingTileFilled_memoryOk _ _ h
  case mmaReadsComplete => exact execMmaReadsComplete_memoryOk _ h
  case mmaStepApply => exact execMmaStepApply_memoryOk _ h
  case mzeroComplete => exact execMzeroComplete_memoryOk _ _ h
  case mdrainRow => exact execMdrainRow_memoryOk _ h
  case spflushEntry => exact execSpflushEntry_memoryOk _ h
  case returnQueueDeliver => exact execReturnQueueDeliver_memoryOk _ h
  case ctrlTokenArrive => exact execCtrlTokenArrive_memoryOk _ h
  case floatTileReassign => exact execFloatTileReassign_memoryOk _ _ h
  case notifyWrite => exact execNotifyWrite_memoryOk _ _ _ h
  case knockService => exact execKnockService_memoryOk _ h
  case slotRead => exact execSlotRead_memoryOk _ h
  case launch => exact execLaunch_memoryOk _ h
  case copyRecord => exact execCopyRecord_memoryOk _ h
  case signalRecord => exact execSignalRecord_memoryOk _ h
  case waitmem => exact execWaitmem_memoryOk _ h
  case waittl => exact execWaittl_memoryOk _ h
  case joinRecord => exact execJoinRecord_memoryOk _ h
  case pagein => exact execPagein_memoryOk _ h
  case evict => exact execEvict_memoryOk _ h
  case timegate => exact execTimegate_memoryOk _ h
  case recordComplete => exact execRecordComplete_memoryOk _ h
  case decrementDeliver => exact execDecrementDeliver_memoryOk _ h
  case launchGatesOpen => exact execLaunchGatesOpen_memoryOk _ h
  case argumentTokenInject => exact execArgumentTokenInject_memoryOk _ h
  case checkoutTimeReached => exact execCheckoutTimeReached_memoryOk _ h
  case deadlineReached => exact execDeadlineReached_memoryOk _ h
  case pageFault => exact execPageFault_memoryOk _ _ h
  case pageFaultServe => exact execPageFaultServe_memoryOk _ h
  case pageLoad => exact execPageLoad_memoryOk _ h
  case tileCrcAck => exact execTileCrcAck_memoryOk _ _ h
  case stewardRoutesDone => exact execStewardRoutesDone_memoryOk _ h
  case pageEvict => exact execPageEvict_memoryOk _ h
  case drainGateTimeout => exact execDrainGateTimeout_memoryOk _ h
  case tileTaskBoundary => exact execTileTaskBoundary_memoryOk _ h
  case evictionBudgetExpire => exact execEvictionBudgetExpire_memoryOk _ h
  case scanOutComplete => exact execScanOutComplete_memoryOk _ h
  case generationFlushComplete => exact execGenerationFlushComplete_memoryOk _ h
  case waystationDrain => exact execWaystationDrain_memoryOk _ _ h
  case ue => exact execUe_memoryOk _ h
  case flitCrcFail => exact execFlitCrcFail_memoryOk _ h
  case linkRetrain => exact execLinkRetrain_memoryOk _ h
  case laneRepair => exact execLaneRepair_memoryOk _ _ h
  case widthChange => exact execWidthChange_memoryOk _ _ h
  case frequencyChange => exact execFrequencyChange_memoryOk _ _ h
  case linkRetrainDone => exact execLinkRetrainDone_memoryOk _ _ h
  case thermalStepUp => exact execThermalStepUp_memoryOk _ h
  case thermalShutdown => exact execThermalShutdown_memoryOk h
  case agingMonitorRead => exact execAgingMonitorRead_memoryOk _ _ h
  case siteSpare => exact execSiteSpare_memoryOk _ _ _ _ h
  case sramRemap => exact execSramRemap_memoryOk _ _ _ h
  case l2WayDisable => exact execL2WayDisable_memoryOk _ _ h
  case gddrPageRetire => exact execGddrPageRetire_memoryOk _ h
  case ctxwrite => exact execCtxwrite_memoryOk _ h
  case ctxread => exact execCtxread_memoryOk _ h
  case qrange => exact execQrange_memoryOk _ h
  case qinstall => exact execQinstall_memoryOk _ h
  case qdestroy => exact execQdestroy_memoryOk _ h
  case fqinstall => exact execFqinstall_memoryOk _ h
  case inval => exact execInval_memoryOk _ h
  case invalidationComplete => exact execInvalidationComplete_memoryOk _ h
  case faultresume => exact execFaultresume_memoryOk _ h
  case faultabort => exact execFaultabort_memoryOk _ h
  case rebalance => exact execRebalance_memoryOk _ h
  case setrole => exact execSetrole_memoryOk _ h
  case debugPermit => exact execDebugPermit_memoryOk _ h
  case dtbread => exact execDtbread_memoryOk _ h
  case tsyncwrite => exact execTsyncwrite_memoryOk _ h
  case faultlog => exact execFaultlog_memoryOk _ h
  case regread => exact execRegread_memoryOk _ h
  case regwrite => exact execRegwrite_memoryOk _ h
  case setpwrC0 => exact execSetpwrC0_memoryOk _ h
  case setpwrC2 => exact execSetpwrC2_memoryOk _ h
  case setpwrC3 => exact execSetpwrC3_memoryOk _ h
  case powerWake => exact execPowerWake_memoryOk h
  case fwwrite => exact execFwwrite_memoryOk _ h
  case fwcommit => exact execFwcommit_memoryOk _ h
  case powerOnBoot => exact execPowerOnBoot_memoryOk h
  case functionLevelReset => exact execFunctionLevelReset_memoryOk _ h
  case zeroingComplete => exact execZeroingComplete_memoryOk _ h
  case attach => exact execAttach_memoryOk _ h
  case detach => exact execDetach_memoryOk _ h
  case stop => exact execStop_memoryOk _ _ h
  case resume => exact execResume_memoryOk _ _ h
  case step => exact execStep_memoryOk _ _ _ h
  case discard => exact execDiscard_memoryOk _ _ _ h
  case scanrd => exact execScanrd_memoryOk _ _ _ _ h
  case scanwr => exact execScanwr_memoryOk _ _ _ _ h
  case memrd => exact execMemrd_memoryOk _ _ _ h
  case memwr => exact execMemwr_memoryOk _ _ _ h
  case bpset => exact execBpset_memoryOk _ _ _ _ h
  case bpclr => exact execBpclr_memoryOk _ _ _ h
  case route => exact execRoute_memoryOk _ _ _ _ _ _ _ h
  case spdmGetMeasurements => exact execSpdmGetMeasurements_memoryOk _ h
  case stallCounterUpdate => exact execStallCounterUpdate_memoryOk _ h
  case mainPowerRemoved => exact execMainPowerRemoved_memoryOk h
  case spdmSessionEnd => exact execSpdmSessionEnd_memoryOk _ h
  case innkeeperRestart => exact execInnkeeperRestart_memoryOk _ h
  case stewardRouteRecompute => exact execStewardRouteRecompute_memoryOk _ h
  case thermalStepDown | powerCapExceeded => exact AnswerOk.next (.same (State.stepDown_store ..) h)
  case clockStepResume => exact AnswerOk.next (.ite (.same (State.resumeStep_store ..) h) h)
  case d3hotEntry => exact AnswerOk.next (.ite (State.d3hot_memoryOk h) h)
  case d3hotExit => exact AnswerOk.next (.ite (State.wake_memoryOk h) h)
  case eccCorrection => exact AnswerOk.next h
  case controlFifoAdvance | handlerFire | stageBalancerRun | c1Enter | c1Exit | ppsEdge | ztodLine | ptmDialogue | holdover | slewComplete
      | pwrcapI3cWrite | spdmGetVersion | spdmNegotiateAlgorithms | spdmSessionEstablish => exact AnswerOk.next (.ite h h)
  all_goals exact Bool.noConfusion hn

theorem exec_memoryOk (i : Instr) (h : s.MemoryOk) : AnswerOk (exec i s) := by
  cases hn : i.isNode with
  | true => exact exec_node_memoryOk hn h
  | false => exact exec_event_memoryOk hn h

/-! ### Every act -/

theorem runRow_memoryOk (i : Instr) (h : s.MemoryOk) : AnswerOk (runRow i s) := by
  unfold runRow
  split
  · trivial
  · exact exec_memoryOk i h

theorem State.releaseHeld_memoryOk (t : TileAddr) (h : s.MemoryOk) : (s.releaseHeld t).MemoryOk := .ite h h

theorem runAct_memoryOk (a : Act) (h : s.MemoryOk) : AnswerOk (runAct a s) := by
  cases a with
  | issue n =>
    unfold runAct
    dsimp only
    split
    · exact exec_memoryOk _ (.same ⟨rfl, rfl⟩ h)
    · split
      · trivial
      · exact h
  | row i => exact runRow_memoryOk i h
  | maybe i =>
    have hd := s.keeps_draw.memory h
    unfold runAct
    dsimp only
    split
    · exact runRow_memoryOk i hd
    · exact AnswerOk.next hd
  | engine t => exact AnswerOk.next h
  | select t => exact AnswerOk.next (State.releaseHeld_memoryOk t h)
  | sweep u left =>
    have hd := s.keeps_draw.memory h
    exact AnswerOk.next hd
  | settle sd => exact State.settle_memoryOk sd h

theorem State.setAgenda_memoryOk (acts : List Act) (h : s.MemoryOk) : ({ s with agenda := acts } : State).MemoryOk := h

theorem step_memoryOk (h : s.MemoryOk) : AnswerOk (step s) := by
  cases ha : s.agenda with
  | nil =>
    rw [step_of_empty ha]
    exact AnswerOk.next (State.setAgenda_memoryOk _ h)
  | cons a acts =>
    rw [step_of_agenda ha]
    exact runAct_memoryOk a (State.setAgenda_memoryOk _ h)

end

/-- Settles O6: every act of the agenda, a node's issue, an event row or the end of an fc, writes the memories through their own updates
alone, each of which keeps them in canonical form. -/
theorem stepMemoryOk : Obligations.StepMemoryOk := by
  intro s t h e
  have k := step_memoryOk h
  rw [e] at k
  exact k

end Sys2Proof.Machine
